-- ==== Sys2Proof/Word.lean ====
section
/-! DEFINITION. The word types of the machine (R2, R71, R72, R172) and their plainest arithmetic. -/

namespace Sys2Proof

/-- A 64-bit register or memory word (R71). -/
abbrev Word := BitVec 64

/-- A memory byte; multi-byte values are little-endian (R2). -/
abbrev Byte := BitVec 8

/-- One 32-bit lane of a vector register (R72), or one fetched word. -/
abbrev Lane := BitVec 32

/-- One accumulator element (R172). -/
abbrev AccElem := BitVec 128

/-- The number of a scalar, predicate or vector register. -/
abbrev RegNum := Fin 64

/-- The index of a core in the package: die × 128 + cluster × 16 + core. -/
abbrev CoreId := Fin 512

/-- The `n` bits of the natural number `w` from bit `lo` up. -/
def fld (w lo n : Nat) : Nat := w / 2 ^ lo % 2 ^ n

/-- Sign-extension of the `n`-bit value `v` to an integer. -/
def sext (n v : Nat) : Int := if v < 2 ^ (n - 1) then (v : Int) else (v : Int) - 2 ^ n

end Sys2Proof
end

