-- ==== Sys2Proof/Machine/Flags.lean ====
section
/-! DEFINITION. The numeric flags of NFLAGS and FSR (R8, R20, R81), the rounding modes and the controls of FCR (R80), and
the modifier fields that act on an operation (R113). -/

namespace Sys2Proof.Machine

/-- A set of numeric flags in the bit order of NFLAGS (R81). -/
abbrev Flags := BitVec 8

namespace Flg

/-- No flag. -/
def none : Flags := 0x00#8
/-- Invalid operation. -/
def iv : Flags := 0x01#8
/-- Division by zero. -/
def dz : Flags := 0x02#8
/-- Overflow. -/
def of : Flags := 0x04#8
/-- Underflow. -/
def uf : Flags := 0x08#8
/-- Inexact. -/
def nx : Flags := 0x10#8
/-- Saturated. -/
def sat : Flags := 0x20#8
/-- Accumulator overflow sticky. -/
def aovf : Flags := 0x40#8
/-- Accumulator discard sticky. -/
def astk : Flags := 0x80#8

end Flg

/-- A flag if a condition holds, and none otherwise. -/
def flagIf (b : Bool) (f : Flags) : Flags := if b then f else Flg.none

/-- The rounding modes of FCR.RM (R80). -/
inductive Rm where
  | rne | rtz | rup | rdn | rna
  deriving DecidableEq, Repr

/-- The mode that a value 0 to 4 of FCR.RM names (R80). -/
def rmOf (n : Nat) : Rm :=
  match n with
  | 0 => .rne
  | 1 => .rtz
  | 2 => .rup
  | 3 => .rdn
  | _ => .rna

/-- The clamps of a modifier word (R113). -/
inductive Clamp where
  | off | pos | sym | unit
  deriving DecidableEq, Repr

/-- The modifier fields that act on an operation's operands and result (R113). -/
structure OpMod where
  sat : Bool
  clamp : Clamp
  negA : Bool
  absA : Bool
  negB : Bool
  absB : Bool
  scale : Int
  deriving DecidableEq, Repr

/-- No modifier. -/
def OpMod.plain : OpMod :=
  { sat := false, clamp := .off, negA := false, absA := false, negB := false, absB := false, scale := 0 }

/-- What an operation captures at its issue of FCR and of its modifier word (R80, R113). -/
structure NumCtl where
  rm : Rm
  fza : Bool
  fzb : Bool
  fzc : Bool
  fzd : Bool
  mod : OpMod
  deriving DecidableEq, Repr

/-- The controls of the AS, and of the engines (R127, R170): RNE, no flush, no modifier. -/
def NumCtl.plain : NumCtl :=
  { rm := .rne, fza := false, fzb := false, fzc := false, fzd := false, mod := OpMod.plain }

/-- The NUMERIC enables of FCR.TEN are bits [12:8] in the order of the flags IV to NX (R80). -/
def numericTrap (ten : BitVec 5) (f : Flags) : Bool := (f.setWidth 5 &&& ten) != 0#5

/-- The flags that a register file of flags holds after `f` is set (R81). -/
def setFlags (fsr f : Flags) : Flags := fsr ||| f

end Sys2Proof.Machine
end

