-- ==== Sys2Proof/Machine/Num.lean ====
section
/-! DEFINITION. Number formats and arithmetic rules (07): exact values, the IEEE, binary8 and OCP MX types, RoundTo and
FloatFinish (R134), the binary8 rules (R159), the integer rules (R132, R135, R169) and S9 scales (R164). -/

namespace Sys2Proof.Machine

/-! ## Exact values -/

/-- An exact value: a NaN (signalling or quiet), an infinity, or the real (-1)^neg × m × 2^e, of which `st` says that the
magnitude is a little more than m × 2^e, by less than any unit that matters. -/
inductive Val where
  | nan (sig : Bool)
  | inf (neg : Bool)
  | fin (neg : Bool) (m : Nat) (e : Int) (st : Bool)
  deriving DecidableEq, Repr

namespace Val

/-- The zero of a sign. -/
def zero (neg : Bool) : Val := .fin neg 0 0 false

/-- The integer `i` as an exact value. -/
def ofInt (i : Int) : Val := .fin (decide (i < 0)) i.natAbs 0 false

/-- The real `n` × 2^e. -/
def scaled (n : Int) (e : Int) : Val := .fin (decide (n < 0)) n.natAbs e false

/-- Is the value a NaN. -/
def isNan : Val → Bool
  | .nan _ => true
  | _ => false

/-- Is the value an infinity. -/
def isInf : Val → Bool
  | .inf _ => true
  | _ => false

/-- Is the value a signalling NaN. -/
def isSig : Val → Bool
  | .nan sig => sig
  | _ => false

/-- Is the value a NaN or an infinity. -/
def isSpecial : Val → Bool
  | .fin _ _ _ _ => false
  | _ => true

/-- Is the value a zero of either sign. -/
def isZero : Val → Bool
  | .fin _ m _ st => m == 0 && !st
  | _ => false

/-- The value with its sign changed. -/
def neg : Val → Val
  | .nan sig => .nan sig
  | .inf n => .inf (!n)
  | .fin n m e st => .fin (!n) m e st

/-- The magnitude of the value. -/
def abs : Val → Val
  | .nan sig => .nan sig
  | .inf _ => .inf false
  | .fin _ m e st => .fin false m e st

/-- A zero made positive: an integer has no negative zero. -/
def intZero : Val → Val
  | .fin n m e st => if m = 0 && !st then .fin false 0 0 false else .fin n m e st
  | v => v

/-- The value times 2^k; infinities and NaNs unchanged. -/
def scale (v : Val) (k : Int) : Val :=
  match v with
  | .fin n m e st => .fin n m (e + k) st
  | v => v

/-- The mantissa of a finite value at the exponent `q`, when q is at most its own. -/
def alignTo (m : Nat) (e q : Int) : Nat := m <<< (e - q).toNat

/-- The signed mantissa. -/
def signed (n : Bool) (m : Nat) : Int := if n then -(m : Int) else (m : Int)

/-- The exact sum. A zero that a cancellation makes is +0, and −0 under RDN; the sum of zeros of one sign keeps it (IEEE
754-2019, R133). -/
def add (rm : Rm) (a b : Val) : Val :=
  match a, b with
  | .nan s, .nan t => .nan (s || t)
  | .nan s, _ => .nan s
  | _, .nan t => .nan t
  | .inf n, .inf k => if n = k then .inf n else .nan false
  | .inf n, _ => .inf n
  | _, .inf k => .inf k
  | .fin n m e st, .fin k l f su =>
    if m = 0 && l = 0 then
      (if n = k then .fin n 0 0 (st || su) else .fin (decide (rm = .rdn)) 0 0 false)
    else if l = 0 then .fin n m e st
    else if m = 0 then .fin k l f su
    else
      let q := min e f
      let s := signed n (alignTo m e q) + signed k (alignTo l f q)
      if s = 0 then .fin (decide (rm = .rdn)) 0 0 false
      else .fin (decide (s < 0)) s.natAbs q (st || su)

/-- The exact product. 0 × ∞ is a NaN. -/
def mul (a b : Val) : Val :=
  match a, b with
  | .nan s, .nan t => .nan (s || t)
  | .nan s, _ => .nan s
  | _, .nan t => .nan t
  | .inf n, .inf k => .inf (n != k)
  | .inf n, .fin k l _ _ => if l = 0 then .nan false else .inf (n != k)
  | .fin n m _ _, .inf k => if m = 0 then .nan false else .inf (n != k)
  | .fin n m e st, .fin k l f su => .fin (n != k) (m * l) (e + f) (st || su)

/-- Does the real |m| × 2^e lie below |l| × 2^f. -/
def magLt (m : Nat) (e : Int) (l : Nat) (f : Int) : Bool :=
  let q := min e f
  alignTo m e q < alignTo l f q

/-- Is the first value less than the second, as reals with infinities; a NaN is not less, and −0 equals +0. -/
def lt (a b : Val) : Bool :=
  match a, b with
  | .nan _, _ => false
  | _, .nan _ => false
  | .inf n, .inf k => n && !k
  | .inf n, _ => n
  | _, .inf k => !k
  | .fin n m e st, .fin k l f su =>
    let q := min e f
    let x := signed n (alignTo m e q)
    let y := signed k (alignTo l f q)
    if x < y then true
    else if y < x then false
    else (n && st && !(k && su)) || (!k && su && !(st && !n))

/-- Are the two values equal as reals with infinities; a NaN equals nothing. -/
def eqv (a b : Val) : Bool := !a.isNan && !b.isNan && !lt a b && !lt b a

/-- The sign bit. -/
def isNeg : Val → Bool
  | .nan _ => false
  | .inf n => n
  | .fin n _ _ _ => n

/-- The order of FMIN and FMAX: as `lt`, with −0 below +0 (R133). -/
def ltZ (a b : Val) : Bool := lt a b || (eqv a b && a.isNeg && !b.isNeg)

/-- FMIN's value: the number when exactly one operand is a NaN (R133). -/
def minNum (a b : Val) : Val :=
  match a, b with
  | .nan _, .nan _ => .nan false
  | .nan _, b => b
  | a, .nan _ => a
  | a, b => if ltZ b a then b else a

/-- FMAX's value (R133). -/
def maxNum (a b : Val) : Val :=
  match a, b with
  | .nan _, .nan _ => .nan false
  | .nan _, b => b
  | a, .nan _ => a
  | a, b => if ltZ a b then b else a

/-- ⌊log2 |x|⌋ of a non-zero finite value. -/
def floorLog (m : Nat) (e : Int) : Int := (Nat.log2 m : Int) + e

end Val

/-- Does `a` + `b` raise IV: a signalling NaN, or ∞ − ∞ (R133). -/
def addInvalid (a b : Val) : Bool :=
  a.isSig || b.isSig ||
    (match a, b with
     | .inf n, .inf k => n != k
     | _, _ => false)

/-- Does `a` × `b` raise IV: a signalling NaN, or 0 × ∞ (R133). -/
def mulInvalid (a b : Val) : Bool :=
  a.isSig || b.isSig ||
    (match a, b with
     | .inf _, b => b.isZero
     | a, .inf _ => a.isZero
     | _, _ => false)

/-! ## Types -/

/-- The floating types (R156, R157, R160); `b8 p u i` is the binary8 variant of precision p, unsigned if u, with infinities
if i. -/
inductive FltTy where
  | f32 | f16 | bf16
  | b8 (p : Fin 8) (u i : Bool)
  | e3m2 | e2m3 | e2m1
  deriving DecidableEq, Repr

/-- The element types (R155): an integer of `w` bits, or a floating type. -/
inductive NumTy where
  | int (signed : Bool) (w : Nat)
  | flt (f : FltTy)
  deriving DecidableEq, Repr

namespace FltTy

/-- The precision: the significand's bits, the leading one included. -/
def prec : FltTy → Nat
  | .f32 => 24
  | .f16 => 11
  | .bf16 => 8
  | .b8 p _ _ => p.val
  | .e3m2 => 3
  | .e2m3 => 4
  | .e2m1 => 2

/-- The width of the exponent field (R156, R157, R160). -/
def expBits : FltTy → Nat
  | .f32 => 8
  | .f16 => 5
  | .bf16 => 8
  | .b8 p u _ => 8 - p.val + (if u then 1 else 0)
  | .e3m2 => 3
  | .e2m3 => 2
  | .e2m1 => 2

/-- The bias (R156, R157, R160). -/
def bias (t : FltTy) : Nat :=
  match t with
  | .b8 _ _ _ => 2 ^ (t.expBits - 1)
  | .e2m3 => 1
  | .e2m1 => 1
  | _ => 2 ^ (t.expBits - 1) - 1

/-- Is the type one of the IEEE layouts (R156). -/
def isIeee : FltTy → Bool
  | .f32 => true
  | .f16 => true
  | .bf16 => true
  | _ => false

/-- Is the type an OCP MX type (R160). -/
def isMx : FltTy → Bool
  | .e3m2 => true
  | .e2m3 => true
  | .e2m1 => true
  | _ => false

/-- Is the type a binary8 variant (R157). -/
def isB8 : FltTy → Bool
  | .b8 _ _ _ => true
  | _ => false

/-- Does the type have infinities. -/
def hasInf : FltTy → Bool
  | .b8 _ _ i => i
  | .e3m2 => false
  | .e2m3 => false
  | .e2m1 => false
  | _ => true

/-- Is the type an unsigned binary8 variant. -/
def isUnsigned : FltTy → Bool
  | .b8 _ u _ => u
  | _ => false

/-- The bits below the sign of the type's code. -/
def magBits (t : FltTy) : Nat := t.expBits + (t.prec - 1)

/-- The exponent of the least quantum: 1 − bias − (precision − 1). -/
def qMin (t : FltTy) : Int := 1 - (t.bias : Int) - ((t.prec : Int) - 1)

/-- The magnitude code of the largest finite value (R156, R158, R160). -/
def maxCode (t : FltTy) : Nat :=
  match t with
  | .f32 => 0x7F7FFFFF
  | .f16 => 0x7BFF
  | .bf16 => 0x7F7F
  | .b8 _ u i => if u then (if i then 0xFD else 0xFE) else (if i then 0x7E else 0x7F)
  | .e3m2 => 0x1F
  | .e2m3 => 0x1F
  | .e2m1 => 0x7

/-- The integer significand of a finite magnitude code. -/
def codeN (t : FltTy) (c : Nat) : Nat :=
  if c / 2 ^ (t.prec - 1) = 0 then c % 2 ^ (t.prec - 1)
  else 2 ^ (t.prec - 1) + c % 2 ^ (t.prec - 1)

/-- The quantum's exponent of a finite magnitude code. -/
def codeQ (t : FltTy) (c : Nat) : Int :=
  if c / 2 ^ (t.prec - 1) = 0 then t.qMin
  else ((c / 2 ^ (t.prec - 1) : Nat) : Int) - 1 + t.qMin

/-- The largest finite value. -/
def maxFinite (t : FltTy) : Val := .fin false (t.codeN t.maxCode) (t.codeQ t.maxCode) false

/-- The width in bits of the type's code. -/
def width : FltTy → Nat
  | .f32 => 32
  | .f16 => 16
  | .bf16 => 16
  | .b8 _ _ _ => 8
  | .e3m2 => 6
  | .e2m3 => 6
  | .e2m1 => 4

/-- The canonical NaN of an IEEE type (R134), or the NaN code of a binary8 variant (R158). An MX type has none. -/
def nanCode : FltTy → Nat
  | .f32 => 0x7FC00000
  | .f16 => 0x7E00
  | .bf16 => 0x7FC0
  | .b8 _ u _ => if u then 0xFF else 0x80
  | _ => 0

/-- The code of +∞. -/
def infCode : FltTy → Nat
  | .f32 => 0x7F800000
  | .f16 => 0x7C00
  | .bf16 => 0x7F80
  | .b8 _ u _ => if u then 0xFE else 0x7F
  | _ => 0

end FltTy

/-- The bits of a sub-element slot: 6-bit types count as 8 (R183). -/
def NumTy.slot : NumTy → Nat
  | .int _ w => w
  | .flt f => if f.width = 6 then 8 else f.width

/-- Is the type floating. -/
def NumTy.isFlt : NumTy → Bool
  | .flt _ => true
  | .int _ _ => false

/-- Sub-elements per 32-bit lane (R79). -/
def NumTy.perLane (t : NumTy) : Nat := 32 / t.slot

/-- The greatest value of an integer type. -/
def intMax (signed : Bool) (w : Nat) : Int := if signed then 2 ^ (w - 1) - 1 else 2 ^ w - 1

/-- The least value of an integer type. -/
def intMin (signed : Bool) (w : Nat) : Int := if signed then -(2 ^ (w - 1)) else 0

/-- The element type that a code of SHP names, with the binary8 fields beside it (R79). Code 15 names none. -/
def numTyOf (code p : Nat) (u i : Bool) : Option NumTy :=
  match code with
  | 0 => some (.int true 32)
  | 1 => some (.int false 32)
  | 2 => some (.flt .f32)
  | 3 => some (.int true 16)
  | 4 => some (.int false 16)
  | 5 => some (.flt .bf16)
  | 6 => some (.flt .f16)
  | 7 => some (.int true 8)
  | 8 => some (.int false 8)
  | 9 => some (.flt (.b8 (Fin.ofNat 8 p) u i))
  | 10 => some (.int true 4)
  | 11 => some (.int false 4)
  | 12 => some (.flt .e3m2)
  | 13 => some (.flt .e2m3)
  | 14 => some (.flt .e2m1)
  | _ => none

/-! ## Decoding -/

/-- The value of a floating code (R156 to R158, R160). -/
def decodeFlt (t : FltTy) (c : Nat) : Val :=
  let mag := c % 2 ^ t.magBits
  let neg := !t.isUnsigned && c / 2 ^ t.magBits % 2 == 1
  match t with
  | .b8 _ u i =>
    if c = t.nanCode then .nan false
    else if i && c = t.infCode then .inf false
    else if i && !u && c = 0xFF then .inf true
    else .fin neg (t.codeN mag) (t.codeQ mag) false
  | .e3m2 | .e2m3 | .e2m1 => .fin neg (t.codeN mag) (t.codeQ mag) false
  | _ =>
    if mag < t.infCode then .fin neg (t.codeN mag) (t.codeQ mag) false
    else if mag = t.infCode then .inf neg
    else .nan (c / 2 ^ (t.prec - 2) % 2 == 0)

/-- Is the code subnormal (R156, R157, R160). -/
def isSubnormalCode (t : FltTy) (c : Nat) : Bool :=
  let mag := c % 2 ^ t.magBits
  mag / 2 ^ (t.prec - 1) == 0 && mag % 2 ^ (t.prec - 1) != 0 && !(t.isB8 && c == t.nanCode)

/-- The value of an integer code of `w` bits. -/
def decodeInt (signed : Bool) (w c : Nat) : Int :=
  if signed then sext w (c % 2 ^ w) else ((c % 2 ^ w : Nat) : Int)

/-- The value of an element's code, a subnormal read as the zero of its sign when `fz` is set; no flag (R168, R184). -/
def decodeNum (t : NumTy) (fz : Bool) (c : Nat) : Val :=
  match t with
  | .int s w => .ofInt (decodeInt s w c)
  | .flt f =>
    let c := c % 2 ^ f.width
    if fz && isSubnormalCode f c then .zero (decodeFlt f c).isNeg else decodeFlt f c

/-- The operand after the ABS and NEG of its modifier; an integer zero stays positive (R132, R184). -/
def applySign (t : NumTy) (a n : Bool) (v : Val) : Val :=
  let v := if a then v.abs else v
  let v := if n then v.neg else v
  if t.isFlt then v else v.intZero

/-! ## Rounding -/

/-- Round the magnitude (m, e, st) to a multiple of 2^q. `odd` says whether a lower candidate's code is odd. The answer is the
multiple and whether it is exact. -/
def roundMag (rm : Rm) (neg : Bool) (m : Nat) (e q : Int) (st : Bool) (odd : Nat → Bool) : Nat × Bool :=
  let up : Nat → Bool → Bool → Bool → Bool := fun n above tie exact =>
    match rm with
    | .rne => above || (tie && odd n)
    | .rna => above || tie
    | .rtz => false
    | .rup => !exact && !neg
    | .rdn => !exact && neg
  if q ≤ e then
    let n := m <<< (e - q).toNat
    (if up n false false (!st) then n + 1 else n, !st)
  else
    let k := (q - e).toNat
    let n := m >>> k
    let rem := m % 2 ^ k
    let half := 2 ^ (k - 1)
    let exact := rem = 0 && !st
    let above := rem > half || (rem = half && st)
    let tie := rem = half && !st
    (if up n above tie exact then n + 1 else n, exact)

/-- The outcome of RoundTo: an infinity, or n × 2^q in the type's range. -/
inductive Rounded where
  | inf (neg : Bool)
  | num (neg : Bool) (n : Nat) (q : Int)
  deriving DecidableEq, Repr

/-- The exponent at which a magnitude is rounded to a type, its quantum (R134). -/
def quantum (t : FltTy) (m : Nat) (e : Int) : Int := max (Val.floorLog m e - ((t.prec : Int) - 1)) t.qMin

/-- Is the code of the candidate n × 2^q odd: the significand's lowest bit, and with P = 1 the exponent's (R159 rule 4). -/
def oddCode (t : FltTy) (q : Int) (n : Nat) : Bool :=
  if t.prec ≤ 1 then n != 0 && (q - t.qMin + 1) % 2 != 0 else n % 2 == 1

/-- RoundTo on a finite value (R134): the rounded value, and NX, OF and UF. Tininess is judged after rounding. -/
def roundTo (t : FltTy) (rm : Rm) (neg : Bool) (m0 : Nat) (e0 : Int) (st : Bool) : Rounded × Flags :=
  if m0 = 0 && !st then (.num neg 0 t.qMin, Flg.none)
  else
    let m := if m0 = 0 then 1 else m0
    let e := if m0 = 0 then e0 - 4096 else e0
    let q := quantum t m e
    let (n, exact) := roundMag rm neg m e q st (oddCode t q)
    let qu := Val.floorLog m e - ((t.prec : Int) - 1)
    let (nu, _) := roundMag rm neg m e qu st (oddCode t qu)
    let tiny := Val.magLt nu qu 1 (1 - (t.bias : Int))
    let overF := match t.maxFinite with
      | .fin _ mm me _ => Val.magLt mm me n q
      | _ => false
    if overF then
      let toInf := match rm with
        | .rne => true
        | .rna => true
        | .rtz => false
        | .rup => !neg
        | .rdn => neg
      (if toInf then .inf neg else .num neg (t.codeN t.maxCode) (t.codeQ t.maxCode), Flg.of ||| Flg.nx)
    else (.num neg n q, flagIf (!exact) Flg.nx ||| flagIf (!exact && tiny) Flg.uf)

/-- The magnitude code of n × 2^q, a representable value. -/
def codeMag (t : FltTy) (n : Nat) (q : Int) : Nat :=
  let n' := if n = 2 ^ t.prec then 2 ^ (t.prec - 1) else n
  let q' := if n = 2 ^ t.prec then q + 1 else q
  if n' < 2 ^ (t.prec - 1) then n'
  else ((q' - t.qMin).toNat + 1) * 2 ^ (t.prec - 1) + (n' - 2 ^ (t.prec - 1))

/-- The code of a rounded value of an IEEE or MX type. -/
def codeOf (t : FltTy) (r : Rounded) : Nat :=
  match r with
  | .inf neg => t.infCode + (if neg then 2 ^ t.magBits else 0)
  | .num neg n q => codeMag t n q + (if neg then 2 ^ t.magBits else 0)

/-- The clamp of a modifier on an exact value, with the greatest value of its target (R113, R134). -/
def clampVal (c : Clamp) (mx v : Val) : Val :=
  let lo : Val → Val → Val := fun b x => if Val.ltZ x b then b else x
  let hi : Val → Val → Val := fun b x => if Val.ltZ b x then b else x
  match c with
  | .off => v
  | .pos => hi mx (lo (.zero false) v)
  | .sym => hi (.ofInt 1) (lo (.ofInt (-1)) v)
  | .unit => hi (.ofInt 1) (lo (.zero false) v)

/-- The clamp of a modifier on an integer (R132, R169). -/
def clampInt (c : Clamp) (mx v : Int) : Int :=
  match c with
  | .off => v
  | .pos => min (max v 0) mx
  | .sym => min (max v (-1)) 1
  | .unit => min (max v 0) 1

/-- Is a rounded value subnormal in the type. -/
def roundedSub (t : FltTy) (r : Rounded) : Bool :=
  match r with
  | .inf _ => false
  | .num _ n q => n != 0 && Val.magLt n q 1 (1 - (t.bias : Int))

/-- The rules of R159 that turn a finished value into a binary8 code. `overF` says that an overflow made the infinity. -/
def finishB8 (u i sat : Bool) (t : FltTy) (overF : Bool) (r : Rounded) : Nat × Flags :=
  match r with
  | .num neg n q =>
    if n = 0 then (0, Flg.none)
    else if u && neg then (if sat then (0, Flg.sat) else (t.nanCode, Flg.iv))
    else (codeMag t n q + (if neg then 0x80 else 0), Flg.none)
  | .inf neg =>
    if !i then (t.nanCode, flagIf (!overF) Flg.iv)
    else if u && neg then (t.nanCode, Flg.iv)
    else (t.infCode + (if neg then 0x80 else 0), Flg.none)

/-- FloatFinish (R134) of a value that is no NaN: the value of the type, and the flags set. -/
def floatRound (c : NumCtl) (t : FltTy) (v : Val) : Rounded × Flags :=
  let v := clampVal c.mod.clamp t.maxFinite (v.scale c.mod.scale)
  let (r0, f0) : Rounded × Flags := match v with
    | .fin n m e st => roundTo t c.rm n m e st
    | .inf n => (.inf n, Flg.none)
    | .nan _ => (.inf false, Flg.none)
  let flush := c.fzd && roundedSub t r0
  let r1 := if flush then (match r0 with
    | .num n _ _ => Rounded.num n 0 t.qMin
    | r => r) else r0
  let f1 := f0 ||| flagIf flush (Flg.uf ||| Flg.nx)
  let isInf := match r1 with
    | .inf _ => true
    | .num _ _ _ => false
  let satHit := c.mod.sat && isInf
  let r2 := if satHit then (match r1 with
    | .inf n => Rounded.num n (t.codeN t.maxCode) (t.codeQ t.maxCode)
    | r => r) else r1
  (r2, f1 ||| flagIf satHit Flg.sat)

/-- FloatFinish (R134), followed by R159 for a binary8 type: the code and the flags that the finish itself sets. -/
def floatFinish (c : NumCtl) (t : FltTy) (v : Val) : Nat × Flags :=
  match v with
  | .nan _ => (t.nanCode, Flg.none)
  | v =>
    let r := floatRound c t v
    match t with
    | .b8 _ u i =>
      let b := finishB8 u i c.mod.sat t (r.2 &&& Flg.of != Flg.none) r.1
      (b.1, r.2 ||| b.2)
    | _ => (codeOf t r.1, r.2)

/-- The value of a rounded result. -/
def Rounded.val : Rounded → Val
  | .inf n => .inf n
  | .num n m q => .fin n m q false

/-- The integer that a finite value rounds to, and whether it is exact (R135). -/
def roundToInt (rm : Rm) (neg : Bool) (m : Nat) (e : Int) (st : Bool) : Int × Bool :=
  let (n, exact) := roundMag rm neg m e 0 st (fun n => n % 2 == 1)
  (Val.signed neg n, exact)

/-- The floating-to-integer rule of R135 for a type of `w` bits: the value and the flags. -/
def floatToInt (c : NumCtl) (signed : Bool) (w : Nat) (v : Val) : Int × Flags :=
  match v with
  | .nan _ => (0, Flg.iv)
  | v =>
    let bound : Bool → Int × Flags := fun neg =>
      (if neg then intMin signed w else intMax signed w, Flg.iv ||| flagIf c.mod.sat Flg.sat)
    match clampVal c.mod.clamp (.ofInt (intMax signed w)) (v.scale c.mod.scale) with
    | .nan _ => (0, Flg.iv)
    | .inf n => bound n
    | .fin n m e st =>
      let (i, exact) := roundToInt c.rm n m e st
      if i > intMax signed w then bound false
      else if i < intMin signed w then bound true
      else (i, flagIf (!exact) Flg.nx)

/-- The exact integer v × 2^SCALE, floored (R132). -/
def scaleInt (v : Int) (k : Int) : Int := if 0 ≤ k then v * 2 ^ k.toNat else v / 2 ^ (-k).toNat

/-- The integer rule of R132 and R169 for a type of `w` bits: scale, clamp, then saturate or wrap. The value is the one before
the wrap; `wrapInt` reduces it. -/
def intFinish (c : NumCtl) (signed : Bool) (w : Nat) (v : Int) : Int × Flags :=
  let v := clampInt c.mod.clamp (intMax signed w) (scaleInt v c.mod.scale)
  if c.mod.sat && v > intMax signed w then (intMax signed w, Flg.sat)
  else if c.mod.sat && v < intMin signed w then (intMin signed w, Flg.sat)
  else (v, Flg.none)

/-- The code of an integer modulo 2^w. -/
def wrapInt (w : Nat) (v : Int) : Nat := (v % 2 ^ w).toNat

/-- The integer of a value that integer operations made. -/
def valInt : Val → Int
  | .fin n m e _ => scaleInt (Val.signed n m) e
  | _ => 0

/-- Finish of R184: the code of the value in the type, and the flags that finishing sets. `fromFlt` says that the value came
from a floating operand type. -/
def finishNum (c : NumCtl) (fromFlt : Bool) (t : NumTy) (v : Val) : Nat × Flags :=
  match t with
  | .flt f => floatFinish c f (if fromFlt then v else v.intZero)
  | .int s w =>
    if fromFlt then
      let (i, f) := floatToInt c s w v
      (wrapInt w i, f)
    else
      let (i, f) := intFinish c s w (valInt v)
      (wrapInt w i, f)

/-- The code of the largest finite value of an element type, as a value (R113, R167). -/
def NumTy.maxVal : NumTy → Val
  | .int s w => .ofInt (intMax s w)
  | .flt f => f.maxFinite

/-! ## S9 scales -/

/-- The value of an S9 code; 0x1FF is the NaN scale (R164). -/
def s9Val (c : Nat) : Val :=
  if c = 0x1FF then .nan false
  else .fin false (2 + c % 2) ((c / 2 : Nat) - 127 - 1) false

/-- The S9 code of an E8M0 code (R161). -/
def s9OfE8m0 (k : Nat) : Nat := if k = 0xFF then 0x1FF else k * 2

/-- The least finite S9 code from `c` on, of `fuel` codes tried, whose value times `mx` is at least `a` (R167). -/
def s9Search (a mx : Val) : Nat → Nat → Nat
  | 0, _ => 0x1FE
  | fuel + 1, c => if Val.lt (Val.mul (s9Val c) mx) a then s9Search a mx fuel (c + 1) else c

/-- The S9 code of a block whose greatest magnitude is `a` (R167). -/
def s9For (a : Val) (t : NumTy) : Nat :=
  match a, t.maxVal with
  | .fin _ m e _, .fin _ mm me _ =>
    let guess : Int := 2 * (Val.floorLog m e - Val.floorLog mm me + 127) - 6
    let start := guess.toNat
    s9Search a t.maxVal (min 16 (0x1FF - min start 0x1FF)) (min start 0x1FE)
  | _, _ => 0x1FF

/-! ## Sub-elements -/

/-- Sub-element `k` of a lane in slots of `slot` bits (R163). -/
def subElem (slot k : Nat) (lane : Lane) : Nat := fld lane.toNat (slot * k) slot

/-- The codes of a lane's sub-elements, lowest first, put together (R163). -/
def packLane (slot : Nat) (codes : List Nat) : Lane :=
  BitVec.ofNat 32 (codes.foldr (fun c acc => acc * 2 ^ slot + c % 2 ^ slot) 0)

/-! ## Fixed-order reductions -/

/-- One level of Tree: element i of step 2s takes its partner at i + s (R178). -/
def treePairs {α : Type} (op : α → α → α) : List α → List α
  | a :: b :: rest => op a b :: treePairs op rest
  | l => l

/-- Tree(v, n) of R178: levels of pairwise combination; an unpaired value passes unchanged. -/
def treeFold {α : Type} (op : α → α → α) (dflt : α) : Nat → List α → α
  | 0, l => l.headD dflt
  | _ + 1, [] => dflt
  | _ + 1, [a] => a
  | fuel + 1, l => treeFold op dflt fuel (treePairs op l)

/-- One level of the scan of R180: position j ≥ s takes y[j − s] ⊕ y[j]. -/
def scanLevel {α : Type} (op : α → α → α) (s : Nat) (l : List α) : List α :=
  l.take s ++ List.zipWith op l (l.drop s)

/-- The scan of R180: levels 1, 2, 4, … below the length. -/
def scanFold {α : Type} (op : α → α → α) : Nat → Nat → List α → List α
  | 0, _, l => l
  | fuel + 1, s, l => if s < l.length then scanFold op fuel (2 * s) (scanLevel op s l) else l

end Sys2Proof.Machine
end

