-- ==== Sys2Proof/Config.lean ====
section
/-! DEFINITION. What the specification fixes for every part of this kind, and the values it leaves open: opaque constants, of
which nothing can be proved, so that a statement holds for every value they might have. -/

namespace Sys2Proof.Config

/-- Cores of the package (R1). -/
def cores : Nat := 512

/-- Bytes of a core's scratchpad (R1, R211). -/
def scratchBytes : Nat := 0x400000

/-- Bytes of device memory: 1 TiB of HBM4E (R1). -/
def hbmBytes : Nat := 0x10000000000

/-- Bytes of the CXL pool window: 16 TiB, the most that R1 allows; the size of a package's window is the model's choice (log entry 79). -/
def poolBytes : Nat := 0x100000000000

/-- Light List entries (R1). -/
def contexts : Nat := 131072

/-- Protection domains (R1). -/
def domains : Nat := 4096

/-- The die whose memory stacks hold a device address: the specification says that each die has four of the sixteen stacks (R1), not
where an address lies among them. -/
opaque stackDie (addr : Nat) : Nat

/-- The bytes of an SPDM response: to the requests made so far, the last one being answered, under a running firmware image and the maps of
PDs of R401, which gives the exchanges and what is measured, not the bytes. -/
opaque spdmReply (requests : List (List (BitVec 8))) (running : List (Nat × BitVec 8)) (maps : List (List Bool)) : List (BitVec 8)

/-- Whether the signature of an image verifies (R398 names the check; the key and the hash are not in the specification). -/
opaque imageVerifies (image : List (BitVec 8)) : Bool

/-- The bytes of those parts of a save frame or dump whose place in their section the specification does not give (R364): the
n-th such byte written. -/
opaque frameByte (n : Nat) : BitVec 8

/-- The free value drawn at a point where the specification gives none: the n-th one. -/
opaque freeWord (n : Nat) : BitVec 64

/-- Which of a word's old and new values the Lantern reads, where the host has rewritten a posted record or list (R37): by the count
of free values drawn and the word. -/
opaque staleChoice (n word : Nat) : Nat

/-- The bytes that a log entry takes in its die's log pool, by its kind (R392 names the pool, and no rule gives an entry's layout). -/
opaque logEntryBytes (kind : Nat) : Nat

/-- The parameter that a mailbox parameter id names (R400 gives the parameters and not their ids): the model's own number for it. -/
opaque paramNumber (id : BitVec 64) : Nat

/-- The device address of a row group's records in the Lantern's batch table, which no program reads (R62). -/
opaque batchAddr (inst : BitVec 24) (core : Nat) : BitVec 64

/-- The device address of a node descriptor in the Lantern's graph table, which no program reads (R62). -/
opaque descAddr (pd : BitVec 12) (graph : BitVec 32) (node : Nat) : BitVec 64

end Sys2Proof.Config
end

