-- ==== Sys2Proof/Syntax.lean ====
section
/-! DEFINITION. The syntax of the machine: one constructor of `Instr` for each row of the opcode table. Sequencer words carry
the fields of R103 to R113, ring commands the header of R116 and their argument words, and events the things they name. -/

namespace Sys2Proof

/-- The direction of a vector operand (R73). -/
inductive Dir where
  | plain | col | diag | bcast
  deriving DecidableEq, Repr

/-- A vector operand: a direction and a register (R73). -/
structure VOp where
  dir : Dir
  reg : RegNum
  deriving DecidableEq, Repr

/-- The sizes of a memory access: 1, 2, 4 or 8 bytes (R108). -/
inductive Size where
  | b | h | w | d
  deriving DecidableEq, Repr

/-- The command rings of a core, and the engines that fetch from them (R68, R108). -/
inductive Ring where
  | me | ch0 | ch1
  deriving DecidableEq, Repr

/-- The copy channels (R108). -/
inductive Chan where
  | c0 | c1
  deriving DecidableEq, Repr

/-- The conditions of CMP and CMPI (R107). -/
inductive Cond where
  | eq | ne | lt | ge | ltu | geu | feq | flt | fle | fun_ | tst
  deriving DecidableEq, Repr

/-- The axes of VRED and VSCAN (R110). -/
inductive Axis where
  | lanes | rows
  deriving DecidableEq, Repr

/-- The operations of VRED and VSCAN (R110). -/
inductive RedOp where
  | add | min | max | and | or | xor
  deriving DecidableEq, Repr

/-- The types that FCVT converts (R104). -/
inductive ScalarTy where
  | i64 | n64 | f32 | f16 | bf16 | i32 | n32
  deriving DecidableEq, Repr

/-- A side of the token ring (R76, R111). -/
inductive Side where
  | left | right
  deriving DecidableEq, Repr

/-- The rounding field of a modifier word (R113); `keep` takes FCR.RM. -/
inductive Rnd where
  | keep | rne | rtz | rup | rdn | rna
  deriving DecidableEq, Repr

/-- The modifier word (R113). -/
structure Modifier where
  sat : Bool
  clamp : Fin 4
  negA : Bool
  absA : Bool
  negB : Bool
  absB : Bool
  scale : BitVec 5
  gn : Bool
  gp : RegNum
  rnd : Rnd
  deriving DecidableEq, Repr

/-- The await of a step word (R116): none, at or above the threshold, or below it. -/
inductive AMode where
  | none | ge | lt
  deriving DecidableEq, Repr

/-- The header of a ring command, with its threshold word and its lineage word (R116). -/
structure CmdHdr where
  await : Fin 64
  amode : AMode
  raise : Fin 64
  re : Bool
  popL : Bool
  popR : Bool
  pushL : Bool
  pushR : Bool
  mig : Bool
  lin : Bool
  thr : Lane
  linw : Lane
  deriving DecidableEq, Repr

/-- The engines of a core that may wait: the sequencers and the ring engines (R288). -/
inductive Waiter where
  | as | xs
  | ring (r : Ring)
  deriving DecidableEq, Repr

/-- A request that arrives over UALink (R45): a read, a write, or an atomic with its TYPE code, its OP code, SAT and operand (R247), or
a compare and swap. -/
inductive FabricReq where
  | read (n : Nat)
  | write (bytes : List Byte)
  | combine (ty op : Nat) (sat : Bool) (v : Word)
  | cas (width : Nat) (cmp new : Word)
  deriving DecidableEq, Repr

/-- The empty header: no await, no raise, no tokens. -/
def CmdHdr.empty : CmdHdr :=
  { await := 0, amode := .none, raise := 0, re := false, popL := false, popR := false, pushL := false, pushR := false,
    mig := false, lin := false, thr := 0, linw := 0 }

/-- The instructions: the sequencer words (R102), the ring commands (R117), and the events and host actions. -/
inductive Instr where
  /-- ADD (R129). Adds two X registers modulo 2^64, or exactly under modifiers. -/
  | add (d : RegNum) (a : RegNum) (b : RegNum) (g : Fin 16)
  /-- SUB (R129). Subtracts XB from XA. -/
  | sub (d : RegNum) (a : RegNum) (b : RegNum) (g : Fin 16)
  /-- MUL (R129). Writes the low 64 bits of the product, with latency 3. -/
  | mul (d : RegNum) (a : RegNum) (b : RegNum) (g : Fin 16)
  /-- MULH (R129). Writes the high 64 bits of the signed 128-bit product. -/
  | mulh (d : RegNum) (a : RegNum) (b : RegNum) (g : Fin 16)
  /-- MULHU (R129). Writes the high 64 bits of the unsigned 128-bit product. -/
  | mulhu (d : RegNum) (a : RegNum) (b : RegNum) (g : Fin 16)
  /-- DIV (R130). Signed division truncating toward zero on the unpipelined divider. -/
  | div (d : RegNum) (a : RegNum) (b : RegNum) (g : Fin 16)
  /-- DIVU (R130). Unsigned division. -/
  | divu (d : RegNum) (a : RegNum) (b : RegNum) (g : Fin 16)
  /-- REM (R130). Signed remainder with the sign of the dividend. -/
  | rem (d : RegNum) (a : RegNum) (b : RegNum) (g : Fin 16)
  /-- REMU (R130). Unsigned remainder. -/
  | remu (d : RegNum) (a : RegNum) (b : RegNum) (g : Fin 16)
  /-- AND (R129). Bitwise AND. -/
  | and_ (d : RegNum) (a : RegNum) (b : RegNum) (g : Fin 16)
  /-- OR (R129). Bitwise OR. -/
  | or_ (d : RegNum) (a : RegNum) (b : RegNum) (g : Fin 16)
  /-- XOR (R129). Bitwise XOR. -/
  | xor_ (d : RegNum) (a : RegNum) (b : RegNum) (g : Fin 16)
  /-- ANDN (R129). XA AND NOT XB. -/
  | andn (d : RegNum) (a : RegNum) (b : RegNum) (g : Fin 16)
  /-- SHL (R129). Shifts left by XB[5:0]. -/
  | shl (d : RegNum) (a : RegNum) (b : RegNum) (g : Fin 16)
  /-- SHR (R129). Shifts logically right by XB[5:0]. -/
  | shr (d : RegNum) (a : RegNum) (b : RegNum) (g : Fin 16)
  /-- SAR (R129). Shifts arithmetically right by XB[5:0]. -/
  | sar (d : RegNum) (a : RegNum) (b : RegNum) (g : Fin 16)
  /-- ROTL (R129). Rotates left by XB[5:0]. -/
  | rotl (d : RegNum) (a : RegNum) (b : RegNum) (g : Fin 16)
  /-- MIN (R129). Signed minimum. -/
  | min (d : RegNum) (a : RegNum) (b : RegNum) (g : Fin 16)
  /-- MAX (R129). Signed maximum. -/
  | max (d : RegNum) (a : RegNum) (b : RegNum) (g : Fin 16)
  /-- MINU (R129). Unsigned minimum. -/
  | minu (d : RegNum) (a : RegNum) (b : RegNum) (g : Fin 16)
  /-- MAXU (R129). Unsigned maximum. -/
  | maxu (d : RegNum) (a : RegNum) (b : RegNum) (g : Fin 16)
  /-- SEL (R129). Selects XA or XB according to predicate P0-P15 named in G. -/
  | sel (d : RegNum) (a : RegNum) (b : RegNum) (p : Fin 16)
  /-- FSHL (R131). Funnel-shifts the pair {XD, XA} left and keeps the high word. -/
  | fshl (d : RegNum) (a : RegNum) (b : RegNum) (g : Fin 16)
  /-- FSHR (R131). Funnel-shifts the pair {XA, XD} right and keeps the low word. -/
  | fshr (d : RegNum) (a : RegNum) (b : RegNum) (g : Fin 16)
  /-- BFX (R131). Extracts an unsigned bit field. -/
  | bfx (d : RegNum) (a : RegNum) (b : RegNum) (g : Fin 16)
  /-- BFXS (R131). Extracts a sign-extended bit field. -/
  | bfxs (d : RegNum) (a : RegNum) (b : RegNum) (g : Fin 16)
  /-- BFI (R131). Inserts a bit field of XA into XD. -/
  | bfi (d : RegNum) (a : RegNum) (b : RegNum) (g : Fin 16)
  /-- CLZ (R129). Counts the leading zero bits of XA. -/
  | clz (d : RegNum) (a : RegNum) (g : Fin 16)
  /-- CTZ (R129). Counts the trailing zero bits of XA. -/
  | ctz (d : RegNum) (a : RegNum) (g : Fin 16)
  /-- POPC (R129). Counts the one bits of XA. -/
  | popc (d : RegNum) (a : RegNum) (g : Fin 16)
  /-- BSWAP (R129). Reverses the byte order of XA. -/
  | bswap (d : RegNum) (a : RegNum) (g : Fin 16)
  /-- MOV (R129). Copies XA to XD. -/
  | mov (d : RegNum) (a : RegNum) (g : Fin 16)
  /-- FADD (R133). f32 addition finished by FloatFinish. -/
  | fadd (d : RegNum) (a : RegNum) (b : RegNum) (g : Fin 16)
  /-- FSUB (R133). f32 subtraction. -/
  | fsub (d : RegNum) (a : RegNum) (b : RegNum) (g : Fin 16)
  /-- FMUL (R133). f32 multiplication. -/
  | fmul (d : RegNum) (a : RegNum) (b : RegNum) (g : Fin 16)
  /-- FMIN (R133). f32 minimum with -0 ordered below +0. -/
  | fmin (d : RegNum) (a : RegNum) (b : RegNum) (g : Fin 16)
  /-- FMAX (R133). f32 maximum. -/
  | fmax (d : RegNum) (a : RegNum) (b : RegNum) (g : Fin 16)
  /-- FFMA (R133). f32 fused multiply-add onto the old XD, rounded once. -/
  | ffma (d : RegNum) (a : RegNum) (b : RegNum) (g : Fin 16)
  /-- FCVT (R135). Converts XA between the integer and floating types of R104. -/
  | fcvt (d : RegNum) (a : RegNum) (s : ScalarTy) (t : ScalarTy) (g : Fin 16)
  /-- ADDI (R136). Adds a sign-extended 12-bit immediate. -/
  | addi (d : RegNum) (a : RegNum) (i : BitVec 12)
  /-- ANDI (R136). ANDs with a sign-extended immediate. -/
  | andi (d : RegNum) (a : RegNum) (i : BitVec 12)
  /-- ORI (R136). ORs with a zero-extended immediate. -/
  | ori (d : RegNum) (a : RegNum) (i : BitVec 12)
  /-- XORI (R136). XORs with a zero-extended immediate. -/
  | xori (d : RegNum) (a : RegNum) (i : BitVec 12)
  /-- SHLI (R136). Shifts left by an immediate. -/
  | shli (d : RegNum) (a : RegNum) (s : Fin 64)
  /-- SHRI (R136). Shifts logically right by an immediate. -/
  | shri (d : RegNum) (a : RegNum) (s : Fin 64)
  /-- SARI (R136). Shifts arithmetically right by an immediate. -/
  | sari (d : RegNum) (a : RegNum) (s : Fin 64)
  /-- MULI (R136). Multiplies by a sign-extended immediate, with latency 3. -/
  | muli (d : RegNum) (a : RegNum) (i : BitVec 12)
  /-- MINI (R136). Signed minimum with an immediate. -/
  | mini (d : RegNum) (a : RegNum) (i : BitVec 12)
  /-- MAXI (R136). Signed maximum with an immediate. -/
  | maxi (d : RegNum) (a : RegNum) (i : BitVec 12)
  /-- LI (R136). Loads a sign-extended 18-bit immediate. -/
  | li (d : RegNum) (i : BitVec 18)
  /-- LISH (R136). Shifts XD left by 18 and ORs in an 18-bit immediate. -/
  | lish (d : RegNum) (i : BitVec 18)
  /-- BR (R137). Branches unconditionally to a word offset from the group. -/
  | br (o : BitVec 16)
  /-- BRP (R137). Branches when a predicate, optionally negated, is true. -/
  | brp (n : Bool) (p : RegNum) (o : BitVec 16)
  /-- BRQ (R137). Pops a branch outcome from Q8 on the XS and branches on it. -/
  | brq (n : Bool) (o : BitVec 16)
  /-- JR (R137). Jumps to the window offset held in XA. -/
  | jr (a : RegNum)
  /-- CALL (R137). Branches and writes the return offset to XD. -/
  | call (d : RegNum) (o : BitVec 16)
  /-- CALLR (R137). Jumps to XA and writes the return offset to XD. -/
  | callr (d : RegNum) (a : RegNum)
  /-- RET (R137). Jumps to the offset in XA, traced as a return. -/
  | ret (a : RegNum)
  /-- LOOP (R140). Starts a hardware loop on LCn with a count from XA. -/
  | loop (c : Fin 4) (a : RegNum) (t : BitVec 16)
  /-- LOOPI (R140). Starts a hardware loop with an immediate count. -/
  | loopi (c : Fin 4) (n : BitVec 10) (t : BitVec 12)
  /-- LOOPR (R142). Starts a rotating software-pipelined loop with kernel and drain counts. -/
  | loopr (c : Fin 4) (a : RegNum) (v : Bool) (p : Bool) (t : BitVec 14)
  /-- CMP (R144). Writes a predicate from a comparison of two X registers. -/
  | cmp (k : Cond) (p : RegNum) (a : RegNum) (b : RegNum)
  /-- CMPI (R144). Writes a predicate from a comparison with an 8-bit immediate. -/
  | cmpi (k : Cond) (p : RegNum) (a : RegNum) (i : BitVec 8)
  /-- PLOG (R145). Writes a predicate from a truth table of two predicates. -/
  | plog (d : RegNum) (a : RegNum) (b : RegNum) (t : BitVec 4)
  /-- NOP (R146). Does nothing for one issue cycle. -/
  | nop
  /-- LD (R148). Loads from local scratchpad into an X register. -/
  | ld (d : RegNum) (a : RegNum) (z : Size) (x : Bool) (o : BitVec 7)
  /-- ST (R149). Queues an XS store, checked 12 issue cycles later. -/
  | st (b : RegNum) (a : RegNum) (z : Size) (o : BitVec 7)
  /-- LDQ (R152). Reserves a queue entry and reads local, remote or handle memory into it on the AS. -/
  | ldq (q : Fin 16) (a : RegNum) (z : Size) (x : Bool) (o : BitVec 9)
  /-- QPUSH (R151). Appends an X register to a queue. -/
  | qpush (q : Fin 16) (a : RegNum)
  /-- QPOP (R151). Removes a queue's head into an X register. -/
  | qpop (q : Fin 16) (d : RegNum)
  /-- QPEEK (R151). Reads a queue's head without removing it. -/
  | qpeek (q : Fin 16) (d : RegNum)
  /-- QCNT (R151). Reads the number of poppable entries of a queue. -/
  | qcnt (q : Fin 16) (d : RegNum)
  /-- QPUSHB (R153). Appends a predicate value to Q8 on the AS. -/
  | qpushb (p : RegNum) (n : Bool)
  /-- AGDEF (R236). Loads a 128-byte stream descriptor into a stream register. -/
  | agdef (g : Fin 32) (a : RegNum)
  /-- AGSET (R237). Writes one field of a stream register. -/
  | agset (g : Fin 32) (a : RegNum) (f : BitVec 7)
  /-- AGADV (R238). Moves a stream's window along one dimension. -/
  | agadv (g : Fin 32) (a : RegNum) (k : Fin 16)
  /-- AGLD (R239). Reads the stream element at POS into a queue and advances POS. -/
  | agld (g : Fin 32) (q : Fin 16)
  /-- AGGATH (R239). Reads the stream element at an index into a queue. -/
  | aggath (g : Fin 32) (q : Fin 16) (a : RegNum)
  /-- PGREF (R223). Resolves a KV page reference, pinning it in a slot or dropping the row on a miss. -/
  | pgref (d : RegNum) (a : RegNum)
  /-- CMDW (R241). Writes one checked word into a command ring at the write cursor. -/
  | cmdw (r : Ring) (a : RegNum)
  /-- CMDPUB (R243). Sets a ring's publish count to its write cursor. -/
  | cmdpub (r : Ring)
  /-- WPWAIT (R252). Waits until a channel's write pointer reaches a mark. -/
  | wpwait (c : Chan) (a : RegNum)
  /-- VLD (R202). Loads a tile corner from local scratchpad row by row. -/
  | vld (d : RegNum) (a : RegNum) (b : RegNum)
  /-- VST (R203). Stores a tile corner through the store queue, one entry per row-block. -/
  | vst (v : VOp) (a : RegNum) (b : RegNum)
  /-- VLDX (R204). Gathers 32-bit words from local scratchpad by vector indices. -/
  | vldx (d : RegNum) (a : RegNum) (i : VOp)
  /-- VEXTR (R205). Moves one lane of a V register to an X register. -/
  | vextr (d : RegNum) (v : VOp) (b : RegNum)
  /-- VINS (R205). Writes an X register into one lane of a V register. -/
  | vins (d : RegNum) (a : RegNum) (b : RegNum)
  /-- VSHAPE (R207). Sets ROWS, LANES, ETYPE and DTYPE of SHP. -/
  | vshape (r : Fin 32) (l : Fin 32) (t : Fin 16) (u : Fin 16)
  /-- VTAP (R315). Passes one chunk of a token block through a tap site for steering and probing. -/
  | vtap (v : VOp) (s : Fin 8)
  /-- VMASKROW (R209). Writes a per-row mask of the rows that are LIVE. -/
  | vmaskrow (d : RegNum) (a : RegNum)
  /-- VADD (R187). Element-wise addition. -/
  | vadd (d : RegNum) (a : VOp) (b : VOp)
  /-- VSUB (R187). Element-wise subtraction. -/
  | vsub (d : RegNum) (a : VOp) (b : VOp)
  /-- VMUL (R187). Element-wise multiplication on VA. -/
  | vmul (d : RegNum) (a : VOp) (b : VOp)
  /-- VFMA (R188). Element-wise fused a*b+c onto the old VD. -/
  | vfma (d : RegNum) (a : VOp) (b : VOp)
  /-- VFMS (R188). Element-wise fused a*b-c with the old VD. -/
  | vfms (d : RegNum) (a : VOp) (b : VOp)
  /-- VMIN (R187). Element-wise minimum. -/
  | vmin (d : RegNum) (a : VOp) (b : VOp)
  /-- VMAX (R187). Element-wise maximum. -/
  | vmax (d : RegNum) (a : VOp) (b : VOp)
  /-- VABSD (R187). Element-wise absolute difference. -/
  | vabsd (d : RegNum) (a : VOp) (b : VOp)
  /-- VAND (R189). Lane-wise bitwise AND. -/
  | vand (d : RegNum) (a : VOp) (b : VOp)
  /-- VOR (R189). Lane-wise bitwise OR. -/
  | vor (d : RegNum) (a : VOp) (b : VOp)
  /-- VXOR (R189). Lane-wise bitwise XOR. -/
  | vxor (d : RegNum) (a : VOp) (b : VOp)
  /-- VANDN (R189). Lane-wise A AND NOT B. -/
  | vandn (d : RegNum) (a : VOp) (b : VOp)
  /-- VSHL (R190). Shifts sub-elements left by register counts. -/
  | vshl (d : RegNum) (a : VOp) (b : VOp)
  /-- VSHR (R190). Shifts sub-elements logically right by register counts. -/
  | vshr (d : RegNum) (a : VOp) (b : VOp)
  /-- VSAR (R190). Shifts sub-elements arithmetically right by register counts. -/
  | vsar (d : RegNum) (a : VOp) (b : VOp)
  /-- VSEL (R189). Selects bits of A or B by the old VD as a mask. -/
  | vsel (d : RegNum) (a : VOp) (b : VOp)
  /-- VCMPEQ (R192). Writes all-ones masks where elements are equal. -/
  | vcmpeq (d : RegNum) (a : VOp) (b : VOp)
  /-- VCMPNE (R192). Writes masks where elements differ. -/
  | vcmpne (d : RegNum) (a : VOp) (b : VOp)
  /-- VCMPLT (R192). Writes masks where A is less than B. -/
  | vcmplt (d : RegNum) (a : VOp) (b : VOp)
  /-- VCMPLE (R192). Writes masks where A is at most B. -/
  | vcmple (d : RegNum) (a : VOp) (b : VOp)
  /-- VUN_MOV (R189). Copies lanes of VA through its direction view. -/
  | vunMov (d : RegNum) (a : VOp)
  /-- VUN_NEG (R187). Negates elements. -/
  | vunNeg (d : RegNum) (a : VOp)
  /-- VUN_ABS (R187). Takes absolute values of elements. -/
  | vunAbs (d : RegNum) (a : VOp)
  /-- VUN_NOT (R189). Inverts every lane bit. -/
  | vunNot (d : RegNum) (a : VOp)
  /-- VUN_CVT (R196). Converts elements from ETYPE to DTYPE. -/
  | vunCvt (d : RegNum) (a : VOp)
  /-- VUN_EXP (R195). Correctly rounded e^a on VA. -/
  | vunExp (d : RegNum) (a : VOp)
  /-- VUN_EXP2 (R195). Correctly rounded 2^a. -/
  | vunExp2 (d : RegNum) (a : VOp)
  /-- VUN_LOG2 (R195). Correctly rounded log2 a. -/
  | vunLog2 (d : RegNum) (a : VOp)
  /-- VUN_RCP (R195). Correctly rounded reciprocal. -/
  | vunRcp (d : RegNum) (a : VOp)
  /-- VUN_RSQ (R195). Correctly rounded reciprocal square root. -/
  | vunRsq (d : RegNum) (a : VOp)
  /-- VUN_SQRT (R195). Correctly rounded square root. -/
  | vunSqrt (d : RegNum) (a : VOp)
  /-- VUN_TANH (R195). Correctly rounded tanh. -/
  | vunTanh (d : RegNum) (a : VOp)
  /-- VUN_SIGM (R195). Correctly rounded logistic sigmoid. -/
  | vunSigm (d : RegNum) (a : VOp)
  /-- VUN_ERF (R195). Correctly rounded error function. -/
  | vunErf (d : RegNum) (a : VOp)
  /-- VUN_CLZ (R190). Counts leading zeros of each sub-element. -/
  | vunClz (d : RegNum) (a : VOp)
  /-- VUN_POPC (R190). Counts one bits of each sub-element. -/
  | vunPopc (d : RegNum) (a : VOp)
  /-- VUN_IOTA (R193). Writes each element's linear index. -/
  | vunIota (d : RegNum)
  /-- VUN_PACK (R197). Converts a register group into one register of half width. -/
  | vunPack (d : RegNum) (a : VOp)
  /-- VUN_UNPK (R197). Converts one register into a register group of double width. -/
  | vunUnpk (d : RegNum) (a : VOp)
  /-- VRED (R198). Reduces along lanes or across rows by the fixed tree order. -/
  | vred (d : RegNum) (a : VOp) (x : Axis) (o : RedOp)
  /-- VSCAN (R199). Computes prefix combinations along lanes or across rows. -/
  | vscan (d : RegNum) (a : VOp) (x : Axis) (o : RedOp)
  /-- VSHLI (R190). Shifts sub-elements left by an immediate. -/
  | vshli (d : RegNum) (a : VOp) (s : Fin 32)
  /-- VSHRI (R190). Shifts sub-elements logically right by an immediate. -/
  | vshri (d : RegNum) (a : VOp) (s : Fin 32)
  /-- VSARI (R190). Shifts sub-elements arithmetically right by an immediate. -/
  | vsari (d : RegNum) (a : VOp) (s : Fin 32)
  /-- VBFX (R191). Extracts a bit field from each lane. -/
  | vbfx (d : RegNum) (a : VOp) (b : VOp)
  /-- VFSH (R190). Funnel-shifts each sub-element of the old VD with A. -/
  | vfsh (d : RegNum) (a : VOp) (b : VOp)
  /-- VLUT (R194). Looks up each index in a table held in VB. -/
  | vlut (d : RegNum) (a : VOp) (b : VOp)
  /-- VSPLAT (R193). Writes the low bits of an X register to every element. -/
  | vsplat (d : RegNum) (x : RegNum)
  /-- VQUANT (R200). Forms each row into a variable-block-scaled tensor in a register group. -/
  | vquant (d : RegNum) (a : VOp) (b : VOp)
  /-- VDEQ (R201). Decodes variable-block-scaled codes with bitmap and scales from VB. -/
  | vdeq (d : RegNum) (a : VOp) (b : VOp)
  /-- SEMWAIT (R290). Waits until a local semaphore is at least a threshold; an acquire. -/
  | semwait (t : RegNum) (s : Fin 64)
  /-- SEMWAITB (R290). Waits until a local semaphore is below a threshold. -/
  | semwaitb (t : RegNum) (s : Fin 64)
  /-- SEMSIG_LOCAL (R290). Adds a value to a local semaphore, as a release on the XS. -/
  | semsigLocal (a : RegNum) (s : Fin 64)
  /-- SEMSIG_REMOTE (R290). Adds a value to the semaphore named by a sync-object register. -/
  | semsigRemote (a : RegNum) (b : RegNum)
  /-- SEMSET_LOCAL (R290). Sets a local semaphore. -/
  | semsetLocal (a : RegNum) (s : Fin 64)
  /-- SEMSET_REMOTE (R290). Sets the semaphore named by a sync-object register. -/
  | semsetRemote (a : RegNum) (b : RegNum)
  /-- SEMRD_LOCAL (R290). Reads a local semaphore. -/
  | semrdLocal (d : RegNum) (s : Fin 64)
  /-- SEMRD_REMOTE (R290). Reads a remote semaphore, freezing until the reply arrives. -/
  | semrdRemote (d : RegNum) (b : RegNum)
  /-- TOKPOP (R292). Removes one token from the FIFO from a neighbour, freezing while empty. -/
  | tokpop (s : Side)
  /-- TOKPUSH (R292). Reserves a place in the FIFO to a neighbour for a token. -/
  | tokpush (s : Side)
  /-- FENCE (R300). Orders a core's BEFORE paths ahead of its AFTER paths. -/
  | fence (b : BitVec 9) (a : BitVec 9)
  /-- ACQ (R298). Acquires on a semaphore at an at-least threshold for a path set. -/
  | acq (m : BitVec 9) (t : RegNum) (b : RegNum)
  /-- REL (R298). Releases an increment to a semaphore once covered accesses are performed. -/
  | rel (m : BitVec 9) (a : RegNum) (b : RegNum)
  /-- BIND (R299). Binds a region of the node to a semaphore. -/
  | bind (k : Fin 32) (a : RegNum)
  /-- SDRAIN (R351). Holds until every earlier store has been checked. -/
  | sdrain
  /-- ABALLOC (R258). Allocates a run of free accumulator banks within the node's budget. -/
  | aballoc (d : RegNum) (n : BitVec 9)
  /-- ABFREE (R259). Frees a run of banks once no fetched command names them. -/
  | abfree (a : RegNum) (n : BitVec 9)
  /-- RNGDRAW_RAW (R326). Draws 64 raw bits from a row's random stream and steps it. -/
  | rngdrawRaw (d : RegNum) (a : RegNum)
  /-- RNGDRAW_UNIT (R326). Draws an f32 in [0, 1) from a row's random stream. -/
  | rngdrawUnit (d : RegNum) (a : RegNum)
  /-- RNGSKIP (R327). Advances a row's random stream by n steps. -/
  | rngskip (a : RegNum) (b : RegNum)
  /-- MODIFIER (R113). Modifier word giving guard, saturation, clamp, negation, scale and rounding to the next word. -/
  | modifier (m : Modifier)
  /-- TRAP (R346). Raises SOFTWARE with an immediate. -/
  | trap (i : BitVec 16)
  /-- RETT (R346). Leaves handler mode and resumes at the return point. -/
  | rett
  /-- TERMG (R346). Terminates the row group. -/
  | termg
  /-- EXIT (R372). Ends a sequencer's issue; on the XS checks that no banks are held. -/
  | exit
  /-- YIELD (R360). Asks for a halt and save, or ends the group when no row is LIVE. -/
  | yield
  /-- CTXSW (R359). Halts here if a halt request is pending. -/
  | ctxsw
  /-- RDCR (R83). Copies a control register into an X register. -/
  | rdcr (d : RegNum) (c : Fin 128)
  /-- WRCR (R83). Copies an X register into a control register after validity checks. -/
  | wrcr (a : RegNum) (c : Fin 128)
  /-- BKPT (R346). Raises BREAKPOINT, or stops the core when debug enables it. -/
  | bkpt (i : BitVec 16)
  /-- FRQPOP (R350). Pops the head store-fault record into an X register pair. -/
  | frqpop (d : RegNum)
  /-- ROWMASK (R348). Turns one row into a program-chosen row trap. -/
  | rowmask (a : RegNum)
  /-- MNOP (R279). ME command acting only through its header's await, raise and tokens. -/
  | mnop (h : CmdHdr)
  /-- MMA (R267). Adds exact products of two operand streams into an accumulator tile. -/
  | mma (h : CmdHdr) (a0 a1 a2 : Lane)
  /-- MMAR (R266). MMA computing only the rows present in a ragged walk of row records. -/
  | mmar (h : CmdHdr) (a0 a1 a2 a3 : Lane)
  /-- MZERO (R269). Zeroes a range of banks and makes them REDUNDANT. -/
  | mzero (h : CmdHdr) (a0 : Lane)
  /-- ANCHOR (R269). Sets a tile's anchor and ASET. -/
  | anchor (h : CmdHdr) (a0 : Lane)
  /-- RESOLVE (R273). Rounds a redundant tile into canonical f32, bf16 or i32 banks. -/
  | resolve (h : CmdHdr) (a0 a1 : Lane)
  /-- DRAIN (R276). Drains a tile through the epilogue to scratchpad and the top-k heaps. -/
  | drain (h : CmdHdr) (a0 a1 : Lane)
  /-- TOPK (R278). Writes and optionally posts to Q13 each heap's best candidates, then clears the heaps. -/
  | topk (h : CmdHdr) (a0 a1 : Lane)
  /-- ACCCMP (R274). Writes a bitmap of element comparisons between two tiles. -/
  | acccmp (h : CmdHdr) (a0 a1 : Lane)
  /-- ACCSPILL (R272). Writes raw bank images to scratchpad. -/
  | accspill (h : CmdHdr) (a0 a1 : Lane)
  /-- ACCFILL (R272). Loads raw bank images from scratchpad into banks. -/
  | accfill (h : CmdHdr) (a0 a1 : Lane)
  /-- ACCMOV (R270). Copies banks raw, optionally zeroing the source. -/
  | accmov (h : CmdHdr) (a0 a1 : Lane)
  /-- ACCADD (R271). Adds a source tile, possibly of another core, into a destination tile. -/
  | accadd (h : CmdHdr) (a0 a1 : Lane)
  /-- EPCFG (R275). Writes one epilogue configuration register. -/
  | epcfg (h : CmdHdr) (a0 a1 : Lane)
  /-- MSIG (R279). Adds 1 to a semaphore once earlier ME commands have completed. -/
  | msig (h : CmdHdr) (a0 : Lane)
  /-- CNOP (R245). Copy-channel command acting only through its header. -/
  | cnop (h : CmdHdr)
  /-- COPY (R246). Copies a source stream to a destination stream raw, with scales. -/
  | copy (h : CmdHdr) (a0 : Lane)
  /-- GATHER (R246). Copies indexed rows of a source stream to consecutive destination rows. -/
  | gather (h : CmdHdr) (a0 a1 : Lane)
  /-- SCATTER (R246). Copies consecutive source rows to indexed destination rows. -/
  | scatter (h : CmdHdr) (a0 a1 : Lane)
  /-- FILL (R246). Writes a pattern to every destination element. -/
  | fill (h : CmdHdr) (a0 a1 : Lane)
  /-- ACCW (R247). Combines source elements into destination elements at their ports. -/
  | accw (h : CmdHdr) (a0 : Lane)
  /-- FETCHOP (R247). Combines at the destination and returns the old values. -/
  | fetchop (h : CmdHdr) (a0 a1 : Lane)
  /-- CAS (R247). Compares and swaps destination elements, returning old values. -/
  | cas (h : CmdHdr) (a0 a1 : Lane)
  /-- CSIG (R248). Adds 1 to a semaphore once earlier channel commands have completed. -/
  | csig (h : CmdHdr) (a0 : Lane)
  /-- PAGEIN (R249). Tender engine copies a moving page up to its destination frame. -/
  | pagein (h : CmdHdr) (a0 : Lane)
  /-- PAGEOUT (R249). Tender engine copies a moving page down to its destination frame. -/
  | pageout (h : CmdHdr) (a0 : Lane)
  /-- RING_FETCH (R70). A ring engine fetches a whole published command into its queue, checking its header and squashing by lineage. -/
  | ringFetch (c : CoreId) (r : Ring)
  /-- COMMAND_COMPLETE (R116). A command completes in ring order and makes its token pushes and semaphore raise. -/
  | commandComplete (c : CoreId) (r : Ring)
  /-- WRITE_ARRIVAL (R250). A store, channel byte or update reaches its destination port, possibly advancing a write pointer. -/
  | writeArrival (k : Nat)
  /-- COMBINING_STEP (R251). One element is read, combined and written indivisibly at its destination port. -/
  | combiningStep (k : Nat)
  /-- RESULT_WRITE (R85). A pending XS or AS result or row-block is written when its latency expires, setting flags. -/
  | resultWrite (c : CoreId) (xs : Bool)
  /-- STORE_CHECK (R232). A store-queue entry is checked 12 issue cycles after issue and leaves or faults. -/
  | storeCheck (c : CoreId)
  /-- WAIT_TIMEOUT (R288). A wait's count exceeds WAITMAX. -/
  | waitTimeout (c : CoreId) (e : Waiter)
  /-- AS_READ_RETURN (R154). A remote read of LDQ, a stream load or AGDEF returns and fills its entry or register. -/
  | asReadReturn (c : CoreId) (no : Nat)
  /-- PGREF_RESULT (R223). The home-die step of a PGREF returns a resolved or dropped reference. -/
  | pgrefResult (c : CoreId) (no : Nat)
  /-- BUDGET_EXHAUSTED (R330). A budget window's count reaches 0 and takes a BUDGET row trap. -/
  | budgetExhausted (c : CoreId)
  /-- VTAP_DECISION (R317). Probe scores of a token block are judged and crossing rows trap. -/
  | vtapDecision (c : CoreId)
  /-- RELEASE_UPDATE (R298). A pending release's semaphore update is made once its covered accesses are performed. -/
  | releaseUpdate (c : CoreId)
  /-- TOKEN_READY (R292). A TOKPUSH token becomes poppable once earlier XST accesses are performed. -/
  | tokenReady (c : CoreId)
  /-- SEM_ACCESS_ARRIVAL (R289). A semaphore access from another core reaches its home and is acted on, held or discarded. -/
  | semAccessArrival (k : Nat)
  /-- REMOTE_WAIT_SAMPLE (R287). A remote wait samples its semaphore at the home. -/
  | remoteWaitSample (c : CoreId) (xs : Bool)
  /-- MIGRATION_RETURN (R280). A guest engine returns its partial tile, which the home engine adds. -/
  | migrationReturn (c : CoreId)
  /-- SWAP_IN (R64). A staged shadow launch bank swaps in: scrub, row records, preloads or restore, then start. -/
  | swapIn (c : CoreId)
  /-- CORE_HALTED (R357). Every engine has reached its halt point and the core freezes. -/
  | coreHalted (c : CoreId)
  /-- SAVE_COMPLETE (R367). The save frame is written and the wick sends SAVED. -/
  | saveComplete (c : CoreId)
  /-- RETIREMENT (R374). A row group retires once both sequencers exited and all work has landed. -/
  | retirement (c : CoreId)
  /-- STAGE (R63). A wick writes a shadow launch bank, or answers not placed if it is VALID. -/
  | stage (w : Fin 32)
  /-- WITHDRAW (R63). A wick clears a staged bank that has not swapped in, or answers too late. -/
  | withdraw (w : Fin 32)
  /-- PREEMPT (R356). A wick pre-empts the instance running on named cores. -/
  | preempt (w : Fin 32)
  /-- RESUME (R63). A wick stages a saved row group back onto its core. -/
  | resume (w : Fin 32)
  /-- STARTED (R49). The Lantern learns a staged bank swapped in. -/
  | started (w : Fin 32)
  /-- WDONE (R63). The Lantern learns the answer to a WITHDRAW. -/
  | wdone (w : Fin 32)
  /-- ENDED (R49). The Lantern applies a row group's end and each row's status. -/
  | ended (w : Fin 32)
  /-- ROWEVENT (R49). The Lantern applies a row's drop or trap to its context. -/
  | rowevent (w : Fin 32)
  /-- SAVED (R49). The Lantern learns a pre-empted row group is saved. -/
  | saved (w : Fin 32)
  /-- CQ_COALESCE_TIMEOUT (R380). The coalescing window of a completion queue expires and its interrupt is signalled. -/
  | cqCoalesceTimeout (q : Fin 4096)
  /-- FORMATION_TURN (R54). The Lantern forms one batch for a formable key and places its span. -/
  | formationTurn (cores : List CoreId)
  /-- ROW_AGED (R56). A ready row's entry time plus AGEMAX is reached and it becomes aged. -/
  | rowAged (i : Fin 131072)
  /-- LAUNCH (R39). The Lantern takes a LAUNCH submission record and admits or refuses its elements. -/
  | launch
  /-- RELEASE (R39). The Lantern takes a RELEASE submission record and frees its contexts. -/
  | release
  /-- SQ_DOORBELL (R35). A doorbell write advances a submission queue's TAIL if accepted. -/
  | sqDoorbell (q : Fin 4096) (v : Word)
  /-- RECONCILE_PASS (R36). Every 50 us the front end applies each enabled queue's mirror word 0 as a doorbell. -/
  | reconcilePass
  /-- SQ_DESCRIPTOR_WRITE (R31). The driver writes a submission queue descriptor, with enable and discard rules. -/
  | sqDescriptorWrite (q : Fin 4096) (k : Fin 8) (v : Word)
  /-- CQ_DESCRIPTOR_WRITE (R377). The driver writes a completion queue descriptor, with enable and discard rules. -/
  | cqDescriptorWrite (q : Fin 4096) (k : Fin 8) (v : Word)
  /-- CQ_HEAD_DOORBELL (R377). The host reports completion-queue consumption, freeing room for held records. -/
  | cqHeadDoorbell (q : Fin 4096) (v : Word)
  /-- LIGHT_LIST_WRITE (R7). A host write to a Light List entry takes effect or is discarded and counted. -/
  | lightListWrite (i : Fin 131072) (k : Fin 64) (v : Word)
  /-- REGISTER_WRITE (R3). A write to a register that has no behaviour of its own. -/
  | registerWrite (port : Fin 4) (off : Nat) (v : Word)
  /-- BIAS_TO_DEVICE (R43). A BIASCMD write requests a flip of a page to device bias. -/
  | biasToDevice (port : Fin 4) (page : BitVec 24)
  /-- BIAS_TO_HOST (R43). A BIASCMD write requests a flip of a page to host bias. -/
  | biasToHost (port : Fin 4) (page : BitVec 24)
  /-- BIAS_FLIP_COMPLETE (R43). A flip drains the losing side and changes the page's bias. -/
  | biasFlipComplete (port : Fin 4)
  /-- BIAS_FLIP_TIMEOUT (R43). A flip not complete after 1 ms ends with TIMEOUT. -/
  | biasFlipTimeout (port : Fin 4)
  /-- BIASDONE (R42). A read returns and removes the oldest flip completion entry. -/
  | biasdone (port : Fin 4)
  /-- HSYNC (R218). The driver starts a handle-table sync for a PD. -/
  | hsync (v : Word)
  /-- HSYNC_COMPLETE (R218). Checks against the old handle entry are done and HSYNC reads 0. -/
  | hsyncComplete
  /-- DIRQ (R222). A GPN write fetches a page-directory entry into DIRDATA. -/
  | dirq (v : Word)
  /-- TAPSYNC (R310). The driver asks to wait for row groups holding a tap-table entry. -/
  | tapsync (v : Word)
  /-- TAPSYNC_COMPLETE (R310). Every row group whose snapshot holds the entry has ended and TAPSYNC reads 0. -/
  | tapsyncComplete
  /-- DUMPFREE (R381). The host frees a dump frame. -/
  | dumpfree (v : Word)
  /-- ATTACH (R337). A Mooring command maps matching shared prefix chunks into a context. -/
  | attach (keys : Word)
  /-- PUBLISH (R337). A Mooring command shares a context's prefix chunks in the tree. -/
  | publish (keys : Word)
  /-- PARAM_SET (R400). Mailbox command setting an operator parameter. -/
  | paramSet (port : Fin 4) (len : BitVec 16) (tag : BitVec 32)
  /-- PARAM_GET (R400). Mailbox command returning a parameter. -/
  | paramGet (port : Fin 4) (len : BitVec 16) (tag : BitVec 32)
  /-- TELEMETRY (R404). Mailbox command returning telemetry counters. -/
  | telemetry (port : Fin 4) (len : BitVec 16) (tag : BitVec 32)
  /-- SPDM (R401). Mailbox command answering one SPDM request. -/
  | spdm (port : Fin 4) (len : BitVec 16) (tag : BitVec 32)
  /-- IMAGE_WRITE (R400). Mailbox command writing part of a new firmware image. -/
  | imageWrite (port : Fin 4) (len : BitVec 16) (tag : BitVec 32)
  /-- IMAGE_COMMIT (R398). Mailbox command verifying and installing a new firmware image. -/
  | imageCommit (port : Fin 4) (len : BitVec 16) (tag : BitVec 32)
  /-- ERRLOG (R405). Mailbox command returning the error log. -/
  | errlog (port : Fin 4) (len : BitVec 16) (tag : BitVec 32)
  /-- CTX_EXPORT (R46). Mailbox command exporting a SWAPPED context to the pool and releasing it. -/
  | ctxExport (port : Fin 4) (len : BitVec 16) (tag : BitVec 32) (pick : Nat)
  /-- CTX_IMPORT (R46). Mailbox command importing an export image into a FREE Light List entry. -/
  | ctxImport (port : Fin 4) (len : BitVec 16) (tag : BitVec 32) (pick : Nat)
  /-- NEED (R228). The Tender serves a page demanded by a drop. -/
  | need (d : Fin 4) (k : Nat) (gpn : BitVec 28) (pick : Nat)
  /-- SWAPIN (R229). The Tender moves a SWAPPED context's save area and pages back to HBM4E. -/
  | swapinReq (d : Fin 4) (k : Nat) (pick : Nat)
  /-- HINT (R227). The Tender learns a context's WAKE changed. -/
  | hint (d : Fin 4) (k : Nat)
  /-- RELEASED (R227). The Tender learns a context went to FREE. -/
  | released (d : Fin 4) (k : Nat)
  /-- RESIDENT (R11). The Lantern learns residency is complete and returns a PARKED PAGE row to the pool. -/
  | resident (d : Fin 4)
  /-- SWAPPEDOUT (R11). The Lantern learns a parked context is now SWAPPED. -/
  | swappedout (d : Fin 4)
  /-- SWAPPEDIN (R11). The Lantern learns a swapped context is PARKED again. -/
  | swappedin (d : Fin 4)
  /-- TENDER_NEAR (R229). A context's WAKE comes within HNEAR and its pages move up. -/
  | tenderNear (i : Fin 131072) (pick : Nat)
  /-- TENDER_SWAP_OUT (R229). A parked context reaches HSWAP and its save area and pages move to the pool. -/
  | tenderSwapOut (i : Fin 131072) (pick : Nat)
  /-- PAGE_MOVE_COMPLETE (R228). Every byte of a move has arrived; the directory takes the new level and frees the old frame. -/
  | pageMoveComplete (gpn : BitVec 28) (pick : Nat)
  /-- DEBUG_STOPREQ (R388). A debug write requests a stop of a core. -/
  | debugStopreq (c : CoreId)
  /-- DEBUG_RESUME (R391). A debug write restarts a stopped core. -/
  | debugResume (c : CoreId)
  /-- CYCLE_MATCH_STOP (R388). CYCLE reaches MATCH and the core stops. -/
  | cycleMatchStop (c : CoreId)
  /-- RETIRED_MATCH_STOP (R388). RETIRED would exceed MATCH and the core stops. -/
  | retiredMatchStop (c : CoreId)
  /-- SCOPE_STOP (R388). Another core of the instance stops at its own edge after a SCOPE 1 stop. -/
  | scopeStop (c : CoreId)
  /-- PTM_EXCHANGE (R30). Every 10 ms port 0 makes a PTM exchange and slews the timebase. -/
  | ptmExchange (offset : Int)
  /-- POWER_SAMPLE (R403). Every 1 us the power controller measures current and temperature and chooses each die's rate. -/
  | powerSample (d : Fin 4) (current temp : Nat)
  /-- SWALLOW_RATE_CHANGE (R403). A die's new swallowing rate takes effect at its next 64-cycle boundary. -/
  | swallowRateChange (d : Fin 4)
  /-- PACKAGE_RESET (R398). Package reset starts the boot ROM. -/
  | packageReset
  /-- BOOT_COMPLETE (R398). Image verification ends, entering RUN or BOOTFAIL. -/
  | bootComplete
  /-- HOST_MEM_READ (R354). A host CXL.mem read of device memory, returning poison where present. -/
  | hostMemRead (a : Word) (n : Nat)
  /-- HOST_MEM_WRITE (R41). A host CXL.mem write of device memory, clearing poison of whole words. -/
  | hostMemWrite (a : Word) (bytes : List Byte)
  /-- CXL_SNOOP (R29). A host snoop is answered invalid for lines the device does not hold. -/
  | cxlSnoop (a : Word)
  /-- FABRIC_REQUEST (R45). A UALink read, write or atomic arrives at the package. -/
  | fabricRequest (a : Word) (q : FabricReq)
  /-- TAP_CHUNK_STAGED (R312). The Sector unit finishes staging a tap site's next chunk into the tap partition, unfreezing a VTAP
  that waits for it. -/
  | tapChunkStaged (c : CoreId) (site : Fin 8)
  /-- REMOTE_SEMRD_REPLY (R290). The reply to a remote SEMRD arrives from the semaphore's home, letting the frozen group issue with
  the sampled value. -/
  | remoteSemrdReply (k : Nat)
  deriving DecidableEq, Repr

end Sys2Proof
end

