-- ==== Sys2Proof/WellFormed.lean ====
section
/-! DEFINITION. Well-formed instructions: those that have words. Operand types rule out most reserved codes; what is left is
checked here (R104, R107, R108, R111, R118). -/

namespace Sys2Proof

/-- Is a conversion type an integer type (R104). -/
def ScalarTy.isInt : ScalarTy → Bool
  | .i64 => true
  | .n64 => true
  | .i32 => true
  | .n32 => true
  | _ => false

/-- The type pairs of FCVT: not equal, and not both integers (R104). -/
def fcvtOk (s t : ScalarTy) : Bool := s != t && !(s.isInt && t.isInt)

/-- SX = 1 with SZ = 3 is reserved (R108). -/
def sxOk (z : Size) (x : Bool) : Bool := !(x && z == .d)

/-- CMPI does not take the floating conditions (R107). -/
def cmpiOk (k : Cond) : Bool :=
  match k with
  | .feq => false
  | .flt => false
  | .fle => false
  | .fun_ => false
  | _ => true

/-- A header of a command (R118): AWAIT and RAISE are zero where unused, and so are the words they bring. -/
def CmdHdr.ok (h : CmdHdr) (mayMigrate : Bool) : Bool :=
  (h.amode != .none || (h.await == 0 && h.thr == 0)) && (h.re || h.raise == 0) && (!h.mig || mayMigrate)
    && (h.lin || h.linw == 0)

/-- The classes of sequencer words (R97, R102); class 7 is split into its modifier and its system words. -/
inductive WordClass where
  | c0 | c1 | c2 | c3 | c4 | c5 | c6 | system | modifier
  deriving DecidableEq, Repr

/-- The class of a sequencer word; commands and events have none. -/
def Instr.cls : Instr → Option WordClass
  | .add .. | .sub .. | .mul .. | .mulh .. | .mulhu .. | .div .. | .divu .. | .rem .. | .remu .. | .and_ .. | .or_ ..
  | .xor_ .. | .andn .. | .shl .. | .shr .. | .sar .. | .rotl .. | .min .. | .max .. | .minu .. | .maxu .. | .sel ..
  | .fshl .. | .fshr .. | .bfx .. | .bfxs .. | .bfi .. | .clz .. | .ctz .. | .popc .. | .bswap .. | .mov ..
  | .fadd .. | .fsub .. | .fmul .. | .fmin .. | .fmax .. | .ffma .. | .fcvt .. => some .c0
  | .addi .. | .andi .. | .ori .. | .xori .. | .shli .. | .shri .. | .sari .. | .muli .. | .mini .. | .maxi ..
  | .li .. | .lish .. => some .c1
  | .br .. | .brp .. | .brq .. | .jr .. | .call .. | .callr .. | .ret .. | .loop .. | .loopi .. | .loopr .. | .cmp ..
  | .cmpi .. | .plog .. | .nop => some .c2
  | .ld .. | .st .. | .ldq .. | .qpush .. | .qpop .. | .qpeek .. | .qcnt .. | .qpushb .. | .agdef .. | .agset ..
  | .agadv .. | .agld .. | .aggath .. | .pgref .. | .cmdw .. | .cmdpub .. | .wpwait .. | .vld .. | .vst .. | .vldx ..
  | .vextr .. | .vins .. | .vshape .. | .vtap .. | .vmaskrow .. => some .c3
  | .vadd .. | .vsub .. | .vmul .. | .vfma .. | .vfms .. | .vmin .. | .vmax .. | .vabsd .. | .vand .. | .vor ..
  | .vxor .. | .vandn .. | .vshl .. | .vshr .. | .vsar .. | .vsel .. => some .c4
  | .vcmpeq .. | .vcmpne .. | .vcmplt .. | .vcmple .. | .vunMov .. | .vunNeg .. | .vunAbs .. | .vunNot ..
  | .vunCvt .. | .vunExp .. | .vunExp2 .. | .vunLog2 .. | .vunRcp .. | .vunRsq .. | .vunSqrt .. | .vunTanh ..
  | .vunSigm .. | .vunErf .. | .vunClz .. | .vunPopc .. | .vunIota .. | .vunPack .. | .vunUnpk .. | .vred ..
  | .vscan .. | .vshli .. | .vshri .. | .vsari .. | .vbfx .. | .vfsh .. | .vlut .. | .vsplat .. | .vquant ..
  | .vdeq .. => some .c5
  | .semwait .. | .semwaitb .. | .semsigLocal .. | .semsigRemote .. | .semsetLocal .. | .semsetRemote ..
  | .semrdLocal .. | .semrdRemote .. | .tokpop .. | .tokpush .. | .fence .. | .acq .. | .rel .. | .bind .. | .sdrain
  | .aballoc .. | .abfree .. | .rngdrawRaw .. | .rngdrawUnit .. | .rngskip .. => some .c6
  | .modifier .. => some .modifier
  | .trap .. | .rett | .termg | .exit | .yield | .ctxsw | .rdcr .. | .wrcr .. | .bkpt .. | .frqpop .. | .rowmask .. => some .system
  | _ => none

/-- Is the instruction a sequencer word. -/
def Instr.isWord (i : Instr) : Bool := i.cls.isSome

/-- Is the instruction a modifier word. -/
def Instr.isModifier : Instr → Bool
  | .modifier _ => true
  | _ => false

/-- Is the instruction well-formed: has it words that mean it. -/
def Instr.wellFormed : Instr → Bool
  | .fcvt _ _ s t _ => fcvtOk s t
  | .ld _ _ z x _ => sxOk z x
  | .ldq _ _ z x _ => sxOk z x
  | .cmpi k _ _ _ => cmpiOk k
  | .semsigRemote _ b => b != 0
  | .semsetRemote _ b => b != 0
  | .semrdRemote _ b => b != 0
  | .mnop h => h.ok false
  | .mma h _ _ _ => h.ok true
  | .mmar h _ _ _ _ => h.ok true
  | .mzero h _ => h.ok false
  | .anchor h _ => h.ok false
  | .resolve h _ _ => h.ok false
  | .drain h _ _ => h.ok false
  | .topk h _ _ => h.ok false
  | .acccmp h _ _ => h.ok false
  | .accspill h _ _ => h.ok false
  | .accfill h _ _ => h.ok false
  | .accmov h _ _ => h.ok false
  | .accadd h _ _ => h.ok false
  | .epcfg h _ _ => h.ok false
  | .msig h _ => h.ok false
  | .cnop h => h.ok false
  | .copy h _ => h.ok false
  | .gather h _ _ => h.ok false
  | .scatter h _ _ => h.ok false
  | .fill h _ _ => h.ok false
  | .accw h _ => h.ok false
  | .fetchop h _ _ => h.ok false
  | .cas h _ _ => h.ok false
  | .csig h _ => h.ok false
  | .pagein h _ => h.ok false
  | .pageout h _ => h.ok false
  | _ => true

end Sys2Proof
end

