-- ==== Sys2Proof/Decode.lean ====
section
/-! DEFINITION. The decoder of sequencer words (R102 to R114) and of ring commands (R116 to R118), total and rejecting by name,
and after it an encoder written from the same tables. Fields are read with `fld`. -/

namespace Sys2Proof

/-- Why a word is no instruction (R119). -/
inductive DecodeError where
  /-- The op, sub-op or CMDOP is not assigned. -/
  | reservedOp
  /-- A field written as zero is not zero. -/
  | reservedField
  /-- A coded field holds a reserved code. -/
  | reservedCode
  /-- A vector destination has a direction (R73). -/
  | destDirection
  /-- A modifier word has E set (R114). -/
  | modifierEnds
  /-- A header's NARG does not match its command (R118). -/
  | argumentCount
  /-- Fewer bytes or words than the instruction has. -/
  | truncated
  deriving DecidableEq, Repr

/-- The register number at bit `lo`. -/
def reg (w lo : Nat) : RegNum := Fin.ofNat 64 (fld w lo 6)

/-- The bit `lo`. -/
def bit (w lo : Nat) : Bool := fld w lo 1 == 1

/-- A bit as a number. -/
def bitN (b : Bool) : Nat := if b then 1 else 0

/-- An answer that needs a condition. -/
def need {α : Type} (c : Bool) (e : DecodeError) (r : Except DecodeError α) : Except DecodeError α :=
  if c then r else .error e

/-- A vector destination field at bit `lo` has direction 00 (R73). -/
def plainDest {α : Type} (w lo : Nat) (r : Except DecodeError α) : Except DecodeError α :=
  need (fld w (lo + 6) 2 == 0) .destDirection r

/-- The direction of a code (R73). -/
def dirOf (n : Nat) : Dir :=
  match n with
  | 0 => .plain
  | 1 => .col
  | 2 => .diag
  | _ => .bcast

/-- The code of a direction. -/
def dirCode : Dir → Nat
  | .plain => 0
  | .col => 1
  | .diag => 2
  | .bcast => 3

/-- The vector operand field at bit `lo` (R73). -/
def vop (w lo : Nat) : VOp := { dir := dirOf (fld w (lo + 6) 2), reg := reg w lo }

/-- The code of a vector operand field. -/
def vopCode (v : VOp) : Nat := dirCode v.dir * 64 + v.reg.val

/-- SZ (R108). -/
def withSize {α : Type} (n : Nat) (f : Size → Except DecodeError α) : Except DecodeError α :=
  match n with
  | 0 => f .b
  | 1 => f .h
  | 2 => f .w
  | 3 => f .d
  | _ => .error .reservedCode

/-- The code of a size. -/
def sizeCode : Size → Nat
  | .b => 0
  | .h => 1
  | .w => 2
  | .d => 3

/-- RING (R108). -/
def withRing {α : Type} (n : Nat) (f : Ring → Except DecodeError α) : Except DecodeError α :=
  match n with
  | 0 => f .me
  | 1 => f .ch0
  | 2 => f .ch1
  | _ => .error .reservedCode

/-- The code of a ring. -/
def ringCode : Ring → Nat
  | .me => 0
  | .ch0 => 1
  | .ch1 => 2

/-- COND (R107). -/
def withCond {α : Type} (n : Nat) (f : Cond → Except DecodeError α) : Except DecodeError α :=
  match n with
  | 0 => f .eq
  | 1 => f .ne
  | 2 => f .lt
  | 3 => f .ge
  | 4 => f .ltu
  | 5 => f .geu
  | 6 => f .feq
  | 7 => f .flt
  | 8 => f .fle
  | 9 => f .fun_
  | 10 => f .tst
  | _ => .error .reservedCode

/-- The code of a condition. -/
def condCode : Cond → Nat
  | .eq => 0
  | .ne => 1
  | .lt => 2
  | .ge => 3
  | .ltu => 4
  | .geu => 5
  | .feq => 6
  | .flt => 7
  | .fle => 8
  | .fun_ => 9
  | .tst => 10

/-- The axis of VRED and VSCAN (R110). -/
def withAxis {α : Type} (n : Nat) (f : Axis → Except DecodeError α) : Except DecodeError α :=
  match n with
  | 0 => f .lanes
  | 1 => f .rows
  | _ => .error .reservedCode

/-- The code of an axis. -/
def axisCode : Axis → Nat
  | .lanes => 0
  | .rows => 1

/-- The operation of VRED and VSCAN (R110). -/
def withRedOp {α : Type} (n : Nat) (f : RedOp → Except DecodeError α) : Except DecodeError α :=
  match n with
  | 0 => f .add
  | 1 => f .min
  | 2 => f .max
  | 3 => f .and
  | 4 => f .or
  | 5 => f .xor
  | _ => .error .reservedCode

/-- The code of a reduction's operation. -/
def redOpCode : RedOp → Nat
  | .add => 0
  | .min => 1
  | .max => 2
  | .and => 3
  | .or => 4
  | .xor => 5

/-- A conversion type of FCVT (R104). -/
def withScalarTy {α : Type} (n : Nat) (f : ScalarTy → Except DecodeError α) : Except DecodeError α :=
  match n with
  | 0 => f .i64
  | 1 => f .n64
  | 2 => f .f32
  | 3 => f .f16
  | 4 => f .bf16
  | 5 => f .i32
  | 6 => f .n32
  | _ => .error .reservedCode

/-- The code of a conversion type. -/
def scalarTyCode : ScalarTy → Nat
  | .i64 => 0
  | .n64 => 1
  | .f32 => 2
  | .f16 => 3
  | .bf16 => 4
  | .i32 => 5
  | .n32 => 6

/-- CH of WPWAIT (R108). -/
def chanOf (n : Nat) : Chan := if n = 0 then .c0 else .c1

/-- The code of a channel. -/
def chanCode : Chan → Nat
  | .c0 => 0
  | .c1 => 1

/-- SIDE of TOKPOP and TOKPUSH (R111). -/
def sideOf (n : Nat) : Side := if n = 0 then .left else .right

/-- The code of a side. -/
def sideCode : Side → Nat
  | .left => 0
  | .right => 1

/-- RND of a modifier word (R113). -/
def withRnd {α : Type} (n : Nat) (f : Rnd → Except DecodeError α) : Except DecodeError α :=
  match n with
  | 0 => f .keep
  | 1 => f .rne
  | 2 => f .rtz
  | 3 => f .rup
  | 4 => f .rdn
  | 5 => f .rna
  | _ => .error .reservedCode

/-- The code of a rounding field. -/
def rndCode : Rnd → Nat
  | .keep => 0
  | .rne => 1
  | .rtz => 2
  | .rup => 3
  | .rdn => 4
  | .rna => 5

/-- The modifier word (R113). -/
def decodeModifier (w : Nat) : Except DecodeError Instr :=
  need (fld w 31 1 == 0) .modifierEnds <| need (fld w 0 4 == 0) .reservedField <| withRnd (fld w 4 3) fun r =>
    .ok (.modifier
      { sat := bit w 25, clamp := Fin.ofNat 4 (fld w 23 2), negA := bit w 22, absA := bit w 21, negB := bit w 20,
        absB := bit w 19, scale := BitVec.ofNat 5 (fld w 14 5), gn := bit w 13, gp := reg w 7, rnd := r })

/-- The 31 low bits of a modifier word. -/
def encodeModifier (m : Modifier) : Nat :=
  0x70000000 + bitN m.sat * 2 ^ 25 + m.clamp.val * 2 ^ 23 + bitN m.negA * 2 ^ 22 + bitN m.absA * 2 ^ 21
    + bitN m.negB * 2 ^ 20 + bitN m.absB * 2 ^ 19 + m.scale.toNat * 2 ^ 14 + bitN m.gn * 2 ^ 13 + m.gp.val * 2 ^ 7
    + rndCode m.rnd * 2 ^ 4

/-- Class 0: scalar register form (R103, R104). -/
def decodeClass0 (w : Nat) : Except DecodeError Instr :=
  match fld w 22 6 with
  | 0x0 => .ok (.add (reg w 16) (reg w 10) (reg w 4) (Fin.ofNat 16 (fld w 0 4)))
  | 0x1 => .ok (.sub (reg w 16) (reg w 10) (reg w 4) (Fin.ofNat 16 (fld w 0 4)))
  | 0x2 => .ok (.mul (reg w 16) (reg w 10) (reg w 4) (Fin.ofNat 16 (fld w 0 4)))
  | 0x3 => .ok (.mulh (reg w 16) (reg w 10) (reg w 4) (Fin.ofNat 16 (fld w 0 4)))
  | 0x4 => .ok (.mulhu (reg w 16) (reg w 10) (reg w 4) (Fin.ofNat 16 (fld w 0 4)))
  | 0x5 => .ok (.div (reg w 16) (reg w 10) (reg w 4) (Fin.ofNat 16 (fld w 0 4)))
  | 0x6 => .ok (.divu (reg w 16) (reg w 10) (reg w 4) (Fin.ofNat 16 (fld w 0 4)))
  | 0x7 => .ok (.rem (reg w 16) (reg w 10) (reg w 4) (Fin.ofNat 16 (fld w 0 4)))
  | 0x8 => .ok (.remu (reg w 16) (reg w 10) (reg w 4) (Fin.ofNat 16 (fld w 0 4)))
  | 0x9 => .ok (.and_ (reg w 16) (reg w 10) (reg w 4) (Fin.ofNat 16 (fld w 0 4)))
  | 0xA => .ok (.or_ (reg w 16) (reg w 10) (reg w 4) (Fin.ofNat 16 (fld w 0 4)))
  | 0xB => .ok (.xor_ (reg w 16) (reg w 10) (reg w 4) (Fin.ofNat 16 (fld w 0 4)))
  | 0xC => .ok (.andn (reg w 16) (reg w 10) (reg w 4) (Fin.ofNat 16 (fld w 0 4)))
  | 0xD => .ok (.shl (reg w 16) (reg w 10) (reg w 4) (Fin.ofNat 16 (fld w 0 4)))
  | 0xE => .ok (.shr (reg w 16) (reg w 10) (reg w 4) (Fin.ofNat 16 (fld w 0 4)))
  | 0xF => .ok (.sar (reg w 16) (reg w 10) (reg w 4) (Fin.ofNat 16 (fld w 0 4)))
  | 0x10 => .ok (.rotl (reg w 16) (reg w 10) (reg w 4) (Fin.ofNat 16 (fld w 0 4)))
  | 0x11 => .ok (.min (reg w 16) (reg w 10) (reg w 4) (Fin.ofNat 16 (fld w 0 4)))
  | 0x12 => .ok (.max (reg w 16) (reg w 10) (reg w 4) (Fin.ofNat 16 (fld w 0 4)))
  | 0x13 => .ok (.minu (reg w 16) (reg w 10) (reg w 4) (Fin.ofNat 16 (fld w 0 4)))
  | 0x14 => .ok (.maxu (reg w 16) (reg w 10) (reg w 4) (Fin.ofNat 16 (fld w 0 4)))
  | 0x15 => .ok (.sel (reg w 16) (reg w 10) (reg w 4) (Fin.ofNat 16 (fld w 0 4)))
  | 0x16 => .ok (.fshl (reg w 16) (reg w 10) (reg w 4) (Fin.ofNat 16 (fld w 0 4)))
  | 0x17 => .ok (.fshr (reg w 16) (reg w 10) (reg w 4) (Fin.ofNat 16 (fld w 0 4)))
  | 0x18 => .ok (.bfx (reg w 16) (reg w 10) (reg w 4) (Fin.ofNat 16 (fld w 0 4)))
  | 0x19 => .ok (.bfxs (reg w 16) (reg w 10) (reg w 4) (Fin.ofNat 16 (fld w 0 4)))
  | 0x1A => .ok (.bfi (reg w 16) (reg w 10) (reg w 4) (Fin.ofNat 16 (fld w 0 4)))
  | 0x1B => need (fld w 4 6 == 0) .reservedField (.ok (.clz (reg w 16) (reg w 10) (Fin.ofNat 16 (fld w 0 4))))
  | 0x1C => need (fld w 4 6 == 0) .reservedField (.ok (.ctz (reg w 16) (reg w 10) (Fin.ofNat 16 (fld w 0 4))))
  | 0x1D => need (fld w 4 6 == 0) .reservedField (.ok (.popc (reg w 16) (reg w 10) (Fin.ofNat 16 (fld w 0 4))))
  | 0x1E => need (fld w 4 6 == 0) .reservedField (.ok (.bswap (reg w 16) (reg w 10) (Fin.ofNat 16 (fld w 0 4))))
  | 0x1F => need (fld w 4 6 == 0) .reservedField (.ok (.mov (reg w 16) (reg w 10) (Fin.ofNat 16 (fld w 0 4))))
  | 0x20 => .ok (.fadd (reg w 16) (reg w 10) (reg w 4) (Fin.ofNat 16 (fld w 0 4)))
  | 0x21 => .ok (.fsub (reg w 16) (reg w 10) (reg w 4) (Fin.ofNat 16 (fld w 0 4)))
  | 0x22 => .ok (.fmul (reg w 16) (reg w 10) (reg w 4) (Fin.ofNat 16 (fld w 0 4)))
  | 0x23 => .ok (.fmin (reg w 16) (reg w 10) (reg w 4) (Fin.ofNat 16 (fld w 0 4)))
  | 0x24 => .ok (.fmax (reg w 16) (reg w 10) (reg w 4) (Fin.ofNat 16 (fld w 0 4)))
  | 0x25 => .ok (.ffma (reg w 16) (reg w 10) (reg w 4) (Fin.ofNat 16 (fld w 0 4)))
  | 0x26 => withScalarTy (fld w 7 3) fun s => withScalarTy (fld w 4 3) fun t => need (fcvtOk s t) .reservedCode (.ok (.fcvt (reg w 16) (reg w 10) s t (Fin.ofNat 16 (fld w 0 4))))
  | _ => .error .reservedOp

/-- Class 1: scalar immediate form (R105). -/
def decodeClass1 (w : Nat) : Except DecodeError Instr :=
  match fld w 24 4 with
  | 0x0 => .ok (.addi (reg w 18) (reg w 12) (BitVec.ofNat 12 (fld w 0 12)))
  | 0x1 => .ok (.andi (reg w 18) (reg w 12) (BitVec.ofNat 12 (fld w 0 12)))
  | 0x2 => .ok (.ori (reg w 18) (reg w 12) (BitVec.ofNat 12 (fld w 0 12)))
  | 0x3 => .ok (.xori (reg w 18) (reg w 12) (BitVec.ofNat 12 (fld w 0 12)))
  | 0x4 => need (fld w 6 6 == 0) .reservedField (.ok (.shli (reg w 18) (reg w 12) (Fin.ofNat 64 (fld w 0 6))))
  | 0x5 => need (fld w 6 6 == 0) .reservedField (.ok (.shri (reg w 18) (reg w 12) (Fin.ofNat 64 (fld w 0 6))))
  | 0x6 => need (fld w 6 6 == 0) .reservedField (.ok (.sari (reg w 18) (reg w 12) (Fin.ofNat 64 (fld w 0 6))))
  | 0x7 => .ok (.muli (reg w 18) (reg w 12) (BitVec.ofNat 12 (fld w 0 12)))
  | 0x8 => .ok (.mini (reg w 18) (reg w 12) (BitVec.ofNat 12 (fld w 0 12)))
  | 0x9 => .ok (.maxi (reg w 18) (reg w 12) (BitVec.ofNat 12 (fld w 0 12)))
  | 0xA => .ok (.li (reg w 18) (BitVec.ofNat 18 (fld w 0 18)))
  | 0xB => .ok (.lish (reg w 18) (BitVec.ofNat 18 (fld w 0 18)))
  | _ => .error .reservedOp

/-- Class 2: control (R106, R107). -/
def decodeClass2 (w : Nat) : Except DecodeError Instr :=
  match fld w 24 4 with
  | 0x0 => need (fld w 16 8 == 0) .reservedField (.ok (.br (BitVec.ofNat 16 (fld w 0 16))))
  | 0x1 => need (fld w 16 1 == 0) .reservedField (.ok (.brp (bit w 23) (reg w 17) (BitVec.ofNat 16 (fld w 0 16))))
  | 0x2 => need (fld w 16 7 == 0) .reservedField (.ok (.brq (bit w 23) (BitVec.ofNat 16 (fld w 0 16))))
  | 0x3 => need (fld w 0 18 == 0) .reservedField (.ok (.jr (reg w 18)))
  | 0x4 => need (fld w 16 2 == 0) .reservedField (.ok (.call (reg w 18) (BitVec.ofNat 16 (fld w 0 16))))
  | 0x5 => need (fld w 0 12 == 0) .reservedField (.ok (.callr (reg w 18) (reg w 12)))
  | 0x6 => need (fld w 0 18 == 0) .reservedField (.ok (.ret (reg w 18)))
  | 0x7 => .ok (.loop (Fin.ofNat 4 (fld w 22 2)) (reg w 16) (BitVec.ofNat 16 (fld w 0 16)))
  | 0x8 => .ok (.loopi (Fin.ofNat 4 (fld w 22 2)) (BitVec.ofNat 10 (fld w 12 10)) (BitVec.ofNat 12 (fld w 0 12)))
  | 0x9 => .ok (.loopr (Fin.ofNat 4 (fld w 22 2)) (reg w 16) (bit w 15) (bit w 14) (BitVec.ofNat 14 (fld w 0 14)))
  | 0xA => need (fld w 0 2 == 0) .reservedField (withCond (fld w 20 4) fun k => .ok (.cmp k (reg w 14) (reg w 8) (reg w 2)))
  | 0xB => withCond (fld w 20 4) fun k => need (cmpiOk k) .reservedCode (.ok (.cmpi k (reg w 14) (reg w 8) (BitVec.ofNat 8 (fld w 0 8))))
  | 0xC => need (fld w 0 2 == 0) .reservedField (.ok (.plog (reg w 18) (reg w 12) (reg w 6) (BitVec.ofNat 4 (fld w 2 4))))
  | 0xD => need (fld w 0 24 == 0) .reservedField (.ok (.nop))
  | _ => .error .reservedOp

/-- Class 3: memory, queues, streams and vector memory (R108). -/
def decodeClass3 (w : Nat) : Except DecodeError Instr :=
  match fld w 23 5 with
  | 0x0 => withSize (fld w 8 3) fun z => need (sxOk z (bit w 7)) .reservedCode (.ok (.ld (reg w 17) (reg w 11) z (bit w 7) (BitVec.ofNat 7 (fld w 0 7))))
  | 0x1 => need (fld w 7 1 == 0) .reservedField (withSize (fld w 8 3) fun z => .ok (.st (reg w 17) (reg w 11) z (BitVec.ofNat 7 (fld w 0 7))))
  | 0x2 => withSize (fld w 10 3) fun z => need (sxOk z (bit w 9)) .reservedCode (.ok (.ldq (Fin.ofNat 16 (fld w 19 4)) (reg w 13) z (bit w 9) (BitVec.ofNat 9 (fld w 0 9))))
  | 0x3 => need (fld w 0 13 == 0) .reservedField (.ok (.qpush (Fin.ofNat 16 (fld w 19 4)) (reg w 13)))
  | 0x4 => need (fld w 0 13 == 0) .reservedField (.ok (.qpop (Fin.ofNat 16 (fld w 19 4)) (reg w 13)))
  | 0x5 => need (fld w 0 13 == 0) .reservedField (.ok (.qpeek (Fin.ofNat 16 (fld w 19 4)) (reg w 13)))
  | 0x6 => need (fld w 0 13 == 0) .reservedField (.ok (.qcnt (Fin.ofNat 16 (fld w 19 4)) (reg w 13)))
  | 0x7 => need (fld w 0 12 == 0 && fld w 19 4 == 0) .reservedField (.ok (.qpushb (reg w 13) (bit w 12)))
  | 0x8 => need (fld w 0 12 == 0) .reservedField (.ok (.agdef (Fin.ofNat 32 (fld w 18 5)) (reg w 12)))
  | 0x9 => need (fld w 0 5 == 0) .reservedField (.ok (.agset (Fin.ofNat 32 (fld w 18 5)) (reg w 12) (BitVec.ofNat 7 (fld w 5 7))))
  | 0xA => need (fld w 0 8 == 0) .reservedField (.ok (.agadv (Fin.ofNat 32 (fld w 18 5)) (reg w 12) (Fin.ofNat 16 (fld w 8 4))))
  | 0xB => need (fld w 0 14 == 0) .reservedField (.ok (.agld (Fin.ofNat 32 (fld w 18 5)) (Fin.ofNat 16 (fld w 14 4))))
  | 0xC => need (fld w 0 8 == 0) .reservedField (.ok (.aggath (Fin.ofNat 32 (fld w 18 5)) (Fin.ofNat 16 (fld w 14 4)) (reg w 8)))
  | 0xD => need (fld w 0 11 == 0) .reservedField (.ok (.pgref (reg w 17) (reg w 11)))
  | 0xE => need (fld w 0 15 == 0) .reservedField (withRing (fld w 21 2) fun r => .ok (.cmdw r (reg w 15)))
  | 0xF => need (fld w 0 21 == 0) .reservedField (withRing (fld w 21 2) fun r => .ok (.cmdpub r))
  | 0x10 => need (fld w 0 16 == 0) .reservedField (.ok (.wpwait (chanOf (fld w 22 1)) (reg w 16)))
  | 0x11 => need (fld w 0 3 == 0) .reservedField (plainDest w 15 (.ok (.vld (reg w 15) (reg w 9) (reg w 3))))
  | 0x12 => need (fld w 0 3 == 0) .reservedField (.ok (.vst (vop w 15) (reg w 9) (reg w 3)))
  | 0x13 => need (fld w 0 1 == 0) .reservedField (plainDest w 15 (.ok (.vldx (reg w 15) (reg w 9) (vop w 1))))
  | 0x14 => need (fld w 0 3 == 0) .reservedField (.ok (.vextr (reg w 17) (vop w 9) (reg w 3)))
  | 0x15 => need (fld w 0 3 == 0) .reservedField (plainDest w 15 (.ok (.vins (reg w 15) (reg w 9) (reg w 3))))
  | 0x16 => need (fld w 0 5 == 0) .reservedField (.ok (.vshape (Fin.ofNat 32 (fld w 18 5)) (Fin.ofNat 32 (fld w 13 5)) (Fin.ofNat 16 (fld w 9 4)) (Fin.ofNat 16 (fld w 5 4))))
  | 0x17 => need (fld w 0 12 == 0) .reservedField (.ok (.vtap (vop w 15) (Fin.ofNat 8 (fld w 12 3))))
  | 0x18 => need (fld w 0 9 == 0) .reservedField (plainDest w 15 (.ok (.vmaskrow (reg w 15) (reg w 9))))
  | _ => .error .reservedOp

/-- Class 4: vector (R110). -/
def decodeClass4 (w : Nat) : Except DecodeError Instr :=
  match fld w 24 4 with
  | 0x0 => plainDest w 16 (.ok (.vadd (reg w 16) (vop w 8) (vop w 0)))
  | 0x1 => plainDest w 16 (.ok (.vsub (reg w 16) (vop w 8) (vop w 0)))
  | 0x2 => plainDest w 16 (.ok (.vmul (reg w 16) (vop w 8) (vop w 0)))
  | 0x3 => plainDest w 16 (.ok (.vfma (reg w 16) (vop w 8) (vop w 0)))
  | 0x4 => plainDest w 16 (.ok (.vfms (reg w 16) (vop w 8) (vop w 0)))
  | 0x5 => plainDest w 16 (.ok (.vmin (reg w 16) (vop w 8) (vop w 0)))
  | 0x6 => plainDest w 16 (.ok (.vmax (reg w 16) (vop w 8) (vop w 0)))
  | 0x7 => plainDest w 16 (.ok (.vabsd (reg w 16) (vop w 8) (vop w 0)))
  | 0x8 => plainDest w 16 (.ok (.vand (reg w 16) (vop w 8) (vop w 0)))
  | 0x9 => plainDest w 16 (.ok (.vor (reg w 16) (vop w 8) (vop w 0)))
  | 0xA => plainDest w 16 (.ok (.vxor (reg w 16) (vop w 8) (vop w 0)))
  | 0xB => plainDest w 16 (.ok (.vandn (reg w 16) (vop w 8) (vop w 0)))
  | 0xC => plainDest w 16 (.ok (.vshl (reg w 16) (vop w 8) (vop w 0)))
  | 0xD => plainDest w 16 (.ok (.vshr (reg w 16) (vop w 8) (vop w 0)))
  | 0xE => plainDest w 16 (.ok (.vsar (reg w 16) (vop w 8) (vop w 0)))
  | 0xF => plainDest w 16 (.ok (.vsel (reg w 16) (vop w 8) (vop w 0)))
  | _ => .error .reservedOp

/-- The sub-operations of VUN (R110). -/
def decodeVun (w : Nat) : Except DecodeError Instr :=
  match fld w 0 8 with
  | 0x00 => plainDest w 16 (.ok (.vunMov (reg w 16) (vop w 8)))
  | 0x01 => plainDest w 16 (.ok (.vunNeg (reg w 16) (vop w 8)))
  | 0x02 => plainDest w 16 (.ok (.vunAbs (reg w 16) (vop w 8)))
  | 0x03 => plainDest w 16 (.ok (.vunNot (reg w 16) (vop w 8)))
  | 0x04 => plainDest w 16 (.ok (.vunCvt (reg w 16) (vop w 8)))
  | 0x05 => plainDest w 16 (.ok (.vunExp (reg w 16) (vop w 8)))
  | 0x06 => plainDest w 16 (.ok (.vunExp2 (reg w 16) (vop w 8)))
  | 0x07 => plainDest w 16 (.ok (.vunLog2 (reg w 16) (vop w 8)))
  | 0x08 => plainDest w 16 (.ok (.vunRcp (reg w 16) (vop w 8)))
  | 0x09 => plainDest w 16 (.ok (.vunRsq (reg w 16) (vop w 8)))
  | 0x0A => plainDest w 16 (.ok (.vunSqrt (reg w 16) (vop w 8)))
  | 0x0B => plainDest w 16 (.ok (.vunTanh (reg w 16) (vop w 8)))
  | 0x0C => plainDest w 16 (.ok (.vunSigm (reg w 16) (vop w 8)))
  | 0x0D => plainDest w 16 (.ok (.vunErf (reg w 16) (vop w 8)))
  | 0x0E => plainDest w 16 (.ok (.vunClz (reg w 16) (vop w 8)))
  | 0x0F => plainDest w 16 (.ok (.vunPopc (reg w 16) (vop w 8)))
  | 0x10 => need (fld w 8 8 == 0) .reservedField (plainDest w 16 (.ok (.vunIota (reg w 16))))
  | 0x11 => plainDest w 16 (.ok (.vunPack (reg w 16) (vop w 8)))
  | 0x12 => plainDest w 16 (.ok (.vunUnpk (reg w 16) (vop w 8)))
  | n => .error (if n < 0x20 then .reservedOp else .reservedField)

/-- Class 5: vector (R110). -/
def decodeClass5 (w : Nat) : Except DecodeError Instr :=
  match fld w 24 4 with
  | 0x0 => plainDest w 16 (.ok (.vcmpeq (reg w 16) (vop w 8) (vop w 0)))
  | 0x1 => plainDest w 16 (.ok (.vcmpne (reg w 16) (vop w 8) (vop w 0)))
  | 0x2 => plainDest w 16 (.ok (.vcmplt (reg w 16) (vop w 8) (vop w 0)))
  | 0x3 => plainDest w 16 (.ok (.vcmple (reg w 16) (vop w 8) (vop w 0)))
  | 0x4 => decodeVun w
  | 0x5 => need (fld w 0 3 == 0) .reservedField (plainDest w 16 (withAxis (fld w 6 2) fun x => withRedOp (fld w 3 3) fun o => .ok (.vred (reg w 16) (vop w 8) x o)))
  | 0x6 => need (fld w 0 3 == 0) .reservedField (plainDest w 16 (withAxis (fld w 6 2) fun x => withRedOp (fld w 3 3) fun o => .ok (.vscan (reg w 16) (vop w 8) x o)))
  | 0x7 => need (fld w 5 3 == 0) .reservedField (plainDest w 16 (.ok (.vshli (reg w 16) (vop w 8) (Fin.ofNat 32 (fld w 0 5)))))
  | 0x8 => need (fld w 5 3 == 0) .reservedField (plainDest w 16 (.ok (.vshri (reg w 16) (vop w 8) (Fin.ofNat 32 (fld w 0 5)))))
  | 0x9 => need (fld w 5 3 == 0) .reservedField (plainDest w 16 (.ok (.vsari (reg w 16) (vop w 8) (Fin.ofNat 32 (fld w 0 5)))))
  | 0xA => plainDest w 16 (.ok (.vbfx (reg w 16) (vop w 8) (vop w 0)))
  | 0xB => plainDest w 16 (.ok (.vfsh (reg w 16) (vop w 8) (vop w 0)))
  | 0xC => plainDest w 16 (.ok (.vlut (reg w 16) (vop w 8) (vop w 0)))
  | 0xD => need (fld w 0 8 == 0 && fld w 14 2 == 0) .reservedField (plainDest w 16 (.ok (.vsplat (reg w 16) (reg w 8))))
  | 0xE => plainDest w 16 (.ok (.vquant (reg w 16) (vop w 8) (vop w 0)))
  | 0xF => plainDest w 16 (.ok (.vdeq (reg w 16) (vop w 8) (vop w 0)))
  | _ => .error .reservedOp

/-- The kinds of RNGDRAW (R111). -/
def decodeRngDraw (w : Nat) : Except DecodeError Instr :=
  match fld w 8 3 with
  | 0 => need (fld w 0 8 == 0) .reservedField (.ok (.rngdrawRaw (reg w 17) (reg w 11)))
  | 1 => need (fld w 0 8 == 0) .reservedField (.ok (.rngdrawUnit (reg w 17) (reg w 11)))
  | _ => .error .reservedCode

/-- Class 6: synchronisation and engine interface (R111). -/
def decodeClass6 (w : Nat) : Except DecodeError Instr :=
  match fld w 23 5 with
  | 0x0 => need (fld w 0 11 == 0) .reservedField (.ok (.semwait (reg w 17) (Fin.ofNat 64 (fld w 11 6))))
  | 0x1 => need (fld w 0 11 == 0) .reservedField (.ok (.semwaitb (reg w 17) (Fin.ofNat 64 (fld w 11 6))))
  | 0x2 => if fld w 11 6 = 0 then need (fld w 0 5 == 0) .reservedField (.ok (.semsigLocal (reg w 17) (Fin.ofNat 64 (fld w 5 6))))
    else need (fld w 0 11 == 0) .reservedField (.ok (.semsigRemote (reg w 17) (reg w 11)))
  | 0x3 => if fld w 11 6 = 0 then need (fld w 0 5 == 0) .reservedField (.ok (.semsetLocal (reg w 17) (Fin.ofNat 64 (fld w 5 6))))
    else need (fld w 0 11 == 0) .reservedField (.ok (.semsetRemote (reg w 17) (reg w 11)))
  | 0x4 => if fld w 11 6 = 0 then need (fld w 0 5 == 0) .reservedField (.ok (.semrdLocal (reg w 17) (Fin.ofNat 64 (fld w 5 6))))
    else need (fld w 0 11 == 0) .reservedField (.ok (.semrdRemote (reg w 17) (reg w 11)))
  | 0x5 => need (fld w 0 22 == 0) .reservedField (.ok (.tokpop (sideOf (fld w 22 1))))
  | 0x6 => need (fld w 0 22 == 0) .reservedField (.ok (.tokpush (sideOf (fld w 22 1))))
  | 0x7 => need (fld w 0 5 == 0) .reservedField (.ok (.fence (BitVec.ofNat 9 (fld w 14 9)) (BitVec.ofNat 9 (fld w 5 9))))
  | 0x8 => need (fld w 0 2 == 0) .reservedField (.ok (.acq (BitVec.ofNat 9 (fld w 14 9)) (reg w 8) (reg w 2)))
  | 0x9 => need (fld w 0 2 == 0) .reservedField (.ok (.rel (BitVec.ofNat 9 (fld w 14 9)) (reg w 8) (reg w 2)))
  | 0xA => need (fld w 0 12 == 0) .reservedField (.ok (.bind (Fin.ofNat 32 (fld w 18 5)) (reg w 12)))
  | 0xB => need (fld w 0 23 == 0) .reservedField (.ok (.sdrain))
  | 0xC => need (fld w 0 8 == 0) .reservedField (.ok (.aballoc (reg w 17) (BitVec.ofNat 9 (fld w 8 9))))
  | 0xD => need (fld w 0 8 == 0) .reservedField (.ok (.abfree (reg w 17) (BitVec.ofNat 9 (fld w 8 9))))
  | 0xE => decodeRngDraw w
  | 0xF => need (fld w 0 11 == 0) .reservedField (.ok (.rngskip (reg w 17) (reg w 11)))
  | _ => .error .reservedOp

/-- Class 7 system words (R83, R112). -/
def decodeSystem (w : Nat) : Except DecodeError Instr :=
  match fld w 21 5 with
  | 0x0 => need (fld w 16 5 == 0) .reservedField (.ok (.trap (BitVec.ofNat 16 (fld w 0 16))))
  | 0x1 => need (fld w 0 21 == 0) .reservedField (.ok (.rett))
  | 0x2 => need (fld w 0 21 == 0) .reservedField (.ok (.termg))
  | 0x3 => need (fld w 0 21 == 0) .reservedField (.ok (.exit))
  | 0x4 => need (fld w 0 21 == 0) .reservedField (.ok (.yield))
  | 0x5 => need (fld w 0 21 == 0) .reservedField (.ok (.ctxsw))
  | 0x6 => need (fld w 0 8 == 0) .reservedField (.ok (.rdcr (reg w 15) (Fin.ofNat 128 (fld w 8 7))))
  | 0x7 => need (fld w 0 8 == 0) .reservedField (.ok (.wrcr (reg w 15) (Fin.ofNat 128 (fld w 8 7))))
  | 0x8 => need (fld w 16 5 == 0) .reservedField (.ok (.bkpt (BitVec.ofNat 16 (fld w 0 16))))
  | 0x9 => need (fld w 0 15 == 0) .reservedField (.ok (.frqpop (reg w 15)))
  | 0xA => need (fld w 0 15 == 0) .reservedField (.ok (.rowmask (reg w 15)))
  | _ => .error .reservedOp

/-- A sequencer word (R97, R102): the instruction in bits [30:0], with a modifier's E checked. -/
def decodeWord (w : Nat) : Except DecodeError Instr :=
  match fld w 28 3 with
  | 0 => decodeClass0 w
  | 1 => decodeClass1 w
  | 2 => decodeClass2 w
  | 3 => decodeClass3 w
  | 4 => decodeClass4 w
  | 5 => decodeClass5 w
  | 6 => decodeClass6 w
  | _ =>
    match fld w 26 2 with
    | 0 => decodeModifier w
    | 1 => decodeSystem w
    | _ => .error .reservedOp

/-- The engines that fetch step words (R117, R118). -/
inductive StepEngine where
  | me | channel | tender
  deriving DecidableEq, Repr

/-- AMODE (R116). -/
def withAMode {α : Type} (n : Nat) (f : AMode → Except DecodeError α) : Except DecodeError α :=
  match n with
  | 0 => f .none
  | 1 => f .ge
  | 2 => f .lt
  | _ => .error .reservedCode

/-- The code of an await mode. -/
def amodeCode : AMode → Nat
  | .none => 0
  | .ge => 1
  | .lt => 2

/-- The own arguments of a command (R117), when its CMDOP is assigned on the engine. -/
def ownArgs (eng : StepEngine) (op : Nat) : Option Nat :=
  match eng with
  | .me => [0, 3, 4, 1, 1, 2, 2, 2, 2, 2, 2, 2, 2, 2, 1][op]?
  | .channel => [0, 1, 2, 2, 2, 1, 2, 2, 1][op]?
  | .tender => [0, 1, 2, 2, 2, 1, 2, 2, 1, 1, 1][op]?

/-- The command of an ME ring. -/
def meCommand (op : Nat) (h : CmdHdr) (a : Nat → Lane) : Except DecodeError Instr :=
  match op with
  | 0x0 => .ok (.mnop h)
  | 0x1 => .ok (.mma h (a 0) (a 1) (a 2))
  | 0x2 => .ok (.mmar h (a 0) (a 1) (a 2) (a 3))
  | 0x3 => .ok (.mzero h (a 0))
  | 0x4 => .ok (.anchor h (a 0))
  | 0x5 => .ok (.resolve h (a 0) (a 1))
  | 0x6 => .ok (.drain h (a 0) (a 1))
  | 0x7 => .ok (.topk h (a 0) (a 1))
  | 0x8 => .ok (.acccmp h (a 0) (a 1))
  | 0x9 => .ok (.accspill h (a 0) (a 1))
  | 0xA => .ok (.accfill h (a 0) (a 1))
  | 0xB => .ok (.accmov h (a 0) (a 1))
  | 0xC => .ok (.accadd h (a 0) (a 1))
  | 0xD => .ok (.epcfg h (a 0) (a 1))
  | 0xE => .ok (.msig h (a 0))
  | _ => .error .reservedOp

/-- The command of a copy engine's ring. -/
def copyCommand (op : Nat) (h : CmdHdr) (a : Nat → Lane) : Except DecodeError Instr :=
  match op with
  | 0x0 => .ok (.cnop h)
  | 0x1 => .ok (.copy h (a 0))
  | 0x2 => .ok (.gather h (a 0) (a 1))
  | 0x3 => .ok (.scatter h (a 0) (a 1))
  | 0x4 => .ok (.fill h (a 0) (a 1))
  | 0x5 => .ok (.accw h (a 0))
  | 0x6 => .ok (.fetchop h (a 0) (a 1))
  | 0x7 => .ok (.cas h (a 0) (a 1))
  | 0x8 => .ok (.csig h (a 0))
  | 0x9 => .ok (.pagein h (a 0))
  | 0xA => .ok (.pageout h (a 0))
  | _ => .error .reservedOp

/-- The checks of R118 on a header word, made when it is fetched. -/
def headerOk (eng : StepEngine) (w : Nat) : Except DecodeError Unit :=
  match ownArgs eng (fld w 26 6) with
  | none => .error .reservedOp
  | some own =>
    withAMode (fld w 15 2) fun am =>
      need (fld w 23 3 == own + (if am = .none then 0 else 1) + fld w 2 1) .argumentCount <|
      need (am != .none || fld w 17 6 == 0) .reservedField <|
      need (bit w 8 || fld w 9 6 == 0) .reservedField <|
      need (!bit w 3 || (eng == .me && (fld w 26 6 == 1 || fld w 26 6 == 2))) .reservedField <|
      need (fld w 0 2 == 0) .reservedField (.ok ())

/-- A whole command (R116): the header word, then its own arguments, the threshold word and the lineage word. -/
def decodeCommand (eng : StepEngine) (w : Nat) (args : List Lane) : Except DecodeError Instr :=
  match headerOk eng w with
  | .error e => .error e
  | .ok _ =>
    let own := (ownArgs eng (fld w 26 6)).getD 0
    withAMode (fld w 15 2) fun am =>
      need (args.length == fld w 23 3) .truncated <|
        let h : CmdHdr :=
          { await := Fin.ofNat 64 (fld w 17 6), amode := am, raise := Fin.ofNat 64 (fld w 9 6), re := bit w 8,
            popL := bit w 7, popR := bit w 6, pushL := bit w 5, pushR := bit w 4, mig := bit w 3, lin := bit w 2,
            thr := if am = .none then 0 else args.getD own 0,
            linw := if bit w 2 then args.getD (own + if am = .none then 0 else 1) 0 else 0 }
        match eng with
        | .me => meCommand (fld w 26 6) h (args.getD · 0)
        | _ => copyCommand (fld w 26 6) h (args.getD · 0)

/-- Four bytes as a little-endian word (R2). -/
def leWord (b0 b1 b2 b3 : Byte) : Nat := b0.toNat + 256 * b1.toNat + 65536 * b2.toNat + 16777216 * b3.toNat

/-- One sequencer word at the head of any bytes: its E, its instruction and the bytes after it. -/
def decodeBytes : List Byte → Except DecodeError (Bool × Instr × List Byte)
  | b0 :: b1 :: b2 :: b3 :: rest =>
    match decodeWord (leWord b0 b1 b2 b3) with
    | .ok i => .ok (bit (leWord b0 b1 b2 b3) 31, i, rest)
    | .error e => .error e
  | _ => .error .truncated

/-- The `n` low bytes of `w`, lowest first. -/
def leBytes : Nat → Nat → List Byte
  | 0, _ => []
  | n + 1, w => BitVec.ofNat 8 w :: leBytes n (w / 256)

/-- The instruction that the decoder reads from the bits of an opcode-table row: a sequencer word is 32 bits, and the rows
without a word (commands, events) have none here. -/
def decodeTableWord (nbits w : Nat) : Option Instr :=
  if nbits = 0 || 32 < nbits then none
  else match decodeBytes (leBytes 4 w) with
    | .ok (_, i, _) => some i
    | .error _ => none

/-! ## The encoder -/

/-- A word: its fixed bits with a value put at each field's lowest bit. -/
def putFields (base : Nat) : List (Nat × Nat) → Nat
  | [] => base
  | (lo, v) :: rest => putFields base rest + v * 2 ^ lo

/-- The 31 bits below E of a sequencer word: 0 for a command or an event, which has none. -/
def encodeBody : Instr → Nat
  | .add d a b g => putFields 0x00000000 [(16, d.val), (10, a.val), (4, b.val), (0, g.val)]
  | .sub d a b g => putFields 0x00400000 [(16, d.val), (10, a.val), (4, b.val), (0, g.val)]
  | .mul d a b g => putFields 0x00800000 [(16, d.val), (10, a.val), (4, b.val), (0, g.val)]
  | .mulh d a b g => putFields 0x00C00000 [(16, d.val), (10, a.val), (4, b.val), (0, g.val)]
  | .mulhu d a b g => putFields 0x01000000 [(16, d.val), (10, a.val), (4, b.val), (0, g.val)]
  | .div d a b g => putFields 0x01400000 [(16, d.val), (10, a.val), (4, b.val), (0, g.val)]
  | .divu d a b g => putFields 0x01800000 [(16, d.val), (10, a.val), (4, b.val), (0, g.val)]
  | .rem d a b g => putFields 0x01C00000 [(16, d.val), (10, a.val), (4, b.val), (0, g.val)]
  | .remu d a b g => putFields 0x02000000 [(16, d.val), (10, a.val), (4, b.val), (0, g.val)]
  | .and_ d a b g => putFields 0x02400000 [(16, d.val), (10, a.val), (4, b.val), (0, g.val)]
  | .or_ d a b g => putFields 0x02800000 [(16, d.val), (10, a.val), (4, b.val), (0, g.val)]
  | .xor_ d a b g => putFields 0x02C00000 [(16, d.val), (10, a.val), (4, b.val), (0, g.val)]
  | .andn d a b g => putFields 0x03000000 [(16, d.val), (10, a.val), (4, b.val), (0, g.val)]
  | .shl d a b g => putFields 0x03400000 [(16, d.val), (10, a.val), (4, b.val), (0, g.val)]
  | .shr d a b g => putFields 0x03800000 [(16, d.val), (10, a.val), (4, b.val), (0, g.val)]
  | .sar d a b g => putFields 0x03C00000 [(16, d.val), (10, a.val), (4, b.val), (0, g.val)]
  | .rotl d a b g => putFields 0x04000000 [(16, d.val), (10, a.val), (4, b.val), (0, g.val)]
  | .min d a b g => putFields 0x04400000 [(16, d.val), (10, a.val), (4, b.val), (0, g.val)]
  | .max d a b g => putFields 0x04800000 [(16, d.val), (10, a.val), (4, b.val), (0, g.val)]
  | .minu d a b g => putFields 0x04C00000 [(16, d.val), (10, a.val), (4, b.val), (0, g.val)]
  | .maxu d a b g => putFields 0x05000000 [(16, d.val), (10, a.val), (4, b.val), (0, g.val)]
  | .sel d a b p => putFields 0x05400000 [(16, d.val), (10, a.val), (4, b.val), (0, p.val)]
  | .fshl d a b g => putFields 0x05800000 [(16, d.val), (10, a.val), (4, b.val), (0, g.val)]
  | .fshr d a b g => putFields 0x05C00000 [(16, d.val), (10, a.val), (4, b.val), (0, g.val)]
  | .bfx d a b g => putFields 0x06000000 [(16, d.val), (10, a.val), (4, b.val), (0, g.val)]
  | .bfxs d a b g => putFields 0x06400000 [(16, d.val), (10, a.val), (4, b.val), (0, g.val)]
  | .bfi d a b g => putFields 0x06800000 [(16, d.val), (10, a.val), (4, b.val), (0, g.val)]
  | .clz d a g => putFields 0x06C00000 [(16, d.val), (10, a.val), (0, g.val)]
  | .ctz d a g => putFields 0x07000000 [(16, d.val), (10, a.val), (0, g.val)]
  | .popc d a g => putFields 0x07400000 [(16, d.val), (10, a.val), (0, g.val)]
  | .bswap d a g => putFields 0x07800000 [(16, d.val), (10, a.val), (0, g.val)]
  | .mov d a g => putFields 0x07C00000 [(16, d.val), (10, a.val), (0, g.val)]
  | .fadd d a b g => putFields 0x08000000 [(16, d.val), (10, a.val), (4, b.val), (0, g.val)]
  | .fsub d a b g => putFields 0x08400000 [(16, d.val), (10, a.val), (4, b.val), (0, g.val)]
  | .fmul d a b g => putFields 0x08800000 [(16, d.val), (10, a.val), (4, b.val), (0, g.val)]
  | .fmin d a b g => putFields 0x08C00000 [(16, d.val), (10, a.val), (4, b.val), (0, g.val)]
  | .fmax d a b g => putFields 0x09000000 [(16, d.val), (10, a.val), (4, b.val), (0, g.val)]
  | .ffma d a b g => putFields 0x09400000 [(16, d.val), (10, a.val), (4, b.val), (0, g.val)]
  | .fcvt d a s t g => putFields 0x09800000 [(16, d.val), (10, a.val), (7, scalarTyCode s), (4, scalarTyCode t), (0, g.val)]
  | .addi d a i => putFields 0x10000000 [(18, d.val), (12, a.val), (0, i.toNat)]
  | .andi d a i => putFields 0x11000000 [(18, d.val), (12, a.val), (0, i.toNat)]
  | .ori d a i => putFields 0x12000000 [(18, d.val), (12, a.val), (0, i.toNat)]
  | .xori d a i => putFields 0x13000000 [(18, d.val), (12, a.val), (0, i.toNat)]
  | .shli d a s => putFields 0x14000000 [(18, d.val), (12, a.val), (0, s.val)]
  | .shri d a s => putFields 0x15000000 [(18, d.val), (12, a.val), (0, s.val)]
  | .sari d a s => putFields 0x16000000 [(18, d.val), (12, a.val), (0, s.val)]
  | .muli d a i => putFields 0x17000000 [(18, d.val), (12, a.val), (0, i.toNat)]
  | .mini d a i => putFields 0x18000000 [(18, d.val), (12, a.val), (0, i.toNat)]
  | .maxi d a i => putFields 0x19000000 [(18, d.val), (12, a.val), (0, i.toNat)]
  | .li d i => putFields 0x1A000000 [(18, d.val), (0, i.toNat)]
  | .lish d i => putFields 0x1B000000 [(18, d.val), (0, i.toNat)]
  | .br o => putFields 0x20000000 [(0, o.toNat)]
  | .brp n p o => putFields 0x21000000 [(23, bitN n), (17, p.val), (0, o.toNat)]
  | .brq n o => putFields 0x22000000 [(23, bitN n), (0, o.toNat)]
  | .jr a => putFields 0x23000000 [(18, a.val)]
  | .call d o => putFields 0x24000000 [(18, d.val), (0, o.toNat)]
  | .callr d a => putFields 0x25000000 [(18, d.val), (12, a.val)]
  | .ret a => putFields 0x26000000 [(18, a.val)]
  | .loop c a t => putFields 0x27000000 [(22, c.val), (16, a.val), (0, t.toNat)]
  | .loopi c n t => putFields 0x28000000 [(22, c.val), (12, n.toNat), (0, t.toNat)]
  | .loopr c a v p t => putFields 0x29000000 [(22, c.val), (16, a.val), (15, bitN v), (14, bitN p), (0, t.toNat)]
  | .cmp k p a b => putFields 0x2A000000 [(20, condCode k), (14, p.val), (8, a.val), (2, b.val)]
  | .cmpi k p a i => putFields 0x2B000000 [(20, condCode k), (14, p.val), (8, a.val), (0, i.toNat)]
  | .plog d a b t => putFields 0x2C000000 [(18, d.val), (12, a.val), (6, b.val), (2, t.toNat)]
  | .nop => 0x2D000000
  | .ld d a z x o => putFields 0x30000000 [(17, d.val), (11, a.val), (8, sizeCode z), (7, bitN x), (0, o.toNat)]
  | .st b a z o => putFields 0x30800000 [(17, b.val), (11, a.val), (8, sizeCode z), (0, o.toNat)]
  | .ldq q a z x o => putFields 0x31000000 [(19, q.val), (13, a.val), (10, sizeCode z), (9, bitN x), (0, o.toNat)]
  | .qpush q a => putFields 0x31800000 [(19, q.val), (13, a.val)]
  | .qpop q d => putFields 0x32000000 [(19, q.val), (13, d.val)]
  | .qpeek q d => putFields 0x32800000 [(19, q.val), (13, d.val)]
  | .qcnt q d => putFields 0x33000000 [(19, q.val), (13, d.val)]
  | .qpushb p n => putFields 0x33800000 [(13, p.val), (12, bitN n)]
  | .agdef g a => putFields 0x34000000 [(18, g.val), (12, a.val)]
  | .agset g a f => putFields 0x34800000 [(18, g.val), (12, a.val), (5, f.toNat)]
  | .agadv g a k => putFields 0x35000000 [(18, g.val), (12, a.val), (8, k.val)]
  | .agld g q => putFields 0x35800000 [(18, g.val), (14, q.val)]
  | .aggath g q a => putFields 0x36000000 [(18, g.val), (14, q.val), (8, a.val)]
  | .pgref d a => putFields 0x36800000 [(17, d.val), (11, a.val)]
  | .cmdw r a => putFields 0x37000000 [(21, ringCode r), (15, a.val)]
  | .cmdpub r => putFields 0x37800000 [(21, ringCode r)]
  | .wpwait c a => putFields 0x38000000 [(22, chanCode c), (16, a.val)]
  | .vld d a b => putFields 0x38800000 [(15, d.val), (9, a.val), (3, b.val)]
  | .vst v a b => putFields 0x39000000 [(15, vopCode v), (9, a.val), (3, b.val)]
  | .vldx d a i => putFields 0x39800000 [(15, d.val), (9, a.val), (1, vopCode i)]
  | .vextr d v b => putFields 0x3A000000 [(17, d.val), (9, vopCode v), (3, b.val)]
  | .vins d a b => putFields 0x3A800000 [(15, d.val), (9, a.val), (3, b.val)]
  | .vshape r l t u => putFields 0x3B000000 [(18, r.val), (13, l.val), (9, t.val), (5, u.val)]
  | .vtap v s => putFields 0x3B800000 [(15, vopCode v), (12, s.val)]
  | .vmaskrow d a => putFields 0x3C000000 [(15, d.val), (9, a.val)]
  | .vadd d a b => putFields 0x40000000 [(16, d.val), (8, vopCode a), (0, vopCode b)]
  | .vsub d a b => putFields 0x41000000 [(16, d.val), (8, vopCode a), (0, vopCode b)]
  | .vmul d a b => putFields 0x42000000 [(16, d.val), (8, vopCode a), (0, vopCode b)]
  | .vfma d a b => putFields 0x43000000 [(16, d.val), (8, vopCode a), (0, vopCode b)]
  | .vfms d a b => putFields 0x44000000 [(16, d.val), (8, vopCode a), (0, vopCode b)]
  | .vmin d a b => putFields 0x45000000 [(16, d.val), (8, vopCode a), (0, vopCode b)]
  | .vmax d a b => putFields 0x46000000 [(16, d.val), (8, vopCode a), (0, vopCode b)]
  | .vabsd d a b => putFields 0x47000000 [(16, d.val), (8, vopCode a), (0, vopCode b)]
  | .vand d a b => putFields 0x48000000 [(16, d.val), (8, vopCode a), (0, vopCode b)]
  | .vor d a b => putFields 0x49000000 [(16, d.val), (8, vopCode a), (0, vopCode b)]
  | .vxor d a b => putFields 0x4A000000 [(16, d.val), (8, vopCode a), (0, vopCode b)]
  | .vandn d a b => putFields 0x4B000000 [(16, d.val), (8, vopCode a), (0, vopCode b)]
  | .vshl d a b => putFields 0x4C000000 [(16, d.val), (8, vopCode a), (0, vopCode b)]
  | .vshr d a b => putFields 0x4D000000 [(16, d.val), (8, vopCode a), (0, vopCode b)]
  | .vsar d a b => putFields 0x4E000000 [(16, d.val), (8, vopCode a), (0, vopCode b)]
  | .vsel d a b => putFields 0x4F000000 [(16, d.val), (8, vopCode a), (0, vopCode b)]
  | .vcmpeq d a b => putFields 0x50000000 [(16, d.val), (8, vopCode a), (0, vopCode b)]
  | .vcmpne d a b => putFields 0x51000000 [(16, d.val), (8, vopCode a), (0, vopCode b)]
  | .vcmplt d a b => putFields 0x52000000 [(16, d.val), (8, vopCode a), (0, vopCode b)]
  | .vcmple d a b => putFields 0x53000000 [(16, d.val), (8, vopCode a), (0, vopCode b)]
  | .vunMov d a => putFields 0x54000000 [(16, d.val), (8, vopCode a)]
  | .vunNeg d a => putFields 0x54000001 [(16, d.val), (8, vopCode a)]
  | .vunAbs d a => putFields 0x54000002 [(16, d.val), (8, vopCode a)]
  | .vunNot d a => putFields 0x54000003 [(16, d.val), (8, vopCode a)]
  | .vunCvt d a => putFields 0x54000004 [(16, d.val), (8, vopCode a)]
  | .vunExp d a => putFields 0x54000005 [(16, d.val), (8, vopCode a)]
  | .vunExp2 d a => putFields 0x54000006 [(16, d.val), (8, vopCode a)]
  | .vunLog2 d a => putFields 0x54000007 [(16, d.val), (8, vopCode a)]
  | .vunRcp d a => putFields 0x54000008 [(16, d.val), (8, vopCode a)]
  | .vunRsq d a => putFields 0x54000009 [(16, d.val), (8, vopCode a)]
  | .vunSqrt d a => putFields 0x5400000A [(16, d.val), (8, vopCode a)]
  | .vunTanh d a => putFields 0x5400000B [(16, d.val), (8, vopCode a)]
  | .vunSigm d a => putFields 0x5400000C [(16, d.val), (8, vopCode a)]
  | .vunErf d a => putFields 0x5400000D [(16, d.val), (8, vopCode a)]
  | .vunClz d a => putFields 0x5400000E [(16, d.val), (8, vopCode a)]
  | .vunPopc d a => putFields 0x5400000F [(16, d.val), (8, vopCode a)]
  | .vunIota d => putFields 0x54000010 [(16, d.val)]
  | .vunPack d a => putFields 0x54000011 [(16, d.val), (8, vopCode a)]
  | .vunUnpk d a => putFields 0x54000012 [(16, d.val), (8, vopCode a)]
  | .vred d a x o => putFields 0x55000000 [(16, d.val), (8, vopCode a), (6, axisCode x), (3, redOpCode o)]
  | .vscan d a x o => putFields 0x56000000 [(16, d.val), (8, vopCode a), (6, axisCode x), (3, redOpCode o)]
  | .vshli d a s => putFields 0x57000000 [(16, d.val), (8, vopCode a), (0, s.val)]
  | .vshri d a s => putFields 0x58000000 [(16, d.val), (8, vopCode a), (0, s.val)]
  | .vsari d a s => putFields 0x59000000 [(16, d.val), (8, vopCode a), (0, s.val)]
  | .vbfx d a b => putFields 0x5A000000 [(16, d.val), (8, vopCode a), (0, vopCode b)]
  | .vfsh d a b => putFields 0x5B000000 [(16, d.val), (8, vopCode a), (0, vopCode b)]
  | .vlut d a b => putFields 0x5C000000 [(16, d.val), (8, vopCode a), (0, vopCode b)]
  | .vsplat d x => putFields 0x5D000000 [(16, d.val), (8, x.val)]
  | .vquant d a b => putFields 0x5E000000 [(16, d.val), (8, vopCode a), (0, vopCode b)]
  | .vdeq d a b => putFields 0x5F000000 [(16, d.val), (8, vopCode a), (0, vopCode b)]
  | .semwait t s => putFields 0x60000000 [(17, t.val), (11, s.val)]
  | .semwaitb t s => putFields 0x60800000 [(17, t.val), (11, s.val)]
  | .semsigLocal a s => putFields 0x61000000 [(17, a.val), (5, s.val)]
  | .semsigRemote a b => putFields 0x61000000 [(17, a.val), (11, b.val)]
  | .semsetLocal a s => putFields 0x61800000 [(17, a.val), (5, s.val)]
  | .semsetRemote a b => putFields 0x61800000 [(17, a.val), (11, b.val)]
  | .semrdLocal d s => putFields 0x62000000 [(17, d.val), (5, s.val)]
  | .semrdRemote d b => putFields 0x62000000 [(17, d.val), (11, b.val)]
  | .tokpop s => putFields 0x62800000 [(22, sideCode s)]
  | .tokpush s => putFields 0x63000000 [(22, sideCode s)]
  | .fence b a => putFields 0x63800000 [(14, b.toNat), (5, a.toNat)]
  | .acq m t b => putFields 0x64000000 [(14, m.toNat), (8, t.val), (2, b.val)]
  | .rel m a b => putFields 0x64800000 [(14, m.toNat), (8, a.val), (2, b.val)]
  | .bind k a => putFields 0x65000000 [(18, k.val), (12, a.val)]
  | .sdrain => 0x65800000
  | .aballoc d n => putFields 0x66000000 [(17, d.val), (8, n.toNat)]
  | .abfree a n => putFields 0x66800000 [(17, a.val), (8, n.toNat)]
  | .rngdrawRaw d a => putFields 0x67000000 [(17, d.val), (11, a.val)]
  | .rngdrawUnit d a => putFields 0x67000100 [(17, d.val), (11, a.val)]
  | .rngskip a b => putFields 0x67800000 [(17, a.val), (11, b.val)]
  | .trap i => putFields 0x74000000 [(0, i.toNat)]
  | .rett => 0x74200000
  | .termg => 0x74400000
  | .exit => 0x74600000
  | .yield => 0x74800000
  | .ctxsw => 0x74A00000
  | .rdcr d c => putFields 0x74C00000 [(15, d.val), (8, c.val)]
  | .wrcr a c => putFields 0x74E00000 [(15, a.val), (8, c.val)]
  | .bkpt i => putFields 0x75000000 [(0, i.toNat)]
  | .frqpop d => putFields 0x75200000 [(15, d.val)]
  | .rowmask a => putFields 0x75400000 [(15, a.val)]
  | .modifier m => encodeModifier m
  | _ => 0

/-- A sequencer word with its E (R97); a modifier's E is always 0. -/
def encodeWord (e : Bool) (i : Instr) : Nat := encodeBody i + bitN e * 2 ^ 31

/-- The CMDOP, header and own arguments of a command (R117). -/
def commandParts : Instr → Option (StepEngine × Nat × CmdHdr × List Lane)
  | .mnop h => some (.me, 0x0, h, [])
  | .mma h a0 a1 a2 => some (.me, 0x1, h, [a0, a1, a2])
  | .mmar h a0 a1 a2 a3 => some (.me, 0x2, h, [a0, a1, a2, a3])
  | .mzero h a0 => some (.me, 0x3, h, [a0])
  | .anchor h a0 => some (.me, 0x4, h, [a0])
  | .resolve h a0 a1 => some (.me, 0x5, h, [a0, a1])
  | .drain h a0 a1 => some (.me, 0x6, h, [a0, a1])
  | .topk h a0 a1 => some (.me, 0x7, h, [a0, a1])
  | .acccmp h a0 a1 => some (.me, 0x8, h, [a0, a1])
  | .accspill h a0 a1 => some (.me, 0x9, h, [a0, a1])
  | .accfill h a0 a1 => some (.me, 0xA, h, [a0, a1])
  | .accmov h a0 a1 => some (.me, 0xB, h, [a0, a1])
  | .accadd h a0 a1 => some (.me, 0xC, h, [a0, a1])
  | .epcfg h a0 a1 => some (.me, 0xD, h, [a0, a1])
  | .msig h a0 => some (.me, 0xE, h, [a0])
  | .cnop h => some (.channel, 0x0, h, [])
  | .copy h a0 => some (.channel, 0x1, h, [a0])
  | .gather h a0 a1 => some (.channel, 0x2, h, [a0, a1])
  | .scatter h a0 a1 => some (.channel, 0x3, h, [a0, a1])
  | .fill h a0 a1 => some (.channel, 0x4, h, [a0, a1])
  | .accw h a0 => some (.channel, 0x5, h, [a0])
  | .fetchop h a0 a1 => some (.channel, 0x6, h, [a0, a1])
  | .cas h a0 a1 => some (.channel, 0x7, h, [a0, a1])
  | .csig h a0 => some (.channel, 0x8, h, [a0])
  | .pagein h a0 => some (.tender, 0x9, h, [a0])
  | .pageout h a0 => some (.tender, 0xA, h, [a0])
  | _ => none

/-- The header word of a command with `n` argument words (R116). -/
def encodeHeader (op n : Nat) (h : CmdHdr) : Nat :=
  op * 2 ^ 26 + n * 2 ^ 23 + h.await.val * 2 ^ 17 + amodeCode h.amode * 2 ^ 15 + h.raise.val * 2 ^ 9 + bitN h.re * 2 ^ 8
    + bitN h.popL * 2 ^ 7 + bitN h.popR * 2 ^ 6 + bitN h.pushL * 2 ^ 5 + bitN h.pushR * 2 ^ 4 + bitN h.mig * 2 ^ 3
    + bitN h.lin * 2 ^ 2

/-- The argument words of a command: its own, the threshold word and the lineage word (R116). -/
def encodeArgs (h : CmdHdr) (own : List Lane) : List Lane :=
  own ++ (if h.amode = .none then [] else [h.thr]) ++ (if h.lin then [h.linw] else [])

/-- The words of an instruction: one sequencer word with E = 1 (E = 0 for a modifier), or a command's header and arguments. An
event has no words. -/
def encode (i : Instr) : List Nat :=
  match commandParts i with
  | some (_, op, h, own) =>
    encodeHeader op (encodeArgs h own).length h :: (encodeArgs h own).map BitVec.toNat
  | none => if i.isWord then [encodeWord (!i.isModifier) i] else []

end Sys2Proof
end

