-- ==== Sys2Proof/Machine/State.lean ====
section
/-! DEFINITION. The state of the machine: one package of 512 cores, as plain data. Every piece of state that the spec names is
a field here; INVENTORY.md lists them with the rule that names each. The model's own fields are marked. -/

namespace Sys2Proof.Machine

/-! ## Tables -/

/-- A sparse table: entries in rising order of their key. A key that is not listed holds the default. -/
abbrev Tab (α : Type) := List (Nat × α)

/-- The value at a key, or the default. -/
def Tab.get {α : Type} (d : α) : Tab α → Nat → α
  | [], _ => d
  | (k, v) :: rest, i => if i = k then v else Tab.get d rest i

/-- The table without a key. -/
def Tab.del {α : Type} (t : Tab α) (i : Nat) : Tab α := t.filter fun e => e.1 != i

/-- The table with a key's value set; setting the default removes the key. -/
def Tab.set {α : Type} [DecidableEq α] (d : α) : Tab α → Nat → α → Tab α
  | [], i, x => if x = d then [] else [(i, x)]
  | (k, v) :: rest, i, x =>
    if i < k then (if x = d then (k, v) :: Tab.del rest i else (i, x) :: (k, v) :: rest)
    else if i = k then (if x = d then Tab.del rest i else (i, x) :: rest)
    else (k, v) :: Tab.set d rest i x

/-- The canonical form of a table: keys strictly rising from `lo`, and no entry equal to the default. -/
def Tab.okFrom {α : Type} [DecidableEq α] (d : α) : Nat → Tab α → Bool
  | _, [] => true
  | lo, (k, v) :: rest => lo ≤ k && v != d && Tab.okFrom d (k + 1) rest

/-- Memory: bytes by key, rising and without the zero that an unlisted byte reads as. The keys are given in Ops. -/
abbrev Memory := List Host.Cell

/-- What a byte that nothing has written reads as: zero (log entry 2). -/
def Memory.unlisted : Byte := 0

/-- The canonical form of a memory. -/
def Memory.wf (m : Memory) : Bool := Tab.okFrom Memory.unlisted 0 m

/-! ## Sequencers -/

/-- The two sequencers of a core (R68). -/
inductive Side2 where
  | as | xs
  deriving DecidableEq, Repr

/-- The engines of a core, in the coding of R352. -/
inductive Eng where
  | as | xs | me | ch0 | ch1 | sector | none
  deriving DecidableEq, Repr

/-- The memory paths (R295). -/
inductive Path where
  | xst | xld | ald | me | ch0 | ch1 | tap | host | tender
  deriving DecidableEq, Repr

/-- One 32-bit lane to be written under a bit mask: the lane's key is register × 1,024 + row × 32 + lane. -/
structure LaneWrite where
  key : Nat
  mask : Lane
  val : Lane
  deriving DecidableEq, Repr

/-- The stream of a row (R325). -/
structure RngState where
  s0 : Word
  s1 : Word
  s2 : Word
  s3 : Word
  deriving DecidableEq, Repr

/-- Where a pending result goes (R85, R365); predicate and vector registers are physical (R141). -/
inductive Dest where
  | x (r : RegNum)
  | p (r : RegNum)
  | v (lanes : List LaneWrite)
  | decide (site : Fin 8) (first rows : Nat)
  | rng (row : Nat) (st : RngState) (count : Word)
  | cr (n : Nat)
  deriving DecidableEq, Repr

/-- A pending result: its issue cycle of writing, the issue order, RETIRED and the PC of its group, and what it writes (R85, R365). -/
structure Pend where
  due : Nat
  ord : Nat
  ret : Nat
  pc : BitVec 32
  dest : Dest
  val : Word
  flags : BitVec 8
  ten : BitVec 5
  deriving DecidableEq, Repr

/-- A loop record (R139), with the order in which loops were started (R141) and whether a handler started it (R343). -/
structure LoopRec where
  start : BitVec 32
  stop : BitVec 32
  total : BitVec 32
  kernel : BitVec 32
  rv : Bool
  rp : Bool
  active : Bool
  order : Nat
  handler : Bool
  deriving DecidableEq, Repr

/-- A loop record that swap-in has cleared. -/
def LoopRec.clear : LoopRec :=
  { start := 0, stop := 0, total := 0, kernel := 0, rv := false, rp := false, active := false, order := 0, handler := false }

/-- The state of a remote SEMRD or of a remote wait of a sequencer (R287, R290): a satisfied wait keeps the issuer of the step that
its sample saw (R385). -/
inductive Remote where
  | idle
  | sent (no : Nat)
  | answered (v : BitVec 32)
  | satisfied (eng : Eng) (core : CoreId)
  deriving DecidableEq, Repr

/-- One sequencer (R68 to R71, R78, R84, R139). `mod`, `grpStart`, `raw`, `idx`, `took` and `passed` are the model's own: the
modifier that applies to the next word of the group in issue, the offset of that group's first word, the word in issue with its
index in the group, whether the group has made a taken transfer, and whether it has passed the checks and waits of its issue.
`divDue` is the cycle in which the divider's result is written (R130), and `askNo` numbers the sequencer's requests to other cores,
so that an answer is taken by the wait that asked for it alone (R290). The word that waits is the `waitIdx`-th of its group, and
`waitFrom` is the part of `waited` that earlier wait records hold (R383). -/
structure Seq where
  x : Vector Word 64
  p : Vector Bool 64
  pc : BitVec 32
  prb : Fin 32
  lc : Vector (BitVec 32) 4
  loops : Vector LoopRec 4
  loopOrder : Nat
  pend : List Pend
  ic : Nat
  bubble : Nat
  waited : Nat
  waitFrom : Nat
  waitKind : Nat
  waitObj : Nat
  waitIdx : Nat
  remote : Remote
  exited : Bool
  divDue : Nat
  askNo : Nat
  mod : Option Modifier
  grpStart : BitVec 32
  raw : BitVec 32
  idx : Nat
  took : Bool
  passed : Bool
  deriving DecidableEq, Repr

/-- A sequencer as swap-in without RESUME leaves it, its PC apart (R71, R78, R139). -/
def Seq.fresh : Seq :=
  { x := Vector.replicate 64 0, p := (Vector.replicate 64 false).set 0 true, pc := 0, prb := 0, lc := Vector.replicate 4 0,
    loops := Vector.replicate 4 LoopRec.clear, loopOrder := 0, pend := [], ic := 0, bubble := 0, waited := 0, waitFrom := 0,
    waitKind := 0, waitObj := 0, waitIdx := 0, remote := .idle, exited := false, divDue := 0, askNo := 0, mod := none,
    grpStart := 0, raw := 0, idx := 0, took := false, passed := false }

/-! ## Queues, semaphores, tokens -/

/-- A queue entry (R75, R154): its value once present, the cycle in which it became available, the hidden record tag of Q13
(R324), and the number of the AS read that fills it. -/
structure QEntry where
  val : Word
  ready : Bool
  born : Nat
  tag : Option Nat
  fill : Nat
  deriving DecidableEq, Repr

/-- A queue, oldest entry first, with the cycle of the last pop (R75). -/
structure Queue where
  entries : List QEntry
  lastPop : Option Nat
  deriving DecidableEq, Repr

/-- An empty queue. -/
def Queue.empty : Queue := { entries := [], lastPop := none }

/-- A semaphore update (R285). -/
inductive SemUpd where
  | add (v : BitVec 32)
  | set (v : BitVec 32)
  deriving DecidableEq, Repr

/-- One step on a semaphore, with its place in the order of R285 and its issuer (R385). -/
structure SemStep where
  rank : Nat
  upd : SemUpd
  eng : Eng
  core : CoreId
  deriving DecidableEq, Repr

/-- A semaphore (R76, R285): its value before cycle `at_`, the steps of that cycle in the order of R285, and the steps of the last cycle
before it that made any, with the value before them. -/
structure Sem where
  base : BitVec 32
  at_ : Nat
  ups : List SemStep
  pre : BitVec 32
  last : List SemStep
  deriving DecidableEq, Repr

/-- A semaphore at zero. -/
def Sem.zero : Sem := { base := 0, at_ := 0, ups := [], pre := 0, last := [] }

/-- A token (R76, R292): in the FIFO since a cycle, or a place reserved until the stores numbered below `upTo` are performed. -/
inductive Token where
  | ready (born : Nat)
  | reserved (upTo : Nat)
  deriving DecidableEq, Repr

/-- A token FIFO with the cycle of its last pop. -/
structure Fifo where
  toks : List Token
  lastPop : Option Nat
  deriving DecidableEq, Repr

/-- An empty token FIFO. -/
def Fifo.empty : Fifo := { toks := [], lastPop := none }

/-- A semaphore of the package: the core that holds it and its number, and whether a SPAN name gave it (R286, R289). -/
structure SemName where
  core : CoreId
  num : Fin 64
  span : Bool
  deriving DecidableEq, Repr

/-- The accesses that precede a sequencer word on the paths of a mask (R295): the stores and AS reads numbered below a bound,
and the commands whose headers lay below the rings' publish counts. -/
structure Before where
  mask : BitVec 9
  stores : Nat
  reads : Nat
  me : BitVec 32
  ch0 : BitVec 32
  ch1 : BitVec 32
  deriving DecidableEq, Repr

/-- A release, or a signal ordered behind one, that has not been made (R296, R298): its semaphore, its update, who issued it,
what precedes it, and the bound regions as address ranges. -/
structure Release where
  obj : SemName
  upd : SemUpd
  issuer : Eng
  before : Before
  covers : List (Word × Nat)
  deriving DecidableEq, Repr

/-- A FENCE that still holds back engine commands (R300). -/
structure Fence where
  before : Before
  after : BitVec 9
  deriving DecidableEq, Repr

/-! ## Memory operations in flight -/

/-- An XS store-queue entry (R232): the rows of bytes it writes with the address of each, and what its check needs. -/
structure StoreEntry where
  no : Nat
  due : Nat
  pc : BitVec 32
  grp : Nat
  vec : Bool
  blk : Nat
  win : Option Nat
  rows : List (Word × List Byte)
  deriving DecidableEq, Repr

/-- The bytes that a store entry writes, with the address of each. -/
def StoreEntry.bytes (e : StoreEntry) : List (Word × Byte) :=
  e.rows.flatMap fun r => ((List.range r.2.length).zip r.2).map fun b => (r.1 + BitVec.ofNat 64 b.1, b.2)

/-- What a PGREF that has hit keeps until it takes its slot (R223): the page, the slot that LASTSLOT has come to, and the cycles that it has
waited for that slot, of which earlier wait records hold `from_` (R383). -/
structure PgHit where
  gpn : Nat
  sram : Bool
  loc : Word
  vlen : Nat
  shared : Bool
  slot : Fin 256
  waited : Nat
  from_ : Nat
  deriving DecidableEq, Repr

/-- A stretch of a handle footprint as translated at the CMDW (R217, R242), or at the issue of a read of the AS (R217, R218): addresses from `lo`, `len` bytes, at memory key `key`. -/
structure Piece where
  lo : Word
  len : Nat
  key : Nat
  deriving DecidableEq, Repr

/-- A read of the AS that has not returned (R152, R236, R239), or a PGREF that has not its result (R223), with its number, the
cycle and group of its issue, RETIRED then (R365), and its handle's translation then (R218). -/
inductive AsRead where
  | queue (no : Nat) (born : Nat) (pc : BitVec 32) (ret : Nat) (q : Fin 8) (addr : Word) (bitOff bits : Nat) (sx : Bool)
      (ps : List Piece)
  | stream (no : Nat) (born : Nat) (pc : BitVec 32) (ret : Nat) (ag : Fin 32) (addr : Word) (ps : List Piece)
  | pgref (no : Nat) (born : Nat) (pc : BitVec 32) (d : RegNum) (addr : Word) (hit : Option PgHit)
  deriving DecidableEq, Repr

/-- A store-fault record (R349, R350). -/
structure FaultRec where
  addr : Word
  vec : Bool
  blk : Nat
  cause : Nat
  pc : BitVec 32
  grp : Nat
  deriving DecidableEq, Repr

/-- A slot of the slot table (R223); `user` is the engine whose command last gave it up (R385). -/
structure Slot where
  gen : Fin 256
  held : Bool
  row : Nat
  page : Nat
  gpn : Nat
  sram : Bool
  loc : Word
  vlen : Nat
  hm : Nat
  shared : Bool
  user : Eng
  deriving DecidableEq, Repr

/-- An empty slot. -/
def Slot.empty : Slot :=
  { gen := 0, held := false, row := 0, page := 0, gpn := 0, sram := false, loc := 0, vlen := 0, hm := 0, shared := false,
    user := .none }

/-! ## Rings and their commands -/

/-- An operand record of a ring (R242): what the CMDW captured. -/
structure OpRecord where
  tag : BitVec 16
  src : Option (Vector Word 16)
  dst : Option (Vector Word 16)
  opt : BitVec 8
  pieces : List Piece
  slots : List (Fin 256)
  deriving DecidableEq, Repr

/-- Where a command is in its engine's queue (R116, R261). A command of the ME that is starting has taken its await and pops; its
start checks follow once the XS group of that cycle has issued (R258). -/
inductive CmdPhase where
  | queued
  | starting
  | running
  | done
  deriving DecidableEq, Repr

/-- A command in an engine's queue: the instruction, its header's ring PC, the records it holds, whether it was squashed (R333),
its progress and its wait count. `first` and `total` are its delivery counts (R250), of which those below `skip` were delivered before a
restore (R358); `posts` the records that a TOPK has still to write and push (R278), and `row` the row that the last index of a GATHER or
SCATTER chose, if it is to be kept. Its wait has a kind and an object, and `waitFrom` is the part of `waited` that earlier wait records hold
(R383). Of a command of the ME, `cycles` is its time of R282 and `left` how many cycles the step that it has begun still takes;
while it is starting, `migrated` says that it is to move to a guest if it may (R280). -/
structure Cmd where
  instr : Instr
  hdrPc : BitVec 32
  recs : List (Fin 64)
  squashed : Bool
  phase : CmdPhase
  progress : Nat
  units : Nat
  first : Nat
  total : Nat
  waited : Nat
  waitFrom : Nat
  waitKind : Nat
  waitObj : Nat
  added : Bool
  migrated : Bool
  posts : List QEntry
  row : Option Nat
  skip : Nat
  cycles : Nat
  left : Nat
  deriving DecidableEq, Repr

/-- A command ring and its engine's queue (R70, R96, R241, R242, R250). `openHdr` is the header of the command that is
open, with its arguments and their records so far (R241). `doneAt` is the first cycle after its last command's completion. -/
structure RingState where
  base : Nat
  log2n : Nat
  pc : BitVec 32
  pub : BitVec 32
  cursor : BitVec 32
  openHdr : Option (BitVec 32)
  openArgs : List (BitVec 32)
  openRecs : List (Fin 64)
  records : Vector (Option OpRecord) 64
  queue : List Cmd
  wp : Nat
  owned : Nat
  doneAt : Nat
  landed : List (Nat × Nat)
  deriving DecidableEq, Repr

/-- A ring as swap-in without RESUME leaves it, its place apart. -/
def RingState.fresh : RingState :=
  { base := 0, log2n := 4, pc := 0, pub := 0, cursor := 0, openHdr := none, openArgs := [], openRecs := [],
    records := Vector.replicate 64 none, queue := [], wp := 0, owned := 0, doneAt := 0, landed := [] }

/-! ## The matrix engine -/

/-- The state of an accumulator bank with its CTYPE (R255): a REDUNDANT bank keeps the CTYPE that an ACCFILL image gave it (R272). -/
inductive BankStatus where
  | free
  | redundant (ctype : Fin 3)
  | canonical (ctype : Fin 3)
  deriving DecidableEq, Repr

/-- A bank's state word (R173). -/
structure TileState where
  rowInv : BitVec 64
  colInv : BitVec 48
  anchor : Int
  aset : Bool
  aovf : Bool
  deriving DecidableEq, Repr

/-- The state word that ABALLOC and MZERO write. -/
def TileState.zero : TileState := { rowInv := 0, colInv := 0, anchor := 0, aset := false, aovf := false }

/-- A bank beside its elements (R255): status, state word, the mark that something has been written into it since it was
zeroed (R256), and the mark that it is lent to a guest engine (R280). -/
structure Bank where
  status : BankStatus
  tile : TileState
  written : Bool
  lent : Bool
  deriving DecidableEq, Repr

/-- A free bank. -/
def Bank.free : Bank := { status := .free, tile := TileState.zero, written := false, lent := false }

/-- The configuration registers of the epilogue (R275). -/
structure Epilogue where
  ctl : BitVec 6
  rsAddr : Nat
  biasAddr : Nat
  clampLo : Lane
  clampHi : Lane
  row0 : Nat
  tok0 : Nat
  idBase : Lane
  tkCap : Nat
  heaps : Tab (List (Lane × Lane))
  deriving DecidableEq, Repr

/-- The reset values of R275. -/
def Epilogue.reset : Epilogue :=
  { ctl := 0, rsAddr := 0, biasAddr := 0, clampLo := 0xFF800000#32, clampHi := 0x7F800000#32, row0 := 0, tok0 := 0, idBase := 0,
    tkCap := 64, heaps := [] }

/-! ## The Sector unit -/

/-- A tap site of a node (R306). -/
structure TapSite where
  layer : Nat
  d : Nat
  probeFirst : Bool
  post : Bool
  sslot : Nat
  deriving DecidableEq, Repr

/-- A probe entry in the snapshot of a row group (R308, R310). -/
structure Probe where
  idx : Nat
  below : Bool
  bf16 : Bool
  waddr : Word
  bias : Lane
  thr : Lane
  deriving DecidableEq, Repr

/-- A row's binding at a site (R309); the steering entry with its index, and the row's probe set and coefficients. -/
structure TapBind where
  row : Nat
  site : Nat
  probeSet : BitVec 8
  coefs : Word
  probes : List Probe
  steer : Option (Nat × Bool × Word)
  coef : Lane
  deriving DecidableEq, Repr

/-- The rounded products of one token and one probe (R181, R315): the k-th is term k, none where no VTAP has passed it (R321). -/
structure Partial where
  site : Nat
  tok : Nat
  probe : Nat
  terms : List (Option Lane)
  deriving DecidableEq, Repr

/-- A site's state (R313); `ahead` is how many chunks are staged and not yet used (R312). -/
structure SiteState where
  chunk : Nat
  tcur : Nat
  e : Nat
  ahead : Nat
  deriving DecidableEq, Repr

/-- A site's state at swap-in. -/
def SiteState.zero : SiteState := { chunk := 0, tcur := 0, e := 0, ahead := 0 }

/-! ## Nodes and launches -/

/-- How a region is bound (R17). -/
inductive SyncKind where
  | none | sem | lock
  deriving DecidableEq, Repr

/-- A region-table entry (R17). -/
structure Region where
  base : Word
  extent : Nat
  read : Bool
  write : Bool
  sync : SyncKind
  addr : Word
  deriving DecidableEq, Repr

/-- A ring of a node descriptor (R16). -/
structure RingDesc where
  img : Nat
  log2n : Nat
  base : Nat
  pre : Nat
  deriving DecidableEq, Repr

/-- A node descriptor with its region table (R16, R17). -/
structure NodeDesc where
  code : Word
  xsEntry : Nat
  asEntry : Nat
  me : RingDesc
  ch0 : RingDesc
  ch1 : RingDesc
  vregs : Nat
  banks : Nat
  parts : BitVec 4
  regions : List Region
  dlpol : Nat
  rowBudget : Nat
  dloff : Nat
  stages : Nat
  cps : Nat
  tapImg : Nat
  ntaps : Nat
  deriving DecidableEq, Repr

/-- A descriptor with every field zero but those that may not be. -/
def NodeDesc.blank : NodeDesc :=
  { code := 0, xsEntry := 0, asEntry := 0, me := ⟨0, 4, 0, 0⟩, ch0 := ⟨0, 4, 0, 0⟩, ch1 := ⟨0, 4, 0, 0⟩, vregs := 1, banks := 0,
    parts := 1, regions := [], dlpol := 0, rowBudget := 0, dloff := 0, stages := 1, cps := 1, tapImg := 0, ntaps := 0 }

/-- The shadow launch bank of a core (R62). -/
structure LaunchBank where
  valid : Bool
  resume : Bool
  node : BitVec 16
  graph : BitVec 32
  inst : BitVec 24
  pd : BitVec 12
  stage : BitVec 8
  slot : BitVec 8
  width : BitVec 8
  rowSrc : Word
  rowCount : Nat
  nstages : BitVec 8
  rowFirst : Nat
  desc : Word
  saveAddr : Word
  deriving DecidableEq, Repr

/-- A shadow bank at reset (R62). -/
def LaunchBank.empty : LaunchBank :=
  { valid := false, resume := false, node := 0, graph := 0, inst := 0, pd := 0, stage := 0, slot := 0, width := 0, rowSrc := 0,
    rowCount := 0, nstages := 0, rowFirst := 0, desc := 0, saveAddr := 0 }

/-- The row group that runs on a core: its bank, its node's descriptor and tap sites, where its rows lie, and the RLENs that its token
walk read at swap-in (R21, R62, R313). -/
structure Run where
  bank : LaunchBank
  desc : NodeDesc
  taps : List TapSite
  rowBase : Nat
  lens : List Nat
  deriving DecidableEq, Repr

/-- Why a row group stands still (R356, R359, R360). -/
inductive HaltKind where
  | preempt | yield
  deriving DecidableEq, Repr

/-- Handler mode (R343): the return point. -/
structure Handler where
  ret : BitVec 32
  deriving DecidableEq, Repr

/-- What a row group holds in its core: everything that a pre-emption saves and a RESUME restores (R357, R364). -/
structure Group where
  run : Option Run
  as_ : Seq
  xs : Seq
  v : List (Nat × Lane)
  shp : Word
  fcr : Word
  fsr : BitVec 8
  vrb : Fin 32
  trapVec : Word
  trapCause : BitVec 8
  trapInfo : Word
  budget : Nat
  win : Option Nat
  waitMax : Nat
  retired : Nat
  handler : Option Handler
  vaFree : Nat
  vbFree : Nat
  queues : Vector Queue 16
  sems : Vector Sem 64
  fifos : Vector Fifo 8
  binds : Tab (Option SemName)
  releases : List Release
  ags : Vector (Vector Word 16) 32
  asReads : List AsRead
  readNo : Nat
  slots : Tab Slot
  lastSlot : Fin 256
  me : RingState
  ch0 : RingState
  ch1 : RingState
  acc : List (Nat × AccElem)
  banks : Tab Bank
  held : Nat
  epi : Epilogue
  storeQ : List StoreEntry
  storeNo : Nat
  faultQ : List FaultRec
  faultLost : Bool
  fixedRows : List (Nat × Nat)
  trappedRows : List Nat
  sites : Vector SiteState 8
  tapTable : List TapBind
  partials : List Partial
  flagWord : BitVec 8
  lastPerf : List Eng
  fences : List Fence
  deriving DecidableEq, Repr

/-- The row-group state as swap-in without RESUME leaves it (R71 to R81, R223, R233, R241, R250, R255, R275, R313, R349). -/
def Group.fresh : Group :=
  { run := none, as_ := Seq.fresh, xs := Seq.fresh, v := [], shp := 0x82020100#64, fcr := 0, fsr := 0, vrb := 0, trapVec := 0,
    trapCause := 0, trapInfo := 0, budget := 0, win := none, waitMax := 0x01000000, retired := 0, handler := none,
    vaFree := 0, vbFree := 0, queues := Vector.replicate 16 Queue.empty, sems := Vector.replicate 64 Sem.zero,
    fifos := Vector.replicate 8 Fifo.empty, binds := [], releases := [],
    ags := Vector.replicate 32 (Vector.replicate 16 0), asReads := [], readNo := 0, slots := [], lastSlot := 255,
    me := RingState.fresh, ch0 := RingState.fresh, ch1 := RingState.fresh, acc := [], banks := [], held := 0, epi := Epilogue.reset,
    storeQ := [], storeNo := 0, faultQ := [], faultLost := false, fixedRows := [], trappedRows := [],
    sites := Vector.replicate 8 SiteState.zero, tapTable := [], partials := [], flagWord := 0, lastPerf := [], fences := [] }

/-! ## Messages between the wicks and the Lantern -/

/-- How a row group ended (R49, R63, R352, R361, R374). -/
inductive EndKind where
  | retired | yielded | terminated | notPlaced | notResumed
  deriving DecidableEq, Repr

/-- What ENDED reports of one row (R374, R375): its context, whether it is LIVE, the row-record fields, the fixed cut, and the
high marks of the slots that map its pages (R224). -/
structure RowReport where
  ctx : BitVec 32
  live : Bool
  accept : BitVec 32
  lineage : BitVec 32
  rlen : Nat
  pos : Nat
  rng : RngState
  count : Word
  cut : Option Nat
  marks : List (Nat × Nat)
  deriving DecidableEq, Repr

/-- What a ROWEVENT reports (R225, R318, R330, R331, R348): a page drop, or a row trap. -/
inductive RowHappening where
  | drop (page : Nat) (sram : Bool)
  | trap (cause : BitVec 8) (probe : BitVec 8) (site : BitVec 3) (pos : Nat) (score : Lane)
  deriving DecidableEq, Repr

/-- A message from a wick to the Lantern (R49). -/
inductive UpMsg where
  | started (core : CoreId) (inst : BitVec 24)
  | wdone (core : CoreId) (inst : BitVec 24) (cleared : Bool)
  | ended (core : CoreId) (inst : BitVec 24) (how : EndKind) (term : Word) (dump : BitVec 16) (flags : BitVec 8)
      (rows : List RowReport)
  | rowEvent (core : CoreId) (inst : BitVec 24) (ctx : BitVec 32) (what : RowHappening)
  | saved (core : CoreId) (inst : BitVec 24)
  deriving DecidableEq, Repr

/-- A message from the Lantern to a wick (R49). -/
inductive DownMsg where
  | stage (core : CoreId) (bank : LaunchBank)
  | withdraw (core : CoreId) (inst : BitVec 24)
  | preempt (cores : List CoreId) (inst : BitVec 24)
  | resume (core : CoreId) (bank : LaunchBank)
  deriving DecidableEq, Repr

/-- A message to a Tender (R227). -/
inductive TenderMsg where
  | hint (ctx : Nat) (wake : Word)
  | need (ctx : Nat) (page : Nat) (sram : Bool)
  | swapIn (ctx : Nat)
  | released (ctx : Nat)
  deriving DecidableEq, Repr

/-- A message from a Tender to the Lantern (R227). -/
inductive TenderReply where
  | resident (ctx : Nat)
  | swappedOut (ctx : Nat)
  | swappedIn (ctx : Nat)
  deriving DecidableEq, Repr

/-- One direction of a command link (R48): the permits that its sender has left, the messages that it has sent and that are not
consumed yet, and those that it holds for want of a permit, each oldest first. -/
structure Link (α : Type) where
  permits : Nat
  sent : List α
  held : List α
  deriving DecidableEq, Repr

/-- A channel at reset: sixteen permits (R48). -/
def Link.reset (α : Type) : Link α := { permits := 16, sent := [], held := [] }

/-- A message put on a channel: it spends a permit, and is held where there is none (R48). -/
def Link.send {α : Type} (l : Link α) (m : α) : Link α :=
  if l.permits = 0 then { l with held := l.held ++ [m] } else { l with permits := l.permits - 1, sent := l.sent ++ [m] }

/-- The receiver consumes the oldest message: its permit returns, and sends the first message held (R48). -/
def Link.consume {α : Type} (l : Link α) : Link α :=
  match l.sent, l.held with
  | [], _ => l
  | _ :: rest, [] => { l with permits := l.permits + 1, sent := rest }
  | _ :: rest, m :: more => { l with sent := rest ++ [m], held := more }

/-- One direction of a die's wake queue between the control plane and its Tender (R227): its messages, oldest first, and those that
their producers hold while it is full. Each has its place in the order of sending. -/
structure Wake (α : Type) where
  queue : List (Nat × α)
  held : List (Nat × α)
  deriving DecidableEq, Repr

/-- A wake queue at reset. -/
def Wake.reset (α : Type) : Wake α := { queue := [], held := [] }

/-- The entries of a wake queue (R227). -/
def wakeDepth : Nat := 4096

/-- A message put in a wake queue, or held by its producer while the queue is full or another is held (R227). -/
def Wake.put {α : Type} (w : Wake α) (no : Nat) (m : α) : Wake α :=
  if w.queue.length < wakeDepth && w.held.isEmpty then { w with queue := w.queue ++ [(no, m)] } else { w with held := w.held ++ [(no, m)] }

/-- The queue without its k-th message: the first that is held takes the room (R227). -/
def Wake.take {α : Type} (w : Wake α) (k : Nat) : Wake α :=
  match w.held with
  | [] => { w with queue := w.queue.eraseIdx k }
  | m :: rest => if k < w.queue.length then { queue := w.queue.eraseIdx k ++ [m], held := rest } else w

/-! ## Cores -/

/-- The owner tag of a scratchpad quarter (R214). -/
inductive Owner where
  | none
  | pd (d : BitVec 12)
  | tap
  | staging
  deriving DecidableEq, Repr

/-- What a semaphore access that its home holds is to do (R289): an update, or a remote SEMRD's reading for the request with a number of
a sequencer, of an instance of a PD. -/
inductive HeldAct where
  | update (u : SemUpd)
  | read (pd : BitVec 12) (side : Side2) (ask : Nat)
  deriving DecidableEq, Repr

/-- A semaphore access that its home holds until swap-in or restore (R289). -/
structure HeldSem where
  num : Fin 64
  inst : BitVec 24
  src : CoreId
  act : HeldAct
  issuer : Eng
  deriving DecidableEq, Repr

/-- Work that a guest engine does for a home engine (R280): the tile so far, the steps done with the cycles that the last still
takes, and the flags to be credited. -/
structure Guest where
  home : CoreId
  hdrPc : BitVec 32
  lead : Nat
  nbanks : Nat
  acc : List (Nat × AccElem)
  tile : TileState
  flags : BitVec 8
  progress : Nat
  left : Nat
  deriving DecidableEq, Repr

/-- The debug block of a core (R387). -/
structure Debug where
  bken : Bool
  cycen : Bool
  reten : Bool
  scope : Bool
  matchVal : Word
  dumpId : BitVec 16
  src : BitVec 3
  stopReq : Bool
  stopped : Bool
  deriving DecidableEq, Repr

/-- The debug block at reset (R387). -/
def Debug.reset : Debug :=
  { bken := false, cycen := false, reten := false, scope := false, matchVal := 0, dumpId := 0, src := 0, stopReq := false,
    stopped := false }

/-- The trace pool of a core (R383). -/
structure TracePool where
  base : Word
  size : Nat
  idx : Nat
  lost : Nat
  deriving DecidableEq, Repr

/-- One core: its row group, and what belongs to the core itself (R62, R69, R78, R214, R289, R356, R387). `haltWait` counts the
cycles of a halt in which a combining step is not yet applied (R358), `haltAt` is CYCLE at the halt (R363), and `stopHalt` says that
the halt came upon a stop, which is taken again after the restore (R389). `sections` holds where the code sections lie in the
windows: those of the AS and of the XS in the first two windows, then in the second two (R69, R94). -/
structure Core where
  g : Group
  shadow : LaunchBank
  owner : Vector Owner 16
  active : Bool
  sections : Vector (Nat × Nat) 4
  cycle : Nat
  haltReq : Option HaltKind
  halted : Option HaltKind
  ending : Option (EndKind × Word × BitVec 16)
  dbg : Debug
  guest : Option Guest
  heldSems : List HeldSem
  discards : Nat
  refusedYields : Nat
  haltWait : Nat
  haltAt : Nat
  stopHalt : Bool
  trace : TracePool
  deriving DecidableEq, Repr

/-- A core at package reset: no row group runs; the per-core registers hold what a swap-in would give them (log entry 1). -/
def Core.reset : Core :=
  { g := Group.fresh, shadow := LaunchBank.empty, owner := Vector.replicate 16 .none, active := false,
    sections := Vector.replicate 4 (0, 0), cycle := 0, haltReq := none, halted := none, ending := none, dbg := Debug.reset,
    guest := none, heldSems := [], discards := 0, refusedYields := 0, haltWait := 0, haltAt := 0, stopHalt := false,
    trace := ⟨0, 0, 0, 0⟩ }

/-! ## Instances -/

/-- Where a row group of an instance stands, as the Lantern knows it (R49, R63, R66). -/
inductive GroupPhase where
  | staged | withdrawn | running | preempting | saved | resuming | ended
  deriving DecidableEq, Repr

/-- A row group of an instance (R60, R62): its core, its place in the span, its rows by rank, and how it stands. `refused` says that
its RESUME has been answered *not resumed* and is to be sent again (R63), and `gone` that
the core has ended it; `how` and `reports` are what ENDED brought. -/
structure InstGroup where
  core : CoreId
  stage : Nat
  slot : Nat
  rowFirst : Nat
  rowCount : Nat
  phase : GroupPhase
  refused : Bool
  gone : Bool
  how : Option EndKind
  term : Word
  dump : BitVec 16
  reports : List RowReport
  deriving DecidableEq, Repr

/-- A row of an instance (R23, R50): its context, its entry time, its rank key (R58), whether it was aged, the TAG and CQ of its launch
record, the words of its row record as formation filled them, and whether it has left. -/
structure InstRow where
  ctx : BitVec 32
  entry : Nat
  rank : List Nat
  aged : Bool
  tag : BitVec 32
  cq : Nat
  words : List Word
  left : Bool
  deriving DecidableEq, Repr

/-- An instance that has not ended (R50, R55, R62, R66): what it runs, its node's descriptor with the regions it holds, its span,
its rows by rank, its flag word, and its rank with the time of its formation. -/
structure Inst where
  id : BitVec 24
  pd : BitVec 12
  graph : BitVec 32
  node : Nat
  lastNode : Bool
  desc : NodeDesc
  nstages : Nat
  width : Nat
  groups : List InstGroup
  rows : List InstRow
  flags : BitVec 8
  cancelled : Bool
  formed : Nat
  rank : List Nat
  deriving DecidableEq, Repr

/-! ## Pages -/

/-- The levels of a page (R222). -/
inductive Level where
  | free | pool | hbm | sram | moving
  deriving DecidableEq, Repr

/-- A page-directory entry (R222). -/
structure DirEntry where
  level : Level
  dest : Level
  wantSram : Bool
  pins : Nat
  refs : Nat
  owner : BitVec 32
  shd : BitVec 12
  pd : BitVec 12
  loc : Word
  last : Word
  deriving DecidableEq, Repr

/-- The directory entry of a page that is not in use (R222). -/
def DirEntry.free : DirEntry :=
  { level := .free, dest := .free, wantSram := false, pins := 0, refs := 0, owner := 0, shd := 0, pd := 0, loc := 0, last := 0 }

/-- A saved row group (R362 to R365): the core it left, which of that core's four frames holds it and at what address, why it was
saved, its state, the partitions evicted into the frame, and whether the Lantern has been told. -/
structure Saved where
  core : CoreId
  slot : Fin 4
  addr : Word
  kind : HaltKind
  inst : BitVec 24
  g : Group
  evicted : BitVec 4
  stopPending : Option (BitVec 3)
  deriving DecidableEq, Repr

/-! ## The network -/

/-- Where a byte that a channel delivers goes: its address as regions compare it, the core whose port it reaches (none for
memory), whether a global SRAM address names it, its memory key, and, in a KV page, its row and slot with the slot's GEN and the
high mark that the byte brings (R213, R214, R224). -/
structure Spot where
  addr : Word
  dst : Option CoreId
  global : Bool
  key : Nat
  kv : Option (Nat × Fin 256 × Fin 256 × Nat)
  deriving DecidableEq, Repr

/-- What a message of the network does at its destination port (R213, R250, R251, R289). -/
inductive Cargo where
  /-- Bytes to be written, at their memory keys. -/
  | bytes (cells : List (Nat × Byte))
  /-- One element to be combined (R247): its key, width in bytes, type code, operation, SAT and operand, and where the old value
  is returned. -/
  | combine (key width ty op : Nat) (sat : Bool) (src : Word) (ret : List (Option Spot))
  /-- One element to be compared and swapped. -/
  | cas (key width : Nat) (cmp new : Word) (ret : List (Option Spot))
  /-- A semaphore update. -/
  | sem (obj : SemName) (upd : SemUpd)
  /-- The add of a CSIG or MSIG. -/
  | csig (obj : SemName)
  /-- A remote SEMRD's request, with its number. -/
  | semrd (obj : SemName) (side : Side2) (ask : Nat)
  /-- The answer to a remote SEMRD's request of a number. -/
  | reply (side : Side2) (ask : Nat) (v : BitVec 32)
  deriving DecidableEq, Repr

/-- A message in flight: who sent it and on which path, the core whose port it goes to (none for memory), the instance and PD,
the store number or the delivery counts that it carries, and the row and slot of a KV write (R213, R224, R250). It is not delivered before
cycle `after` of the core that sent it: its source read has not returned sooner (R246). A combining step has its command's first record and
its count in the command (R394). A return is under way once its combining step has been made. -/
structure Flight where
  src : CoreId
  path : Path
  dst : Option CoreId
  inst : BitVec 24
  pd : BitVec 12
  global : Bool
  no : Nat
  lo : Nat
  len : Nat
  addrs : List Word
  kv : Option (Nat × Fin 256 × Fin 256 × Nat)
  after : Nat
  opRec : Option (Fin 64)
  stepNo : Nat
  cargo : Cargo
  deriving DecidableEq, Repr

/-- Which agent moves (the model's own): both sequencers of a core through one clock cycle, an engine of a core, which moves its
command to a guest where `mig` says so and it may (R280), an event, or what no row of the opcode table names: the passing of
nanoseconds (R30); the ECC errors of R354: one corrected, by telemetry counter, one left uncorrectable in a 64-bit word, one in
control state, and one in a register or accumulator file that an engine meets; the host's read of a base address register (R3) and
its writes of its own memory (R29); the control plane's writes of WAKE (R8, R9); and the end of a command of the mailbox (R399) or
of the Mooring tree (R336). -/
inductive Turn where
  | cycle (c : CoreId)
  | engine (c : CoreId) (r : Ring) (mig : Bool)
  | event (i : Instr)
  | time (ns : Nat)
  | corrected (id : Fin 16)
  | upset (word : Nat)
  | controlUpset
  | fileUpset (c : CoreId) (e : Eng)
  | barRead (port : Fin 4) (n off : Nat)
  | hostMemory (a : Word) (bytes : List Byte)
  | wake (i : Fin 131072) (v : Word)
  | mailbox
  | mooring
  deriving DecidableEq, Repr

/-! ## The Light List (R6 to R10) -/

/-- STATE of a context (R10). -/
inductive CtxState where
  | free | ready | running | parked | swapped | faulted
  deriving DecidableEq, Repr

/-- PARK_REASON of a context (R10). -/
inductive ParkReason where
  | none | page | host | probe | budget | ktrap
  deriving DecidableEq, Repr

/-- What a launch gives a context's row (R33, R34): held with the context until its row is formed, and through parks (R12). -/
structure RowData where
  rlen : Nat
  pos : Nat
  lineage : Nat
  tag : BitVec 32
  cq : Nat
  deriving DecidableEq, Repr

/-- A Light List entry (R8); its INDEX is its place. `row` is what its launch gave, `entry` and `aged` belong to its row in the ready
pool (R53, R56), and `since` is the time at which its STATE last changed (R229). -/
structure Ctx where
  st : CtxState
  reason : ParkReason
  gen : BitVec 15
  prio : Fin 8
  shd : BitVec 12
  pd : BitVec 12
  deadline : Word
  wake : Word
  kvroot : Word
  mchunks : BitVec 16
  mleaf : BitVec 32
  graphId : BitVec 32
  node : BitVec 16
  lineage : BitVec 32
  accepted : BitVec 32
  saveFrame : Word
  nflags : BitVec 8
  probeSet : BitVec 8
  steerEn : Bool
  steerSet : BitVec 6
  steerCoef : Word
  rng : RngState
  rngCount : Word
  pcause : BitVec 8
  psite : BitVec 8
  pprobe : BitVec 8
  ppos : BitVec 32
  pnode : BitVec 16
  pscore : Lane
  ppage : Word
  pcore : BitVec 9
  hostArea : Tab Word
  row : RowData
  entry : Nat
  aged : Bool
  since : Nat
  deriving DecidableEq, Repr

/-- An entry at reset (R8). -/
def Ctx.reset : Ctx :=
  { st := .free, reason := .none, gen := 0, prio := 0, shd := 0, pd := 0, deadline := 0, wake := 0, kvroot := 0, mchunks := 0,
    mleaf := 0, graphId := 0, node := 0, lineage := 0, accepted := 0, saveFrame := 0, nflags := 0, probeSet := 0, steerEn := false,
    steerSet := 0, steerCoef := 0, rng := ⟨0, 0, 0, 0⟩, rngCount := 0, pcause := 0, psite := 0, pprobe := 0, ppos := 0, pnode := 0,
    pscore := 0, ppage := 0, pcore := 0, hostArea := [], row := ⟨0, 0, 0, 0, 0⟩, entry := 0, aged := false, since := 0 }

/-- A graph-table entry (R38): its key, its GRAPHID, its node descriptors, and when it was last named. -/
structure GraphEntry where
  pd : BitVec 12
  addr : Word
  id : BitVec 32
  nodes : List NodeDesc
  used : Nat
  deriving DecidableEq, Repr

/-- What the Lantern keeps beside contexts and instances (R38, R55, R57, R62): the graph table, the count of namings, the virtual
times with 32 fraction bits (a class's by PD × 8 + class), and the next instance id. -/
structure Lantern where
  ctxs : Tab Ctx
  graphs : List GraphEntry
  namings : Nat
  vt : Tab Nat
  cv : Tab Nat
  nextInst : BitVec 24
  deriving DecidableEq, Repr

/-- The Lantern at reset. -/
def Lantern.reset : Lantern := { ctxs := [], graphs := [], namings := 0, vt := [], cv := [], nextInst := 0 }

/-! ## The front end: queues, bias and registers of BAR0 -/

/-- A submission queue's descriptor (R31). -/
structure SqDesc where
  base : Word
  log2n : BitVec 5
  loc : Bool
  en : Bool
  pd : BitVec 12
  vec : BitVec 11
  rlBase : Word
  rlLog2n : BitVec 5
  lastSeq : BitVec 16
  tail : BitVec 16
  rlLost : BitVec 32
  overrun : Bool
  malform : Bool
  head : BitVec 16
  mirror : Word
  rlTail : BitVec 16
  rlHead : BitVec 16
  deriving DecidableEq, Repr

/-- A submission queue's descriptor at reset (R31). -/
def SqDesc.reset : SqDesc :=
  { base := 0, log2n := 0, loc := false, en := false, pd := 0, vec := 0, rlBase := 0, rlLog2n := 0, lastSeq := 0, tail := 0,
    rlLost := 0, overrun := false, malform := false, head := 0, mirror := 0, rlTail := 0, rlHead := 0 }

/-- A completion record before its PHASE is set (R378), with the cores of the row groups that held its row, and their instance: it is not
written while one of them has not ended (R379). -/
structure CompRec where
  parked : Bool
  words : Vector Word 4
  after : BitVec 24 × List CoreId
  deriving DecidableEq, Repr

/-- A completion queue's descriptor (R377), with the records that are due, the records held for it (R379), how many were written since its
last interrupt, and the time of the first of them (R380). HELD reads 1 while records are held. -/
structure CqDesc where
  base : Word
  log2n : BitVec 5
  en : Bool
  pnote : Bool
  cn : BitVec 8
  ct : BitVec 8
  vec : BitVec 11
  plost : BitVec 32
  malform : Bool
  phase : Bool
  tail : BitVec 16
  pd : BitVec 12
  head : BitVec 16
  due : List CompRec
  held : List CompRec
  fresh : Nat
  first : Nat
  deriving DecidableEq, Repr

/-- A completion queue's descriptor at reset (R377). -/
def CqDesc.reset : CqDesc :=
  { base := 0, log2n := 0, en := false, pnote := false, cn := 1, ct := 1, vec := 0, plost := 0, malform := false, phase := false,
    tail := 0, pd := 0, head := 0, due := [], held := [], fresh := 0, first := 0 }

/-- A device write to a page that a flip waits for (R43): the core, row group and path that issued it, with the number of its store or the
delivery counts of its bytes. -/
structure FlipWait where
  src : CoreId
  inst : BitVec 24
  path : Path
  no : Nat
  lo : Nat
  len : Nat
  deriving DecidableEq, Repr

/-- A pending bias flip (R42, R43): its page and direction, the time of its start and the device writes that it waits for, once it has
started, and its STATUS once it is complete. -/
structure Flip where
  page : Nat
  toHost : Bool
  start : Option Nat
  waits : List FlipWait
  done : Option Bool
  deriving DecidableEq, Repr

/-- What rests on a handle check already made (R218): an access under way, a ring record, or an AS read. -/
inductive HandleUse where
  | flight (f : Flight)
  | record (c : CoreId) (r : Ring) (k : Nat) (tag : BitVec 16)
  | read (c : CoreId) (no : Nat)
  deriving DecidableEq, Repr

/-- The front end (R31, R37, R41, R42, R218, R222, R308, R310, R336, R377): the queues, the queue served last, the pages in host
bias, the ports' flips and BIASFULL bits, and the registers of BAR0 with a behaviour of their own. -/
structure Front where
  sqs : Tab SqDesc
  cqs : Tab CqDesc
  served : Nat
  hostBias : List Nat
  flips : Vector (List Flip) 4
  biasFull : Vector Bool 4
  hsync : Option (BitVec 12 × List HandleUse)
  dirq : Word
  dirData : Vector Word 4
  probeBase : Word
  steerBase : Word
  tapsync : Option (Bool × Nat)
  moorCmd : Word
  moorRange : Word
  moorKeys : Word
  moorBusy : Bool
  moorStatus : BitVec 8
  moorDone : BitVec 32
  deriving DecidableEq, Repr

/-- The front end at reset. -/
def Front.reset : Front :=
  { sqs := [], cqs := [], served := 4095, hostBias := [], flips := Vector.replicate 4 [], biasFull := Vector.replicate 4 false,
    hsync := none, dirq := 0, dirData := Vector.replicate 4 0, probeBase := 0, steerBase := 0, tapsync := none, moorCmd := 0,
    moorRange := 0, moorKeys := 0, moorBusy := false, moorStatus := 0, moorDone := 0 }

/-! ## Operator parameters (R400) -/

/-- The operator's parameters that no other field of State holds (R24, R25, R45, R226, R229, R335, R392, R402, R403). A range is a base
and a count of frames or tables, or of bytes. -/
structure Params where
  shares : Vector Nat 8
  ageMax : Nat
  weights : Tab Nat
  routes : Tab Word
  staging : List CoreId
  hbm : Vector (Nat × Nat) 4
  pool : Vector (Nat × Nat) 4
  tables : Vector (Nat × Nat) 4
  hnear : Nat
  hswap : Nat
  npc : Nat
  imax : Vector Nat 4
  nmin : Nat
  replayPds : List Nat
  logPool : Vector (Nat × Nat) 4
  deriving DecidableEq, Repr

/-- The parameters after reset; times are nanoseconds and currents milliamperes. A PD's weight is 1 where none is listed. -/
def Params.reset : Params :=
  { shares := Vector.replicate 8 1, ageMax := 20000000, weights := [], routes := [], staging := [], hbm := Vector.replicate 4 (0, 0),
    pool := Vector.replicate 4 (0, 0), tables := Vector.replicate 4 (0, 0), hnear := 5000000, hswap := 10000000000, npc := 1,
    imax := Vector.replicate 4 5000000, nmin := 0, replayPds := [], logPool := Vector.replicate 4 (0, 0) }

/-! ## Residency (R226 to R230, R335) -/

/-- A move of a page (R228): where it lies and goes, and whether the engine has copied it. -/
structure Move where
  gpn : Nat
  source : Level
  src : Word
  dest : Level
  dst : Word
  copied : Bool
  deriving DecidableEq, Repr

/-- A page that a context's NEED waits for (R228). -/
structure Want where
  ctx : BitVec 32
  gpn : Nat
  sram : Bool
  deriving DecidableEq, Repr

/-- A swap of a context that is under way (R229): out, in because it became near, or in for a SWAPIN; one more SWAPIN may wait. -/
inductive SwapKind where
  | out | near | launch
  deriving DecidableEq, Repr

/-- A swap under way. -/
structure Swap where
  ctx : BitVec 32
  kind : SwapKind
  deriving DecidableEq, Repr

/-- A leaf of the Mooring tree (R335). -/
structure MoorLeaf where
  id : Nat
  pd : BitVec 12
  shd : BitVec 12
  parent : Nat
  key : List Nat
  gpns : List Nat
  lastUse : Nat
  deriving DecidableEq, Repr

/-- A pool frame that holds the save area of a context, by Light List index (R46, R229): `stays` where SAVEFRAME itself was set to it by
an import, so that a swap moves it only after the host has set SAVEFRAME anew (log entry 50). -/
structure SaveArea where
  ctx : Nat
  frame : Nat
  stays : Bool
  deriving DecidableEq, Repr

/-- What the Tenders keep beside the page directory (R226 to R229, R46, R335): moves, waiting NEEDs, swaps, page-table tables in use
with the context they belong to, pool frames that export images hold, the save areas that lie in the pool, and the Mooring tree's
leaves. -/
structure Tender where
  moves : List Move
  wants : List Want
  swaps : List Swap
  tables : List (Nat × BitVec 32)
  exported : List Nat
  saves : List SaveArea
  leaves : List MoorLeaf
  deriving DecidableEq, Repr

/-- The Tenders at reset: nothing is in use. -/
def Tender.reset : Tender := { moves := [], wants := [], swaps := [], tables := [], exported := [], saves := [], leaves := [] }

/-! ## Management (R398 to R405) -/

/-- MBSTAT.STATE (R399). -/
inductive Phase where
  | boot | run | bootfail | fatal
  deriving DecidableEq, Repr

/-- The mailbox, with the port that started the command under way, the image being written and the image that runs, the SPDM
requests answered so far, the telemetry counters that belong to no core, and the error log (R398 to R405). -/
structure Mgmt where
  busy : Option (Fin 4)
  op : BitVec 16
  len : BitVec 16
  tag : BitVec 32
  phase : Phase
  status : BitVec 4
  rlen : BitVec 12
  rtag : BitVec 32
  data : Tab Byte
  newImage : Tab Byte
  running : Tab Byte
  spdm : List (List Byte)
  lightDiscards : Nat
  tapPassed : Nat
  tenderWaits : Nat
  corrected : Vector Nat 16
  uncorrected : Nat
  current : Vector Nat 4
  temp : Vector Nat 4
  errors : List (Word × Word)
  deriving DecidableEq, Repr

/-- The management plane at package reset: STATE is BOOT (R399). -/
def Mgmt.reset : Mgmt :=
  { busy := none, op := 0, len := 0, tag := 0, phase := .boot, status := 0, rlen := 0, rtag := 0, data := [], newImage := [],
    running := [], spdm := [], lightDiscards := 0, tapPassed := 0, tenderWaits := 0, corrected := Vector.replicate 16 0, uncorrected := 0, current := Vector.replicate 4 0,
    temp := Vector.replicate 4 0, errors := [] }

/-- What the host is answered: the words of a register read or the bytes of a memory read with the poison indication (R354), or the
unsupported-request response of the standard (R5). -/
structure HostReply where
  bytes : List Byte
  poison : Bool
  refused : Bool
  deriving DecidableEq, Repr

/-- What a UALink request is answered: nothing yet, the bytes that it reads, or the unsupported-request response (R5, R45). -/
inductive FabricReply where
  | silent
  | data (bytes : List Byte)
  | refused
  deriving DecidableEq, Repr

/-! ## Replay (R392 to R396) -/

/-- The replay modes (R392). -/
inductive ReplayMode where
  | off | recordSync | recordInputs | replaySync | replayInputs
  deriving DecidableEq, Repr

/-- The status of a recording or replay (R392, R396). -/
inductive ReplayStatus where
  | running
  | overflow (dies : List (Fin 4))
  | diverged (entry : Nat)
  deriving DecidableEq, Repr

/-- An input of the host or the fabric (R395): a write to a base address register, a write of device memory, or a UALink request. -/
inductive HostIn where
  | bar (port : Fin 4) (n off : Nat) (v : Word)
  | mem (a : Word) (bytes : List Byte)
  | fabric (a : Word) (q : FabricReq)
  deriving DecidableEq, Repr

/-- An entry of the log (R393 to R395). -/
inductive LogEntry where
  | sem (home : CoreId) (num : Fin 64) (core : CoreId) (eng : Eng) (v : BitVec 32)
  | combine (key : Nat) (core : CoreId) (path : Path) (record : Option (Fin 64)) (no : Nat)
  | pgref (home : Fin 4) (c : CoreId) (slot : Option (Fin 256)) (sram : Bool)
  | read (c : CoreId) (retired : Nat) (v : Word)
  | place (inst : BitVec 24) (ctxs : List (BitVec 32)) (cores : List CoreId)
  | rowEvent (inst : BitVec 24) (ctx : BitVec 32) (what : RowHappening)
  | hash (inst : BitVec 24) (c : CoreId) (retired : Nat) (h : Word)
  | input (grc : Nat) (i : HostIn)
  deriving DecidableEq, Repr

/-- A semaphore step that a replay holds until its turn (R396), with the cycle of its home at which it came. -/
structure HeldStep where
  home : CoreId
  num : Fin 64
  core : CoreId
  eng : Eng
  upd : SemUpd
  since : Nat
  deriving DecidableEq, Repr

/-- An outcome that a replay of sync order holds until its turn, beside semaphore steps (R396): a combining step of a core's channel
at its count, a PGREF, the formation of a batch, or a ROWEVENT. -/
inductive HeldOutcome where
  | combine (core : CoreId) (path : Path) (no : Nat)
  | pgref (core : CoreId) (no : Nat)
  | place
  | rowEvent
  deriving DecidableEq, Repr

/-- A recording or replay (R392 to R396): the mode, the log with the die of each entry, the entries that a replay has still to meet, the
steps and other outcomes it holds, each with the cycle of its core or the time at which it came, and the group count. -/
structure Replay where
  mode : ReplayMode
  status : ReplayStatus
  log : List (Fin 4 × LogEntry)
  todo : List LogEntry
  held : List HeldStep
  waits : List (HeldOutcome × Nat)
  grc : Nat
  deriving DecidableEq, Repr

/-- No replay. -/
def Replay.reset : Replay := { mode := .off, status := .running, log := [], todo := [], held := [], waits := [], grc := 0 }

/-! ## The package -/

/-- A fault of the machine: it ends a run. It is safe: nothing is claimed of what follows. -/
inductive Fault where
  /-- An access to an address that no memory of the package has (R211, R216): raised by the translation of a handle whose target
  lies outside its memory. Safe. -/
  | noSuchMemory (key : Nat)
  deriving DecidableEq, Repr

/-- A refusal. -/
inductive Refusal where
  /-- The instruction has no meaning in the model yet. Safe. -/
  | notModelled (mnemonic : String)
  deriving DecidableEq, Repr

/-- A word, by its memory key divided by 8, of a posted record or of its context list, with a value that it had before the host rewrote
it: it may still be read for the record of that queue and ring index (R37). -/
structure Stale where
  queue : Nat
  idx : Nat
  word : Nat
  val : Word
  deriving DecidableEq, Repr

/-- The machine. `slewPart` is the time that the timebase has counted beyond the last whole microsecond of a correction (R30), and
`stale` holds words of posted records and lists as the host's rewriting found them (R37). `agenda` (which agent moves next), `focus`
(the core whose clock cycle is the step when the agenda is empty, and whose row group a sequencer word or a ring command acts on),
`side`, `ring` and `mig` (the sequencer or the ring in question, and whether its engine moves its command to a guest) and `fresh` (a
counter of free values) are the model's own. -/
structure State where
  cores : Vector Core 512
  mem : Memory
  poison : List Nat
  net : List Flight
  now : Nat
  htbase : Tab Word
  dir : Tab DirEntry
  insts : List Inst
  saved : List Saved
  savePool : Vector (Option Word) 4
  dumpPool : Vector (Word × Nat) 4
  dumpUsed : List Nat
  dumpPds : List Nat
  tracePds : List (Nat × Bool)
  debugPds : List Nat
  up : Vector (Link UpMsg) 32
  down : Vector (Link DownMsg) 32
  tenderQ : Vector (Wake TenderMsg) 4
  tenderReplies : Vector (Wake TenderReply) 4
  wakeNo : Nat
  lan : Lantern
  front : Front
  params : Params
  tender : Tender
  mgmt : Mgmt
  replay : Replay
  slew : Int
  slewPart : Nat
  stale : List Stale
  rates : Vector Nat 4
  nextRates : Vector (Option Nat) 4
  hostOut : Option HostReply
  fabricOut : FabricReply
  msix : List (Nat × Nat)
  agenda : List Turn
  focus : CoreId
  side : Side2
  ring : Ring
  mig : Bool
  fresh : Nat
  deriving DecidableEq, Repr

/-- The machine right after reset. -/
def State.reset : State :=
  { cores := Vector.replicate 512 Core.reset, mem := [], poison := [], net := [], now := 0, htbase := [], dir := [], insts := [],
    saved := [], savePool := Vector.replicate 4 none, dumpPool := Vector.replicate 4 (0, 0), dumpUsed := [], dumpPds := [], tracePds := [], debugPds := [],
    up := Vector.replicate 32 (Link.reset UpMsg), down := Vector.replicate 32 (Link.reset DownMsg),
    tenderQ := Vector.replicate 4 (Wake.reset TenderMsg), tenderReplies := Vector.replicate 4 (Wake.reset TenderReply),
    wakeNo := 0, lan := Lantern.reset, front := Front.reset, params := Params.reset, tender := Tender.reset, mgmt := Mgmt.reset, replay := Replay.reset, slew := 0, slewPart := 0, stale := [], rates := Vector.replicate 4 0,
    nextRates := Vector.replicate 4 none, hostOut := none, fabricOut := .silent, msix := [], agenda := [],
    focus := 0, side := .xs, ring := .me, mig := false, fresh := 0 }

end Sys2Proof.Machine
end

