-- ==== Sys2Proof/Machine/Access.lean ====
section
/-! DEFINITION. Reading and writing the parts of the state: the core in focus, its sequencers, their registers, memory by key, and
the row records. -/

namespace Sys2Proof.Machine

/-! ## Cores, groups, sequencers -/

/-- The core `c`. -/
def State.coreAt (s : State) (c : CoreId) : Core := s.cores[c]

/-- The state with core `c` replaced. -/
def State.setCoreAt (s : State) (c : CoreId) (k : Core) : State := { s with cores := s.cores.set c k }

/-- The core in focus. -/
def State.cur (s : State) : Core := s.coreAt s.focus

/-- The state with the core in focus changed. -/
def State.modCore (s : State) (f : Core → Core) : State := s.setCoreAt s.focus (f s.cur)

/-- The row group of the core in focus. -/
def State.g (s : State) : Group := s.cur.g

/-- The state with the row group of the core in focus changed. -/
def State.modG (s : State) (f : Group → Group) : State := s.modCore fun k => { k with g := f k.g }

/-- The state with the row group of core `c` changed. -/
def State.modGAt (s : State) (c : CoreId) (f : Group → Group) : State :=
  s.setCoreAt c { s.coreAt c with g := f (s.coreAt c).g }

/-- The sequencer of a side. -/
def Group.seq (g : Group) (side : Side2) : Seq :=
  match side with
  | .as => g.as_
  | .xs => g.xs

/-- The group with the sequencer of a side changed. -/
def Group.modSeq (g : Group) (side : Side2) (f : Seq → Seq) : Group :=
  match side with
  | .as => { g with as_ := f g.as_ }
  | .xs => { g with xs := f g.xs }

/-- The sequencer at work. -/
def State.seq (s : State) : Seq := s.g.seq s.side

/-- The state with the sequencer at work changed. -/
def State.modSeq (s : State) (f : Seq → Seq) : State := s.modG fun g => g.modSeq s.side f

/-- The state with another core in focus. -/
def State.onCore (s : State) (c : CoreId) : State := { s with focus := c }

/-- The state with another core and sequencer at work. -/
def State.onSeq (s : State) (c : CoreId) (side : Side2) : State := { s with focus := c, side := side }

/-- The ring state of a ring. -/
def Group.ringOf (g : Group) (r : Ring) : RingState :=
  match r with
  | .me => g.me
  | .ch0 => g.ch0
  | .ch1 => g.ch1

/-- The group with a ring changed. -/
def Group.modRing (g : Group) (r : Ring) (f : RingState → RingState) : Group :=
  match r with
  | .me => { g with me := f g.me }
  | .ch0 => { g with ch0 := f g.ch0 }
  | .ch1 => { g with ch1 := f g.ch1 }

/-- The engine of a ring. -/
def ringEng : Ring → Eng
  | .me => .me
  | .ch0 => .ch0
  | .ch1 => .ch1

/-- The path of a ring's engine. -/
def ringPath : Ring → Path
  | .me => .me
  | .ch0 => .ch0
  | .ch1 => .ch1

/-- The code of an engine (R352, R384). -/
def Eng.code : Eng → Nat
  | .as => 0
  | .xs => 1
  | .me => 2
  | .ch0 => 3
  | .ch1 => 4
  | .sector => 5
  | .none => 6

/-- The engine of a sequencer. -/
def Side2.eng : Side2 → Eng
  | .as => .as
  | .xs => .xs

/-- The node descriptor of a row group; blank when none runs. -/
def Group.desc (g : Group) : NodeDesc := (g.run.map Run.desc).getD NodeDesc.blank

/-- The launch bank of a row group; empty when none runs. -/
def Group.bank (g : Group) : LaunchBank := (g.run.map Run.bank).getD LaunchBank.empty

/-- The rows of a row group (R21). -/
def Group.rowCount (g : Group) : Nat := g.bank.rowCount

/-- The local offset of a row group's row area (R21). -/
def Group.rowBase (g : Group) : Nat := (g.run.map Run.rowBase).getD 0

/-! ## Registers -/

/-- X registers: X0 reads as zero (R71). -/
def Seq.getX (q : Seq) (r : RegNum) : Word := if r = 0 then 0 else q.x[r]

/-- X registers: a write to X0 is discarded (R71). -/
def Seq.setX (q : Seq) (r : RegNum) (v : Word) : Seq := if r = 0 then q else { q with x := q.x.set r v }

/-- The physical number of a predicate register (R74). -/
def physP (prb : Fin 32) (n : RegNum) : RegNum :=
  if n.val < 32 then n else Fin.ofNat 64 (32 + (n.val - 32 + prb.val) % 32)

/-- Predicates by physical number: P0 reads as true (R71). -/
def Seq.getPhysP (q : Seq) (k : RegNum) : Bool := if k = 0 then true else q.p[k]

/-- Predicates by physical number: a write to P0 is discarded (R71). -/
def Seq.setPhysP (q : Seq) (k : RegNum) (b : Bool) : Seq := if k = 0 then q else { q with p := q.p.set k b }

/-- Predicates as named, through the rotation base (R74). -/
def Seq.getP (q : Seq) (n : RegNum) : Bool := q.getPhysP (physP q.prb n)

/-- The physical number of a vector register (R74). -/
def physV (vregs : Nat) (vrb : Fin 32) (n : RegNum) : Nat :=
  if n.val < 32 || vregs ≤ 32 then n.val else 32 + (n.val - 32 + vrb.val) % (vregs - 32)

/-- The physical number of a vector register of a row group. -/
def Group.physV (g : Group) (n : RegNum) : Nat := Sys2Proof.Machine.physV g.desc.vregs g.vrb n

/-- The key of a lane of the vector file. -/
def laneKey (phys row lane : Nat) : Nat := phys * 1024 + row * 32 + lane

/-- A lane of the vector file, by key (R72). -/
def Group.lane (g : Group) (key : Nat) : Lane := Tab.get 0 g.v key

/-- Write a lane under its mask. -/
def Group.setLane (g : Group) (w : LaneWrite) : Group :=
  { g with v := Tab.set 0 g.v w.key ((g.lane w.key &&& ~~~w.mask) ||| (w.val &&& w.mask)) }

/-- The rows of SHP (R79). -/
def shpRows (w : Word) : Nat := fld w.toNat 26 6

/-- The lanes of SHP (R79). -/
def shpLanes (w : Word) : Nat := fld w.toNat 20 6

/-- The operand type of SHP (R79). -/
def shpEty (w : Word) : NumTy :=
  (numTyOf (fld w.toNat 16 4) (fld w.toNat 13 3) (bit w.toNat 12) (bit w.toNat 11)).getD (.flt .f32)

/-- The result type of SHP (R79). -/
def shpDty (w : Word) : NumTy :=
  (numTyOf (fld w.toNat 7 4) (fld w.toNat 4 3) (bit w.toNat 3) (bit w.toNat 2)).getD (.flt .f32)

/-! ## Memory -/

/-- The size of one space of memory keys. -/
def spaceSize : Nat := 18446744073709551616

/-- The key of a scratchpad byte: its global SRAM address (R211). -/
def sramKey (c : CoreId) (off : Nat) : Nat := c.val * 4194304 + off

/-- The key of a device-memory byte. -/
def devKey (a : Nat) : Nat := spaceSize + a

/-- The key of a CXL-pool byte. -/
def poolKey (a : Nat) : Nat := 2 * spaceSize + a

/-- The key of a host-memory byte. -/
def hostKey (a : Nat) : Nat := 3 * spaceSize + a

/-- The key of a byte of a code window (R69): the sequencer's window 0 or 1 of a core. -/
def codeKey (c : CoreId) (side : Side2) (which : Bool) (off : Nat) : Nat :=
  4 * spaceSize
    + (c.val * 4 + (match side with
        | .as => 0
        | .xs => 2) + (if which then 1 else 0)) * 65536 + off

/-- The key of a byte of the image flash (R398). -/
def flashKey (a : Nat) : Nat := 5 * spaceSize + a

/-- The key of a byte of a remote package (R45, R216). -/
def pkgKey (p a : Nat) : Nat := (16 + p) * spaceSize + a

/-- One byte of memory. -/
def readByte (m : Memory) (key : Nat) : Byte := Tab.get Memory.unlisted m key

/-- Memory with one byte written. -/
def writeByte (m : Memory) (key : Nat) (b : Byte) : Memory := Tab.set Memory.unlisted m key b

/-- `n` bytes from a key up, as a little-endian number (R2). -/
def readLE (m : Memory) (key : Nat) : Nat → Nat
  | 0 => 0
  | n + 1 => (readByte m key).toNat + 256 * readLE m (key + 1) n

/-- The cells of the `n` low bytes of a number, little-endian, from a key up. -/
def leCells (key : Nat) : Nat → Nat → List (Nat × Byte)
  | 0, _ => []
  | n + 1, w => (key, BitVec.ofNat 8 w) :: leCells (key + 1) n (w / 256)

/-- Memory with cells written in order. -/
def writeCells (m : Memory) (cells : List (Nat × Byte)) : Memory := cells.foldl (fun m c => writeByte m c.1 c.2) m

/-- The 64-bit words whose eight bytes a list of cells all covers: their poison is cleared (R354). -/
def wholeWords (cells : List (Nat × Byte)) : List Nat :=
  ((cells.map fun c => c.1 / 8).eraseDups).filter fun w =>
    (List.range 8).all fun k => cells.any fun c => c.1 == w * 8 + k

/-- The state with cells of memory written; a write that covers a whole 64-bit word clears its poison (R354). -/
def State.writeMem (s : State) (cells : List (Nat × Byte)) : State :=
  { s with
    mem := writeCells s.mem cells
    poison := if s.poison.isEmpty then s.poison else s.poison.filter fun w => !(wholeWords cells).contains w }

/-- Is some byte of [key, key + n) in a poisoned word (R354). -/
def State.poisoned (s : State) (key n : Nat) : Bool := s.poison.any fun w => w * 8 < key + n && key < w * 8 + 8

/-- The first byte of [key, key + n) that lies in a poisoned word (R354). -/
def State.poisonAt (s : State) (key n : Nat) : Option Nat :=
  ((s.poison.filter fun w => w * 8 < key + n && key < w * 8 + 8).map fun w => max key (w * 8)).min?

/-- A 64-bit word of memory. -/
def State.word (s : State) (key : Nat) : Word := BitVec.ofNat 64 (readLE s.mem key 8)

/-- Does a memory of the package have the byte of this key (R1, R211, R398). -/
def keyExists (key : Nat) : Bool :=
  match key / spaceSize with
  | 0 => key < 2147483648
  | 1 => key - spaceSize < Config.hbmBytes
  | 2 => key - 2 * spaceSize < Config.poolBytes
  | 3 => true
  | 4 => key - 4 * spaceSize < 134217728
  | 5 => key - 5 * spaceSize < 67108864
  | n => 16 ≤ n && n < 80

/-! ## Row records -/

/-- The key of a byte of a row record (R21, R22). -/
def State.rowKey (s : State) (c : CoreId) (row off : Nat) : Nat := sramKey c ((s.coreAt c).g.rowBase + 128 * row + off)

/-- A field of a row record of core `c`: `n` bytes at an offset (R22). -/
def State.rowField (s : State) (c : CoreId) (row off n : Nat) : Nat := readLE s.mem (s.rowKey c row off) n

/-- RFLAGS.LIVE of a row (R22). -/
def State.rowLive (s : State) (c : CoreId) (row : Nat) : Bool := s.rowField c row 6 2 % 2 == 1

/-- RLEN of a row (R22). -/
def State.rowLen (s : State) (c : CoreId) (row : Nat) : Nat := s.rowField c row 4 2

/-- CTX of a row (R22). -/
def State.rowCtx (s : State) (c : CoreId) (row : Nat) : BitVec 32 := BitVec.ofNat 32 (s.rowField c row 0 4)

/-- ACCEPT of a row (R22). -/
def State.rowAccept (s : State) (c : CoreId) (row : Nat) : Nat := s.rowField c row 12 4

/-- POS of a row (R22). -/
def State.rowPos (s : State) (c : CoreId) (row : Nat) : Nat := s.rowField c row 8 4

/-- LINEAGE of a row (R22). -/
def State.rowLineage (s : State) (c : CoreId) (row : Nat) : Nat := s.rowField c row 16 4

/-- The stream of a row's record (R22, R325). -/
def State.rowRng (s : State) (c : CoreId) (row : Nat) : RngState :=
  { s0 := s.word (s.rowKey c row 32), s1 := s.word (s.rowKey c row 40), s2 := s.word (s.rowKey c row 48),
    s3 := s.word (s.rowKey c row 56) }

/-- RNGCOUNT of a row's record (R22). -/
def State.rowCount64 (s : State) (c : CoreId) (row : Nat) : Word := s.word (s.rowKey c row 64)

/-- The state with bytes of a row record written by the hardware (R21). -/
def State.setRowField (s : State) (c : CoreId) (row off n v : Nat) : State :=
  s.writeMem (leCells (s.rowKey c row off) n v)

/-- Is any row of core `c` LIVE. -/
def State.anyLive (s : State) (c : CoreId) : Bool := (List.range (s.coreAt c).g.rowCount).any (s.rowLive c)

/-- The sum of RLEN over the records from `r` on (R266). -/
def State.tokensFrom (s : State) (c : CoreId) (r : Nat) : Nat :=
  (((List.range (s.coreAt c).g.rowCount).drop r).map (s.rowLen c)).sum

/-- The record of the `t`-th token counted from record `r`, and the token's offset in it (R266). -/
def State.tokenRecord (s : State) (c : CoreId) : Nat → Nat → Nat → Option (Nat × Nat)
  | 0, _, _ => none
  | fuel + 1, r, t =>
    if r ≥ (s.coreAt c).g.rowCount then none
    else if t < s.rowLen c r then some (r, t)
    else State.tokenRecord s c fuel (r + 1) (t - s.rowLen c r)

/-- RowsPresent of R266. -/
def State.rowsPresent (s : State) (c : CoreId) (row0 tok0 m : Nat) : Nat :=
  if row0 ≥ (s.coreAt c).g.rowCount then 0 else min m (s.tokensFrom c row0 - tok0)

/-- The record of tile row `i` of a ragged walk (R266). -/
def State.walkRecord (s : State) (c : CoreId) (row0 tok0 i : Nat) : Option Nat :=
  (s.tokenRecord c 1025 row0 (tok0 + i)).map Prod.fst

end Sys2Proof.Machine
end

