-- ==== Sys2Proof/Machine/Replay.lean ====
section
/-! DEFINITION. Recording and replaying (R392 to R396): the log, the outcomes that mode 1 logs and mode 3 forces, the inputs of mode
2, and the state hash. -/

namespace Sys2Proof.Machine

/-- The die of a core. -/
def dieOf (c : CoreId) : Fin 4 := Fin.ofNat 4 (c.val / 128)

/-- The die whose memory has a key (R1, R211): that of the scratchpad, or of the memory stack. -/
def keyDie (key : Nat) : Nat := if key < spaceSize then key / 536870912 % 4 else Config.stackDie (key % spaceSize) % 4

/-- The replay mode as it bears on a PD (R392). -/
def State.replayFor (s : State) (pd : BitVec 12) : ReplayMode :=
  if s.params.replayPds.contains pd.toNat then s.replay.mode else .off

/-- The kind of a log entry, which decides its size. -/
def LogEntry.kind : LogEntry → Nat
  | .sem .. => 0
  | .combine .. => 1
  | .pgref .. => 2
  | .read .. => 3
  | .place .. => 4
  | .rowEvent .. => 5
  | .hash .. => 6
  | .input .. => 7

/-- The bytes of a die's log. -/
def Replay.used (r : Replay) (d : Fin 4) : Nat :=
  ((r.log.filter fun e => e.1 = d).map fun e => Config.logEntryBytes e.2.kind).sum

/-- Has the recording of a die ended because its pool is full. -/
def Replay.full (r : Replay) (d : Fin 4) : Bool :=
  match r.status with
  | .overflow ds => ds.contains d
  | _ => false

/-- The state with an entry logged on a die; an entry that the die's pool cannot take ends that die's recording (R392). -/
def State.logEntry (s : State) (d : Fin 4) (e : LogEntry) : State :=
  let r := s.replay
  if r.full d then s
  else if r.used d + Config.logEntryBytes e.kind ≤ (s.params.logPool[d]).2 then
    { s with replay := { r with log := r.log ++ [(d, e)] } }
  else
    let ds := match r.status with
      | .overflow ds => ds
      | _ => []
    { s with replay := { r with status := .overflow (d :: ds) } }

/-- The next entry of a kind that a replay has still to meet. -/
def Replay.next (r : Replay) (p : LogEntry → Bool) : Option LogEntry := r.todo.find? p

/-- The state with an entry of the replay met. -/
def State.met (s : State) (e : LogEntry) : State := { s with replay := { s.replay with todo := s.replay.todo.erase e } }

/-- A value that mode 1 logs and mode 3 forces: an RDCR of CYCLE, a ring PC or a WP, a QCNT, or a remote SEMRD of core `c` (R394,
R396). -/
def State.loggedRead (s : State) (c : CoreId) (v : Word) : State × Word :=
  let g := (s.coreAt c).g
  match s.replayFor g.bank.pd with
  | .recordSync => (s.logEntry (dieOf c) (.read c g.retired v), v)
  | .replaySync =>
    match s.replay.next fun e => match e with
      | .read c' _ _ => c' = c
      | _ => false with
    | some (.read c' n w) => (s.met (.read c' n w), w)
    | _ => (s, v)
  | _ => (s, v)

/-- A step of the order of R394 that mode 3 forces: may it be made now, the first logged entry of its place being `first`. -/
def State.myTurn (s : State) (pd : BitVec 12) (place : LogEntry → Bool) (mine : LogEntry → Bool) : Bool :=
  match s.replayFor pd with
  | .replaySync =>
    match s.replay.next place with
    | some e => mine e
    | none => true
  | _ => true

/-- An outcome that has been made: logged in mode 1, and met in mode 3 (R394, R396). -/
def State.outcome (s : State) (d : Fin 4) (pd : BitVec 12) (e : LogEntry) (mine : LogEntry → Bool) : State :=
  match s.replayFor pd with
  | .recordSync => s.logEntry d e
  | .replaySync =>
    match s.replay.next mine with
    | some x => s.met x
    | none => s
  | _ => s

/-- The state with an input logged under the group count in mode 2 (R395). -/
def State.logInput (s : State) (d : Fin 4) (i : HostIn) : State :=
  match s.replay.mode with
  | .recordInputs => s.logEntry d (.input s.replay.grc i)
  | _ => s

/-- The next logged input that mode 4 is to deliver, with its stamp, which GRC has reached (R396). -/
def State.dueInput (s : State) : Option (Nat × HostIn) :=
  match s.replay.mode with
  | .replayInputs =>
    match s.replay.next fun e => match e with
      | .input _ _ => true
      | _ => false with
    | some (.input n j) => if n ≤ s.replay.grc then some (n, j) else none
    | _ => none
  | _ => none

/-! ## Outcomes that wait for their turn (R396) -/

/-- The state with an outcome held since the number given, a cycle of its core or a time; one held already keeps its start. -/
def State.holdOutcome (s : State) (h : HeldOutcome) (now : Nat) : State :=
  if s.replay.waits.any fun e => e.1 = h then s else { s with replay := { s.replay with waits := s.replay.waits ++ [(h, now)] } }

/-- The state in which an outcome is held no longer. -/
def State.releaseOutcome (s : State) (h : HeldOutcome) : State :=
  if s.replay.waits.isEmpty then s else { s with replay := { s.replay with waits := s.replay.waits.filter fun e => e.1 != h } }

/-- The time in nanoseconds that the Lantern lets a forced formation or ROWEVENT wait: the reset value of WAITMAX at 3.3 GHz (log
entry 80). -/
def lanternWait : Nat := 0x01000000 * 10 / 33

/-- Has an outcome of core `c`, or of the Lantern, been held for more than WAITMAX cycles (R396). -/
def State.heldTooLong (s : State) (c : CoreId) (e : HeldOutcome × Nat) : Bool :=
  let k := s.coreAt c
  match e.1 with
  | .combine d _ _ => d = c && k.g.waitMax < k.cycle - e.2
  | .pgref d _ => d = c && k.g.waitMax < k.cycle - e.2
  | _ => lanternWait < s.now - e.2

/-- The place in the log of the first entry equal to `e` that a replay has still to meet, entries equal to it being met in order (R396). -/
def Replay.placeOf (r : Replay) (e : LogEntry) : Nat :=
  let l := r.log.map Prod.snd
  let met := (l.filter fun x => x = e).length - (r.todo.filter fun x => x = e).length
  ((((List.range l.length).zip l).filter fun x => x.2 = e).map Prod.fst)[met]?.getD 0

/-- StateHash of R393 over the words of an XS. -/
def hashWords (ws : List Word) : Word :=
  ws.foldl (fun h w => ((h.rotateLeft 5) ^^^ w) * 0x00000100000001B3#64) 0

/-- The words that the hash of R393 takes, in order. -/
def hashInput (g : Group) : List Word :=
  let q := g.xs
  let preds := (List.range 64).foldl (fun acc k => acc + (if q.getPhysP (Fin.ofNat 64 k) then 2 ^ k else 0)) 0
  (List.range 63).map (fun k => q.getX (Fin.ofNat 64 (k + 1)))
    ++ [BitVec.ofNat 64 preds, g.fsr.setWidth 64, BitVec.ofNat 64 g.vrb.val, BitVec.ofNat 64 q.prb.val]
    ++ q.lc.toList.map (fun v => v.setWidth 64)
    ++ (List.range (512 * g.desc.vregs)).map fun k => BitVec.ofNat 64 ((g.lane (2 * k)).toNat + (g.lane (2 * k + 1)).toNat * 2 ^ 32)

end Sys2Proof.Machine
end

