-- ==== Sys2Proof/Machine/Frame.lean ====
section
/-! DEFINITION. Save frames and dumps: the image of R363 to R365 and R381, and whole ranges of memory copied or cleared. Where R364
lists what a section holds but not where in it, the contents stand in the order that R364 names, in the widths of log entry 53; the row group's
state itself is kept whole beside the image. -/

namespace Sys2Proof.Machine

/-- Memory with the range [lo, lo + len) cleared to zero. -/
def clearRange (m : Memory) (lo len : Nat) : Memory := m.filter fun c => c.1 < lo || lo + len ≤ c.1

/-- Memory with the range [src, src + len) copied to [dst, dst + len). -/
def copyRange (m : Memory) (src dst len : Nat) : Memory :=
  writeCells (clearRange m dst len)
    ((m.filter fun c => src ≤ c.1 && c.1 < src + len).map fun c => (c.1 - src + dst, c.2))

/-- The poison of a range copied with it (R354). -/
def copyPoison (p : List Nat) (src dst len : Nat) : List Nat :=
  (p.filter fun w => w * 8 + 8 ≤ dst || dst + len ≤ w * 8)
    ++ ((p.filter fun w => src ≤ w * 8 && w * 8 < src + len).map fun w => (w * 8 - src + dst) / 8)

/-- The state with a range of memory copied. -/
def State.copyMem (s : State) (src dst len : Nat) : State :=
  { s with mem := copyRange s.mem src dst len, poison := copyPoison s.poison src dst len }

/-- The state with a range of memory cleared. -/
def State.clearMem (s : State) (lo len : Nat) : State :=
  { s with mem := clearRange s.mem lo len, poison := s.poison.filter fun w => w * 8 + 8 ≤ lo || lo + len ≤ w * 8 }

/-- A list with the place of each item. -/
def numbered {α : Type} (l : List α) : List (Nat × α) := (List.range l.length).zip l

/-- The bytes of 64-bit words, little-endian. -/
def wordBytes (ws : List Word) : List Byte := ws.flatMap fun w => leBytes 8 w.toNat

/-- A list of bytes padded with zeros to a length. -/
def padTo (n : Nat) (l : List Byte) : List Byte := l.take n ++ List.replicate (n - l.length) 0

/-- A length rounded up to a multiple of 64. -/
def up64 (n : Nat) : Nat := (n + 63) / 64 * 64

/-- NODEID (R82). -/
def nodeId (b : LaunchBank) : Word :=
  BitVec.ofNat 64
    (b.node.toNat % 4096 * 2 ^ 52 + b.inst.toNat * 2 ^ 28 + b.nstages.toNat % 128 * 2 ^ 21 + b.stage.toNat % 64 * 2 ^ 15
      + b.slot.toNat % 128 * 2 ^ 8 + b.width.toNat)

/-- A control register of a core as a sequencer has it (R78). -/
def Core.crWord (k : Core) (side : Side2) (n : Nat) : Word :=
  let g := k.g
  let q := g.seq side
  match n with
  | 0x00 => g.shp
  | 0x01 => g.fcr
  | 0x02 => g.fsr.setWidth 64
  | 0x03 => BitVec.ofNat 64 g.vrb.val
  | 0x04 => BitVec.ofNat 64 q.prb.val
  | 0x05 => (q.lc[(0 : Fin 4)]).setWidth 64
  | 0x06 => (q.lc[(1 : Fin 4)]).setWidth 64
  | 0x07 => (q.lc[(2 : Fin 4)]).setWidth 64
  | 0x08 => (q.lc[(3 : Fin 4)]).setWidth 64
  | 0x09 => g.trapVec
  | 0x0A => g.trapCause.setWidth 64
  | 0x0B => g.trapInfo
  | 0x0C => BitVec.ofNat 64 g.budget
  | 0x0D => BitVec.ofNat 64 g.waitMax
  | 0x0E => nodeId g.bank
  | 0x0F => BitVec.ofNat 64 g.rowBase
  | 0x10 => BitVec.ofNat 64 g.rowCount
  | 0x11 => BitVec.ofNat 64 k.cycle
  | 0x12 => BitVec.ofNat 64 g.retired
  | 0x13 => g.me.pc.setWidth 64
  | 0x14 => g.ch0.pc.setWidth 64
  | 0x15 => g.ch1.pc.setWidth 64
  | 0x16 => BitVec.ofNat 64 g.ch0.wp
  | 0x17 => BitVec.ofNat 64 g.ch1.wp
  | _ => 0

/-- Bytes of a frame, those that the specification leaves open being none. -/
abbrev FrameBytes := List (Option Byte)

/-- Known bytes. -/
def known (l : List Byte) : FrameBytes := l.map some

/-- `n` bytes that are left open. -/
def openBytes (n : Nat) : FrameBytes := List.replicate n none

/-- Words of a section, little-endian. -/
def knownWords (ws : List Nat) : FrameBytes := known (wordBytes (ws.map (BitVec.ofNat 64)))

/-- A section filled up with zeros to a length. -/
def fillTo (n : Nat) (l : FrameBytes) : FrameBytes := l.take n ++ List.replicate (n - l.length) (some 0)

/-- Predicates as a word, Pn in bit n. -/
def predWord (q : Seq) : Word :=
  BitVec.ofNat 64 ((List.range 64).foldl (fun acc k => acc + (if q.getPhysP (Fin.ofNat 64 k) then 2 ^ k else 0)) 0)

/-- Section 0, SCALAR (R364). -/
def scalarSection (g : Group) : FrameBytes :=
  fillTo 1088 (known (wordBytes (g.as_.x.toList ++ g.xs.x.toList ++ [predWord g.as_, predWord g.xs])))

/-- CYCLE as a frame shows it: that of the halt where the core has halted (R363). -/
def Core.frameCycle (k : Core) : Nat := if k.halted.isSome then k.haltAt else k.cycle

/-- The control registers of a sequencer by CRN (R364), as they were at the halt. -/
def crWords (k : Core) (side : Side2) : List Nat :=
  (List.range 32).map fun n =>
    match side with
    | .as => if n ≤ 3 || (9 ≤ n && n ≤ 0x0C) then 0 else ({ k with cycle := k.frameCycle }.crWord .as n).toNat
    | .xs => ({ k with cycle := k.frameCycle }.crWord .xs n).toNat

/-- A loop record as three words: START and END, TOTAL and KERNEL, and RV, RP, ACTIVE and the mark of a handler (R139). -/
def loopWords (l : LoopRec) : List Nat :=
  [l.stop.toNat * 2 ^ 32 + l.start.toNat, l.kernel.toNat * 2 ^ 32 + l.total.toNat,
   bitN l.rv + bitN l.rp * 2 + bitN l.active * 4 + bitN l.handler * 8]

/-- Section 1, CONTROL (R364). -/
def controlSection (k : Core) : FrameBytes :=
  let g := k.g
  fillTo 1024 (knownWords (crWords k .as ++ crWords k .xs ++ [g.as_.pc.toNat, g.xs.pc.toNat] ++ g.as_.loops.toList.flatMap loopWords
    ++ g.xs.loops.toList.flatMap loopWords
    ++ [match g.handler with
        | some h => 2 ^ 32 + h.ret.toNat
        | none => 0, match g.win with
        | some r => 2 ^ 32 + r
        | none => 0]))

/-- Section 2, VREG (R364). -/
def vregSection (g : Group) : FrameBytes := known ((List.range (1024 * g.desc.vregs)).flatMap fun k => leBytes 4 (g.lane k).toNat)

/-- The KIND 3 record of one register's row-block among the lanes of a result (R365). -/
def laneRecord (hd : Nat → Nat → List Word) (tail : Word) (reg : Nat) (lanes : List LaneWrite) : List Byte :=
  let blk := (lanes.headD ⟨0, 0, 0⟩).key % 1024 / 256
  let rows := (List.range 8).foldl (fun acc k =>
    acc + (if lanes.any (fun w => w.key % 1024 / 32 == blk * 8 + k) then 2 ^ k else 0)) 0
  let lns := (lanes.map fun w => w.key % 32 + 1).foldl max 0
  let aux : Word := BitVec.ofNat 64 (lns * 2 ^ 8 + rows)
  wordBytes (hd 3 reg ++ [BitVec.ofNat 64 blk, tail, aux, 0, 0, 0, 0]) ++
    (List.range 256).flatMap fun k =>
      leBytes 4 (((lanes.find? fun (w : LaneWrite) => w.key % 1024 == blk * 256 + k).map LaneWrite.val).getD 0).toNat

/-- The registers that some lanes belong to, each once. -/
def laneRegs (lanes : List LaneWrite) : List Nat :=
  lanes.foldl (fun acc w => if acc.contains (w.key / 1024) then acc else acc ++ [w.key / 1024]) []

/-- The in-flight records of a pending result with the bytes that follow them, `h` being the first issue cycle after the halt; a
result of two registers has a record for each (R365). A write of a control register is no result: it is in effect before any halt (R83).
-/
def pendRecord (xs : Bool) (h : Nat) (p : Pend) : List Byte :=
  let hd : Nat → Nat → List Word := fun kind dest =>
    [BitVec.ofNat 64 (kind * 2 ^ 56 + (p.due - h) % 64 * 2 ^ 48 + (if xs then 2 ^ 47 else 0) + dest * 2 ^ 32 + p.ret % 2 ^ 32)]
  let tail : Word := BitVec.ofNat 64 (p.ten.toNat * 2 ^ 8 + p.flags.toNat)
  match p.dest with
  | .x r => wordBytes (hd 1 r.val ++ [p.val, tail, 0, 0, 0, 0, 0])
  | .p r => wordBytes (hd 2 r.val ++ [p.val, tail, 0, 0, 0, 0, 0])
  | .v lanes => (laneRegs lanes).flatMap fun r => laneRecord hd tail r (lanes.filter fun w => w.key / 1024 = r)
  | .decide site _ _ => wordBytes (hd 4 site.val ++ [0, tail, 0, 0, 0, 0, 0])
  | .rng row st count =>
    wordBytes (hd 5 row ++ [0, tail, 0, st.s0, st.s1, st.s2, st.s3]) ++ padTo 64 (wordBytes [count])
  | .cr _ => []

/-- The KIND 6 record of an AS read that has not returned (R365). -/
def readRecord (g : Group) (r : AsRead) : List Byte :=
  let hd : Nat → Nat → List Word := fun dest ret => [BitVec.ofNat 64 (6 * 2 ^ 56 + dest * 2 ^ 32 + ret % 2 ^ 32)]
  match r with
  | .queue no _ _ ret q addr _ bits sx _ =>
    let pos := (g.queues[q.val]).entries.findIdx fun e => !e.ready && e.fill == no
    let sz := if bits ≤ 8 then 0 else if bits ≤ 16 then 1 else if bits ≤ 32 then 2 else 3
    wordBytes (hd q.val ret ++ [addr, 0, BitVec.ofNat 64 (sz * 2 ^ 8 + (if sx then 2 ^ 7 else 0) + pos % 64), 0, 0, 0, 0])
  | .stream _ _ _ ret ag addr _ => wordBytes (hd (32 + ag.val) ret ++ [addr, 0, 0, 0, 0, 0, 0])
  | .pgref .. => []

/-- Section 3, INFLIGHT (R365). -/
def inflightSection (g : Group) : List Byte :=
  (g.as_.pend.flatMap (pendRecord false g.as_.ic)) ++ (g.xs.pend.flatMap (pendRecord true g.xs.ic))
    ++ g.asReads.flatMap (readRecord g)

/-- An entry of section 4: its head of 64 bytes, with the remaining check count, and the 1,024 bytes of data of a VST entry (R364). -/
def storeRecord (ic : Nat) (e : StoreEntry) : FrameBytes :=
  let a := (e.rows.headD (0, [])).1
  let step := match e.rows with
    | x :: y :: _ => (y.1 - x.1).toNat
    | _ => 0
  let data := e.rows.flatMap Prod.snd
  let size := match e.rows with
    | [] => 0
    | r :: _ => e.rows.length * 2 ^ 8 + r.2.length
  let head := fillTo 64 (knownWords
    [a.toNat, size, if e.vec then step else data.foldr (fun b n => b.toNat + 256 * n) 0, e.due - ic, e.pc.toNat, e.grp, e.blk])
  if e.vec then head ++ fillTo 1024 (e.rows.flatMap fun r => fillTo 128 (known r.2)) else head

/-- The bytes of an entry of a queue in section 5: 8, and 2 for an outcome of Q8, which is what the section's 12,288 bytes leave for its
64 entries (R75, R364; log entry 53). -/
def entryBytes (q : Nat) : Nat := if q = 8 then 2 else 8

/-- Section 5, QUEUES (R364). -/
def queueSection (g : Group) : FrameBytes :=
  fillTo 12288 (known ((numbered g.queues.toList).flatMap fun q =>
    leBytes 8 q.2.entries.length ++ q.2.entries.flatMap fun e => leBytes (entryBytes q.1) e.val.toNat))

/-- A semaphore's name as a sync-object register gives it, the core by its coordinates (R286). -/
def SemName.word (n : SemName) : Nat :=
  bitN n.span * 2 ^ 62 + n.core.val / 128 * 2 ^ 16 + n.core.val / 16 % 8 * 2 ^ 13 + n.core.val % 16 * 2 ^ 9 + n.num.val

/-- A step of a semaphore (R285). -/
def SemUpd.apply (u : SemUpd) (v : BitVec 32) : BitVec 32 :=
  match u with
  | .add d => v + d
  | .set d => d

/-- The value of a semaphore after every step made on it. -/
def Sem.value (m : Sem) : BitVec 32 := m.ups.foldl (fun v st => st.upd.apply v) m.base

/-- A pending release as three words: its semaphore, its update, and its issuer with its paths (R298). -/
def releaseWords (r : Release) : List Nat :=
  [2 ^ 63 + r.obj.word,
   match r.upd with
   | .add v => v.toNat
   | .set v => 2 ^ 32 + v.toNat, r.issuer.code * 2 ^ 16 + r.before.mask.toNat]

/-- A pending token push as three words: its FIFO and the number of the store before which all must be performed (R292). -/
def pushWords (k : Nat) (t : Token) : List Nat :=
  match t with
  | .reserved n => [2 ^ 62 + k, n, 0]
  | .ready _ => []

/-- Section 6, SYNC: the semaphores, the FIFOs' occupancies, the bindings, and the pending releases and pushes (R364). -/
def syncSection (g : Group) : FrameBytes :=
  fillTo 1024 (known (g.sems.toList.flatMap fun m => leBytes 4 m.value.toNat) ++ known (g.fifos.toList.flatMap fun f => leBytes 1 f.toks.length)
    ++ knownWords ((List.range 32).map fun k => match Tab.get none g.binds k with
      | some n => 2 ^ 63 + n.word
      | none => 0)
    ++ knownWords (g.releases.flatMap releaseWords ++ (numbered g.fifos.toList).flatMap fun f => f.2.toks.flatMap (pushWords f.1)))

/-- Section 7, STREAM (R364). -/
def streamSection (g : Group) : FrameBytes := known (g.ags.toList.flatMap fun a => wordBytes a.toList)

/-- The 68 bytes of a command of an engine's queue: its header's ring PC, its counts and its progress (R358, R364). -/
def cmdRecord (c : Cmd) : FrameBytes :=
  let phase := match c.phase with
    | .queued => 1
    | .starting => 1
    | .running => 2
    | .done => 3
  fillTo 68 (knownWords [c.hdrPc.toNat, phase + 16 * bitN c.squashed, c.progress, c.first, c.total, c.left])

/-- What section 8 says of a ring: its PC, publish count, write cursor and write pointer. -/
def ringWords (r : RingState) : List Nat := [r.pc.toNat, r.pub.toNat, r.cursor.toNat, r.wp]

/-- The entries of a ring's queue, filled up to their number. -/
def ringEntries (n : Nat) (r : RingState) : FrameBytes := fillTo (68 * n) (r.queue.flatMap cmdRecord)

/-- The records that a ring holds. -/
def RingState.heldRecs (r : RingState) : List OpRecord := r.records.toList.filterMap id

/-- A held record in 512 bytes: its descriptors, its tag and options, and the pieces of its translation (R242, R364). -/
def opRecordBytes (o : OpRecord) : FrameBytes :=
  let desc : Option (Vector Word 16) → List Nat := fun a =>
    match a with
    | some v => v.toList.map BitVec.toNat
    | none => List.replicate 16 0
  fillTo 512 (knownWords (desc o.src ++ desc o.dst
    ++ [2 ^ 63 + bitN o.dst.isSome * 2 ^ 62 + bitN o.src.isSome * 2 ^ 61 + o.opt.toNat * 2 ^ 16 + o.tag.toNat]
    ++ o.pieces.flatMap fun p => [p.lo.toNat, p.len, p.key]))

/-- Section 8, RINGS (R364). -/
def ringSection (g : Group) : FrameBytes :=
  knownWords ([g.me, g.ch0, g.ch1].flatMap ringWords) ++ ringEntries 16 g.me ++ ringEntries 4 g.ch0 ++ ringEntries 4 g.ch1
    ++ ([g.me, g.ch0, g.ch1].flatMap RingState.heldRecs).flatMap opRecordBytes

/-- A bank's status word (R255). -/
def bankStatusWord (b : BankStatus) : Nat :=
  match b with
  | .free => 0
  | .redundant t => 1 + t.val * 4
  | .canonical t => 2 + t.val * 4

/-- A state word as 128 bits (R173). -/
def TileState.toBits (t : TileState) : Nat :=
  t.rowInv.toNat * 2 ^ 64 + t.colInv.toNat * 2 ^ 16 + (t.anchor % 1024).toNat * 2 ^ 6 + (if t.aset then 32 else 0)
    + (if t.aovf then 16 else 0)

/-- A state word from its 128 bits (R173). -/
def TileState.ofBits (n : Nat) : TileState :=
  { rowInv := BitVec.ofNat 64 (n / 2 ^ 64), colInv := BitVec.ofNat 48 (n / 2 ^ 16), anchor := sext 10 (fld n 6 10),
    aset := bit n 5, aovf := bit n 4 }

/-- The 2,080 bytes of a bank's image (R272). -/
def bankImage (g : Group) (k : Nat) : List Byte :=
  let b := Tab.get Bank.free g.banks k
  leBytes 16 b.tile.toBits ++ leBytes 8 (bankStatusWord b.status) ++ leBytes 8 0 ++
    (List.range 128).flatMap fun j => leBytes 16 (Tab.get 0 g.acc (k * 128 + j)).toNat

/-- The banks that are not free, in order. -/
def heldBanks (g : Group) : List Nat := (g.banks.filter fun e => e.2.status != .free).map Prod.fst

/-- Section 9, BANKS (R364). -/
def bankSection (g : Group) : FrameBytes :=
  known (leBytes 64 ((heldBanks g).foldl (fun acc k => acc + 2 ^ k) 0) ++ (heldBanks g).flatMap (bankImage g))

/-- Section 10, EPILOGUE: the registers in order and the heaps; its length leaves the heaps' sizes 32 bytes, which are too few for 64
counts of up to 64, so that their coding is open (R275, R277, R364; log entry 53). -/
def epilogueSection (e : Epilogue) : FrameBytes :=
  known ([e.ctl.toNat, e.rsAddr, e.biasAddr, e.clampLo.toNat, e.clampHi.toNat, e.row0 * 2 ^ 22 + e.tok0 * 2 ^ 6, e.idBase.toNat,
      e.tkCap].flatMap (leBytes 4))
    ++ openBytes 32
    ++ (List.range 64).flatMap fun r => fillTo 512 (known ((Tab.get [] e.heaps r).flatMap fun c => leBytes 4 c.1.toNat ++ leBytes 4 c.2.toNat))

/-- Section 11, SLOTS: 32 bytes for each slot (R223, R364). -/
def slotSection (g : Group) : FrameBytes :=
  knownWords ((List.range 256).flatMap fun k =>
    let x := Tab.get Slot.empty g.slots k
    [bitN x.held * 2 ^ 63 + bitN x.sram * 2 ^ 62 + bitN x.shared * 2 ^ 61 + x.row * 2 ^ 26 + x.page * 2 ^ 8 + x.gen.val,
     x.gpn * 2 ^ 22 + x.vlen * 2 ^ 11 + x.hm, x.loc.toNat, 0])

/-- A row's entry of the row table as two words: its probe set, its steering set if it has one bound, and TRAPPED-here; then its steering
coefficients (R309, R313; log entry 53). -/
def rowTableWords (g : Group) (r : Nat) : List Nat :=
  match g.tapTable.filter fun (b : TapBind) => b.row = r with
  | [] => [bitN (g.trappedRows.contains r) * 2 ^ 63, 0]
  | b :: l =>
    let steer : Nat := match (b :: l).findSome? TapBind.steer with
      | some e => 2 ^ 14 + e.1 % 64 * 2 ^ 8
      | none => 0
    [bitN (g.trappedRows.contains r) * 2 ^ 63 + steer + b.probeSet.toNat, b.coefs.toNat]

/-- Section 12, SECTOR: the state of the eight sites, and the row table (R313, R364). -/
def sectorSection (g : Group) : FrameBytes :=
  if g.desc.ntaps = 0 then []
  else
    known (g.sites.toList.flatMap fun t => leBytes 4 t.chunk ++ leBytes 4 t.tcur ++ leBytes 4 t.e ++ leBytes 4 t.ahead)
      ++ knownWords ((List.range g.rowCount).flatMap (rowTableWords g))

/-- Section 13, ROWS: the fixed mark with its cut, and TRAPPED-here (R332, R364). -/
def rowsSection (g : Group) : FrameBytes :=
  knownWords ((List.range g.rowCount).map fun r =>
    (match g.fixedRows.lookup r with
     | some cut => 2 ^ 63 + cut
     | none => 0) + bitN (g.trappedRows.contains r) * 2 ^ 62)

/-- The two words of a store-fault record as FRQPOP gives them (R350), LOST apart. -/
def FaultRec.words (r : FaultRec) : Word × Word :=
  (r.addr, BitVec.ofNat 64 (2 ^ 63 + bitN r.vec * 2 ^ 61 + r.blk % 8 * 2 ^ 58 + r.cause * 2 ^ 48 + r.pc.toNat % 65536 * 2 ^ 32 + r.grp % 2 ^ 32))

/-- Section 14, FAULTQ: the records as FRQPOP would give them, then LOST (R349, R364). -/
def faultSection (g : Group) : FrameBytes :=
  fillTo 192 (fillTo 128 (known (wordBytes (g.faultQ.flatMap fun r => [r.words.1, r.words.2]))) ++ knownWords [bitN g.faultLost])

/-- The sections of a core's frame in order, each of whole 64 bytes (R364, R365). -/
def frameSections (k : Core) : List FrameBytes :=
  let g := k.g
  [scalarSection g, controlSection k, vregSection g, known (inflightSection g), g.storeQ.flatMap (storeRecord g.xs.ic), queueSection g,
   syncSection g, streamSection g, ringSection g, bankSection g, epilogueSection g.epi, slotSection g, sectorSection g, rowsSection g,
   faultSection g].map fun b => fillTo (up64 b.length) b

/-- Bytes of a frame, those left open being free values from the n-th on. -/
def freeBytes (n : Nat) (l : FrameBytes) : List Byte := ((List.range l.length).zip l).map fun e => e.2.getD (Config.frameByte (n + e.1))

/-- The (offset, length) pairs of sections laid out from an offset (R363, R364). -/
def sectionPlaces : Nat → List FrameBytes → List (Nat × Nat)
  | _, [] => []
  | off, b :: rest => (off, b.length) :: sectionPlaces (off + b.length) rest

/-- The frame header (R363); CYCLE is that of the halt where the core has halted. -/
def frameHeader (k : Core) (c : CoreId) (kind len : Nat) (secs : List (Nat × Nat)) : List Byte :=
  let b := k.g.bank
  padTo 256 (wordBytes
    ([BitVec.ofNat 64 (1 * 2 ^ 16 + 15),
      BitVec.ofNat 64 (b.inst.toNat * 2 ^ 40 + b.pd.toNat * 2 ^ 24 + kind * 2 ^ 16 + b.node.toNat),
      BitVec.ofNat 64 (len * 2 ^ 32 + c.val), BitVec.ofNat 64 k.g.retired,
      BitVec.ofNat 64 k.frameCycle, 0, 0, 0]
      ++ secs.map fun e => BitVec.ofNat 64 (e.1 * 2 ^ 32 + e.2)))

/-- The state with the frame of core `c` written at device address `addr` (R363, R364). -/
def State.writeFrame (s : State) (c : CoreId) (kind : Nat) (addr : Nat) : State :=
  let k := s.coreAt c
  let secs := frameSections k
  let body := freeBytes s.fresh secs.flatten
  let len := 256 + body.length
  let bytes := frameHeader k c kind len (sectionPlaces 256 secs) ++ body
  let s := s.clearMem (devKey addr) len
  { s with mem := writeCells s.mem ((List.range len).zip bytes |>.map fun e => (devKey (addr + e.1), e.2)), fresh := s.fresh + len }

/-- The cluster of a core, in the package. -/
def clusterOf (c : CoreId) : Fin 32 := Fin.ofNat 32 (c.val / 16)

/-- Write a dump of core `c` into a free frame of its die's pool (R381): the state and the DUMPID, 0xFFFF when none is free. -/
def State.dump (s : State) (c : CoreId) (kind : Nat) : State × BitVec 16 :=
  let d := c.val / 128
  let pool := s.dumpPool[dieOf c]
  match (List.range pool.2).find? fun f => !s.dumpUsed.contains (d * 256 + f) with
  | none => (s, 0xFFFF)
  | some f =>
    let addr := pool.1.toNat + f * 0x600000
    let s1 := s.writeFrame c kind addr
    let parts := (s.coreAt c).g.desc.parts
    let s2 := (List.range 4).foldl (fun s k =>
      if parts.getLsbD k then
        s.copyMem (sramKey c (k * 0x100000)) (devKey (addr + 0x200000 + k * 0x100000)) 0x100000
      else s) s1
    ({ s2 with dumpUsed := s2.dumpUsed ++ [d * 256 + f] }, BitVec.ofNat 16 (d * 256 + f))

end Sys2Proof.Machine
end

