-- ==== Sys2Proof/Machine/Ag.lean ====
section
/-! DEFINITION. Streams and commands as they stand by themselves: stream descriptors (R233 to R235) with their fields, validity, places and
footprints; the parts of a command and the kinds of its arguments (R116, R117, R242); and the accesses that a command has still to
make (R295, R298). -/

namespace Sys2Proof.Machine

/-! ## Descriptors (R233) -/

/-- A stream descriptor: sixteen 64-bit words. -/
abbrev Ag := Vector Word 16

/-- Word `k` of a descriptor. -/
def agWord (a : Ag) (k : Nat) : Nat := (a[Fin.ofNat 16 k]).toNat

/-- BASE. -/
def agBase (a : Ag) : Word := a[0]
/-- NDIM. -/
def agNdim (a : Ag) : Nat := fld (agWord a 1) 60 4
/-- EW. -/
def agEw (a : Ag) : Nat := fld (agWord a 1) 56 4
/-- SCM. -/
def agScm (a : Ag) : Nat := fld (agWord a 1) 54 2
/-- The block length, BLKM1 + 1. -/
def agBlk (a : Ag) : Nat := fld (agWord a 1) 45 9 + 1
/-- WEN. -/
def agWen (a : Ag) : Bool := bit (agWord a 1) 44
/-- WDIM. -/
def agWdim (a : Ag) : Nat := fld (agWord a 1) 40 4
/-- WOFF. -/
def agWoff (a : Ag) : Nat := fld (agWord a 1) 20 20
/-- WMOD. -/
def agWmod (a : Ag) : Nat := fld (agWord a 1) 0 20
/-- COUNTk. -/
def agCount (a : Ag) (k : Nat) : Nat := fld (agWord a (2 + k)) 40 24
/-- STRIDEk, signed. -/
def agStride (a : Ag) (k : Nat) : Int := sext 40 (fld (agWord a (2 + k)) 0 40)
/-- SCBASE. -/
def agScBase (a : Ag) : Word := a[12]
/-- BMBASE. -/
def agBmBase (a : Ag) : Word := a[13]
/-- SCSTRIDE. -/
def agScStride (a : Ag) : Nat := fld (agWord a 14) 32 32
/-- BMSTRIDE. -/
def agBmStride (a : Ag) : Nat := fld (agWord a 14) 0 32
/-- POS. -/
def agPos (a : Ag) : Nat := fld (agWord a 15) 0 48

/-- The width in bits that EW names (R233). -/
def ewBits (ew : Nat) : Nat :=
  match ew with
  | 0 => 4
  | 1 => 6
  | 2 => 8
  | 3 => 16
  | 4 => 32
  | _ => 64

/-- The element width of a stream. -/
def agBits (a : Ag) : Nat := ewBits (agEw a)

/-- The elements of a stream: the product of its counts (R234). -/
def agTotal (a : Ag) : Nat := (List.range (agNdim a)).foldl (fun n k => n * agCount a k) 1

/-- The size SB of a row's scale area (R234). -/
def agScaleBytes (a : Ag) : Nat :=
  let c := agCount a 0
  match agScm a with
  | 1 => (9 * ((c + 7) / 8) + 7) / 8
  | 2 => (9 * ((c + agBlk a - 1) / agBlk a) + 7) / 8
  | 3 => (c + agBlk a - 1) / agBlk a
  | _ => 0

/-- The size of a row's bitmap (R234). -/
def agBitmapBytes (a : Ag) : Nat := if agScm a = 1 then (agCount a 0 + 7) / 8 else 0

/-- Is a stream valid (R235). -/
def agValid (a : Ag) : Bool :=
  let n := agNdim a
  let w := agBits a
  let scOk := agScm a = 0 ||
    (w ≤ 8 && (!agWen a || 1 ≤ agWdim a) && agScaleBytes a ≤ agScStride a
      && (agScm a != 1 || (agCount a 0 + 7) / 8 ≤ agBmStride a))
  let narrowOk := 8 ≤ w ||
    (agStride a 0 = 1 && (!agWen a || 1 ≤ agWdim a) && w * agCount a 0 % 8 = 0
      && ((List.range 10).drop 1).all fun k => (w : Int) * agStride a k % 8 = 0)
  1 ≤ n && n ≤ 10 && agEw a ≤ 5 && ((List.range n).all fun k => 1 ≤ agCount a k)
    && (!agWen a || (agWdim a < n && 1 ≤ agWmod a && agWoff a < agWmod a)) && narrowOk && scOk

/-- Eff(k, i) of R234. -/
def agEff (a : Ag) (k i : Nat) : Nat := if agWen a && k = agWdim a then (i + agWoff a) % agWmod a else i

/-- Radix(k) of R234. -/
def agRadix (a : Ag) (k : Nat) : Nat := if agWen a && k = agWdim a then agWmod a else agCount a k

/-- The index vector of the element at a sequence position, dimension 0 first (R234). -/
def agIndex (a : Ag) : Nat → Nat → Nat → List Nat
  | 0, _, _ => []
  | n + 1, k, p => p % agCount a k :: agIndex a n (k + 1) (p / agCount a k)

/-- Bits(i) of R234. -/
def agBitOff (a : Ag) (idx : List Nat) : Int :=
  ((List.range idx.length).zip idx).foldl (fun acc e => acc + (agEff a e.1 e.2 : Int) * agStride a e.1) 0 * (agBits a : Int)

/-- Place of the element at a sequence position: its byte address and the bit it starts at (R234). -/
def agPlace (a : Ag) (p : Nat) : Word × Nat :=
  let b := agBitOff a (agIndex a (agNdim a) 0 p)
  (agBase a + BitVec.ofInt 64 (b / 8), (b % 8).toNat)

/-- The bytes that an element's bits touch, from a bit of its first byte. -/
def elemBytes (bitOff w : Nat) : Nat := (bitOff + w + 7) / 8

/-- Row(i) of R234, from an index vector. -/
def agRow (a : Ag) (idx : List Nat) : Nat :=
  (((List.range idx.length).zip idx).drop 1).foldl
    (fun (acc : Nat × Nat) e => (acc.1 + agEff a e.1 e.2 * acc.2, acc.2 * agRadix a e.1)) (0, 1) |>.1

/-- The row that holds the element at a sequence position. -/
def agRowOf (a : Ag) (p : Nat) : Nat := agRow a (agIndex a (agNdim a) 0 p)

/-- The address of a row's scale area (R234). -/
def agScaleArea (a : Ag) (row : Nat) : Word := agScBase a + BitVec.ofNat 64 (row * agScStride a)

/-- The address of a row's bitmap (R234). -/
def agBitmapArea (a : Ag) (row : Nat) : Word := agBmBase a + BitVec.ofNat 64 (row * agBmStride a)

/-- The least and greatest effective index of a dimension (R235). -/
def agRange (a : Ag) (k : Nat) : Nat × Nat :=
  if agWen a && k = agWdim a then
    (if agWoff a + agCount a k - 1 < agWmod a then (agWoff a, agWoff a + agCount a k - 1) else (0, agWmod a - 1))
  else (0, agCount a k - 1)

/-- The offsets in bytes from BASE of the lowest and the highest element byte (R235). -/
def agSpan (a : Ag) : Int × Int :=
  let w : Int := agBits a
  let step : Int × Int → Nat → Int × Int := fun acc k =>
    let r := agRange a k
    let x := (r.1 : Int) * agStride a k
    let y := (r.2 : Int) * agStride a k
    (acc.1 + min x y, acc.2 + max x y)
  let b := (List.range (agNdim a)).foldl step (0, 0)
  (b.1 * w / 8, (b.2 * w + w - 1) / 8)

/-- The least and greatest row number (R234, R235). -/
def agRowSpan (a : Ag) : Nat × Nat :=
  (((List.range (agNdim a)).drop 1).foldl
    (fun (acc : (Nat × Nat) × Nat) k =>
      ((acc.1.1 + (agRange a k).1 * acc.2, acc.1.2 + (agRange a k).2 * acc.2), acc.2 * agRadix a k)) ((0, 0), 1)).1

/-- The element footprint: its first address and its length (R235). -/
def agElemFoot (a : Ag) : Word × Nat :=
  let b := agSpan a
  (agBase a + BitVec.ofInt 64 b.1, (b.2 - b.1 + 1).toNat)

/-- The footprint of the scale areas and of the bitmaps (R235). -/
def agSideFoot (a : Ag) : List (Word × Nat) :=
  let r := agRowSpan a
  (if agScm a = 0 then [] else [(agScaleArea a r.1, (r.2 - r.1) * agScStride a + agScaleBytes a)])
    ++ (if agScm a = 1 then [(agBitmapArea a r.1, (r.2 - r.1) * agBmStride a + agBitmapBytes a)] else [])

/-- A stream's footprint (R235). -/
def agFoot (a : Ag) : List (Word × Nat) := agElemFoot a :: agSideFoot a

/-! ## Commands -/

/-- The header of a command (R116). -/
def cmdHdr (i : Instr) : CmdHdr :=
  match commandParts i with
  | some (_, _, h, _) => h
  | none => CmdHdr.empty

/-- The CMDOP of a command (R117). -/
def cmdOp (i : Instr) : Nat :=
  match commandParts i with
  | some (_, op, _, _) => op
  | none => 0

/-- The own arguments of a command. -/
def cmdArgs (i : Instr) : List Lane :=
  match commandParts i with
  | some (_, _, _, a) => a
  | none => []

/-- The kinds of a command's own arguments (R242, R245, R263). -/
inductive ArgKind where
  | value | t | d | i | m
  deriving DecidableEq, Repr

/-- The step engine that fetches from a ring. -/
def ringStep (r : Ring) : StepEngine :=
  match r with
  | .me => .me
  | _ => .channel

/-- The kinds of the own arguments of a CMDOP on a ring; none for a CMDOP that is not assigned there. -/
def argKinds (r : Ring) (op : Nat) : List ArgKind :=
  match ringStep r with
  | .me =>
    [[], [.value, .m, .m], [.value, .m, .m, .value], [.value], [.value], [.value, .value], [.value, .d], [.value, .d],
     [.value, .d], [.value, .d], [.value, .m], [.value, .value], [.value, .value], [.value, .value], [.value]].getD op []
  | _ => [[], [.t], [.t, .i], [.t, .i], [.d, .value], [.t], [.t, .d], [.t, .d], [.value]].getD op []

/-- How many elements make whole bytes (R235). -/
def bundle (w : Nat) : Nat :=
  match w with
  | 4 => 2
  | 6 => 4
  | _ => 1

/-- The memory key of the ring word at a count (R96). -/
def ringKey (c : CoreId) (q : RingState) (n : BitVec 32) : Nat := sramKey c (q.base + 4 * (n.toNat % 2 ^ q.log2n))

/-- A quotient rounded up. -/
def ceilDiv (a b : Nat) : Nat := (a + b - 1) / b

/-- The epilogue after EPCFG (R275). -/
def Epilogue.configure (e : Epilogue) (reg : Nat) (v : Lane) : Epilogue :=
  match reg with
  | 0 => { e with ctl := v.setWidth 6 }
  | 1 => { e with rsAddr := v.toNat }
  | 2 => { e with biasAddr := v.toNat }
  | 3 => { e with clampLo := v }
  | 4 => { e with clampHi := v }
  | 5 => { e with row0 := fld v.toNat 22 10, tok0 := fld v.toNat 6 16 }
  | 6 => { e with idBase := v }
  | _ => { e with tkCap := v.toNat, heaps := e.heaps.map fun h => (h.1, h.2.take v.toNat) }

/-! ## The accesses that a command has still to make (R295, R298) -/

/-- The bytes of the element at a sequence position. -/
def agElem (a : Ag) (p : Nat) : Word × Nat :=
  let pl := agPlace a p
  (pl.1 + BitVec.ofNat 64 (pl.2 / 8), elemBytes (pl.2 % 8) (agBits a))

/-- The scale areas and bitmaps of the rows that end at or after a sequence position. -/
def agSideRest (a : Ag) (p : Nat) : List (Word × Nat) :=
  if agScm a = 0 then []
  else
    ((List.range (agTotal a / agCount a 0)).filter fun r => p < (r + 1) * agCount a 0).flatMap fun r =>
      let row := agRowOf a (r * agCount a 0)
      [(agScaleArea a row, agScaleBytes a), (agBitmapArea a row, agBitmapBytes a)]

/-- The bytes of a stream from a sequence position on. -/
def agRest (a : Ag) (p : Nat) : List (Word × Nat) :=
  (((List.range (agTotal a)).filter fun q => p ≤ q).map (agElem a)) ++ agSideRest a p

/-- The bytes of a matrix operand from an index along K on (R267). -/
def agRestK (a : Ag) (k : Nat) : List (Word × Nat) :=
  (((List.range (agTotal a)).filter fun q => k ≤ q % agCount a 0).map (agElem a)) ++ agSideRest a 0

/-- How many values of k one step of an MMA takes (R267). -/
def kStep : Nat := 256

/-- The ranges that a command has still to read or write through its records, `done` of its `units` units being over. Which rows a GATHER
reads or a SCATTER writes is known only as their indices are read, so all of that stream counts until then (log entry 76). -/
def cmdRest (i : Instr) (units done : Nat) (os : List OpRecord) : List (Word × Nat) :=
  let src : Nat → Option Ag := fun k => (os[k]?).bind OpRecord.src
  let dst : Nat → Option Ag := fun k => (os[k]?).bind OpRecord.dst
  let rest : Option Ag → (Ag → Nat) → List (Word × Nat) := fun a p =>
    match a with
    | some x => agRest x (p x)
    | none => []
  let packed : Ag → Nat := fun a => done * bundle (agBits a)
  let index : Nat → List (Word × Nat) := fun c => rest (src 1) fun a => ceilDiv (packed a) c
  match i with
  | .copy .. => rest (src 0) packed ++ rest (dst 0) packed
  | .gather .. => rest (src 0) (fun _ => 0) ++ rest (dst 0) packed ++ index (((src 0).map fun a => agCount a 0).getD 1)
  | .scatter .. => rest (src 0) packed ++ rest (dst 0) (fun _ => 0) ++ index (((dst 0).map fun a => agCount a 0).getD 1)
  | .fill .. => rest (dst 0) packed
  | .accw .. => rest (src 0) (fun _ => done) ++ rest (dst 0) fun _ => done
  | .fetchop .. => rest (src 0) (fun _ => done) ++ rest (dst 0) (fun _ => done) ++ rest (dst 1) fun _ => done
  | .cas .. => rest (src 0) (fun _ => 2 * done) ++ rest (dst 0) (fun _ => done) ++ rest (dst 1) fun _ => done
  | .mma .. | .mmar .. =>
    [src 0, src 1].flatMap fun a =>
      match a with
      | some x => agRestK x (kStep * (done - (units - ceilDiv (agCount x 0) kStep)))
      | none => []
  | .drain .. => rest (dst 0) fun a => done * agCount a 0
  | .topk .. => rest (dst 0) fun _ => done
  | .accspill .. => rest (dst 0) fun _ => 260 * done
  | .accfill .. => rest (src 0) fun _ => 260 * done
  | .acccmp .. => rest (dst 0) fun _ => 0
  | _ => []

end Sys2Proof.Machine
end

