-- ==== Sys2Proof/Machine/Ops.lean ====
section
/-! DEFINITION. The named operations that the instructions share: waits and their records, regions and address translation,
queues, semaphores, tokens, releases, row traps and the end of a row group, and taking an exception and returning from one. -/

namespace Sys2Proof.Machine

/-! ## Addresses and regions (R148, R211, R216, R217, R219) -/

/-- The space of an address: 0 global SRAM, 1 handle, 2 KV, 3 local alias (R211). -/
def spaceOf (a : Word) : Nat := a.toNat / 2 ^ 62

/-- Has an address zeros where its layout requires them (R211). -/
def layoutOk (a : Word) : Bool :=
  match spaceOf a with
  | 0 => a.toNat < 2 ^ 31
  | 1 => true
  | 2 => true
  | _ => a.toNat % 2 ^ 62 < 2 ^ 22

/-- The core that a global SRAM address names (R211). -/
def globalCore (a : Word) : CoreId := Fin.ofNat 512 (a.toNat / 2 ^ 22)

/-- The local offset of an address that is local to core `c` (R148). -/
def localOff (c : CoreId) (a : Word) : Option Nat :=
  match spaceOf a with
  | 0 => if layoutOk a && globalCore a = c then some (a.toNat % 2 ^ 22) else none
  | 3 => if layoutOk a then some (a.toNat % 2 ^ 22) else none
  | _ => none

/-- The address in the local alias of a local offset. -/
def aliasAddr (off : Nat) : Word := BitVec.ofNat 64 (3 * 2 ^ 62 + off)

/-- The global SRAM address of a core's offset. -/
def globalAddr (c : CoreId) (off : Nat) : Word := BitVec.ofNat 64 (sramKey c off)

/-- Does a region hold the bytes [a, a + n), compared as numbers (R17). -/
def Region.holds (r : Region) (a : Word) (n : Nat) : Bool :=
  r.base.toNat ≤ a.toNat && a.toNat + n ≤ r.base.toNat + r.extent

/-- An access as a region sees it. -/
inductive Acc where
  | read | write | both
  deriving DecidableEq, Repr

/-- Does a region's ACC include an access (R17). -/
def Region.allows (r : Region) (acc : Acc) : Bool :=
  match acc with
  | .read => r.read
  | .write => r.write
  | .both => r.read && r.write

/-- The forms of an address that one byte has: a local byte has its alias and its global address (R148). -/
def addrForms (c : CoreId) (a : Word) : List Word :=
  match localOff c a with
  | some off => [aliasAddr off, globalAddr c off]
  | none => [a]

/-- CheckRegion of R148. -/
def checkRegion (g : Group) (c : CoreId) (a : Word) (n : Nat) (acc : Acc) : Bool :=
  layoutOk a && g.desc.regions.any fun r => r.allows acc && (addrForms c a).any fun f => r.holds f n

/-- The bytes lie in some declared region, whatever its access (R149). -/
def inAnyRegion (g : Group) (c : CoreId) (a : Word) (n : Nat) : Bool :=
  layoutOk a && g.desc.regions.any fun r => (addrForms c a).any fun f => r.holds f n

/-- InRowArea of R148: the first 128 KiB of the lowest-numbered declared partition (R21). -/
def inRowArea (g : Group) (c : CoreId) (a : Word) (n : Nat) : Bool :=
  match localOff c a with
  | some off => g.rowBase ≤ off && off + n ≤ g.rowBase + 0x20000
  | none => false

/-- The permission that an access needs of a handle (R217). -/
inductive HAcc where
  | read | write | atomic
  deriving DecidableEq, Repr

/-- The shift of a handle's page size (R216). -/
def pageShift (pgsz : Nat) : Nat :=
  match pgsz with
  | 0 => 16
  | 1 => 21
  | 2 => 28
  | _ => 33

/-- The memory key of a target address of a handle's KIND (R216). -/
def targetKey (kind pkg t : Nat) : Nat :=
  match kind with
  | 0 => devKey t
  | 1 => poolKey t
  | _ => pkgKey pkg t

/-- Translate of R217 for one byte: its memory key, or none where HANDLE_BOUNDS is raised. -/
def State.translate (s : State) (pd : BitVec 12) (acc : HAcc) (a : Word) : Option Nat :=
  let e := (Tab.get 0 s.htbase pd.toNat).toNat + 32 * (a.toNat / 2 ^ 48 % 16384)
  let w0 := readLE s.mem (devKey e) 8
  let off := a.toNat % 2 ^ 48
  let perm := match acc with
    | .read => bit w0 58
    | .write => bit w0 57
    | .atomic => bit w0 56
  let reserved := fld w0 48 2 != 0 || readLE s.mem (devKey (e + 24)) 8 != 0 || fld w0 61 2 == 3
  if !bit w0 63 || reserved || off + 1 > fld w0 0 48 || !perm then none
  else
    let pl := readLE s.mem (devKey (e + 16)) 8
    let sh := pageShift (fld w0 59 2)
    let t := if pl = 0 then readLE s.mem (devKey (e + 8)) 8 + off
      else readLE s.mem (devKey (pl + 8 * (off / 2 ^ sh))) 8 + off % 2 ^ sh
    some (targetKey (fld w0 61 2) (fld w0 50 6) (t % 2 ^ 64))

/-- Does a handle address name a remote package (R216). -/
def State.remote (s : State) (pd : BitVec 12) (a : Word) : Bool :=
  fld (readLE s.mem (devKey ((Tab.get 0 s.htbase pd.toNat).toNat + 32 * (a.toNat / 2 ^ 48 % 16384))) 8) 61 2 == 2

/-- Translate of R217 for a path that is no copy channel: a remote package is reached by the copy channels only (R45), and raises
HANDLE_BOUNDS elsewhere (log entry 99; DEDUCED). -/
def State.translateHere (s : State) (pd : BitVec 12) (acc : HAcc) (a : Word) : Option Nat :=
  if s.remote pd a then none else s.translate pd acc a

/-- The device address of a poisoned byte of the handle table's entry for a range, or of the page-list words that its translation reads
(R217, R354; log entry 101): none where the address is no handle address. -/
def State.tablePoison (s : State) (pd : BitVec 12) (a : Word) (n : Nat) : Option Nat :=
  if s.poison.isEmpty || spaceOf a != 1 then none
  else
    let e := (Tab.get 0 s.htbase pd.toNat).toNat + 32 * (a.toNat / 2 ^ 48 % 16384)
    match s.poisonAt (devKey e) 32 with
    | some k => some (k - devKey 0)
    | none =>
      let w0 := readLE s.mem (devKey e) 8
      let pl := readLE s.mem (devKey (e + 16)) 8
      let off := a.toNat % 2 ^ 48
      let sh := pageShift (fld w0 59 2)
      if pl = 0 || !bit w0 63 || fld w0 0 48 < off + n then none
      else (s.poisonAt (devKey (pl + 8 * (off / 2 ^ sh))) (8 * ((off + n - 1) / 2 ^ sh - off / 2 ^ sh + 1))).map (· - devKey 0)

/-- The owner tag of the quarter that holds an offset of a core (R214). -/
def ownerAt (k : Core) (off : Nat) : Owner := k.owner[(Fin.ofNat 16 (off / 0x40000)).val]

/-- The offsets of a core that its rings occupy: those of the row group on it (R96). -/
def ringHolds (g : Group) (off : Nat) : Bool :=
  g.run.isSome &&
    [g.me, g.ch0, g.ch1].any fun r => r.base ≤ off && off < r.base + 4 * 2 ^ r.log2n

/-- Does the row area of the row group on a core hold an offset (R21). -/
def rowsHold (g : Group) (off : Nat) : Bool := g.run.isSome && g.rowBase ≤ off && off < g.rowBase + 0x20000

/-- Is an offset one that no write at a port changes: a ring word (R96), or a byte of the row area, which only the hardware's own updates
change (R21; log entry 98; DEDUCED). -/
def portHolds (g : Group) (off : Nat) : Bool := ringHolds g off || rowsHold g off

/-- The groups whose rings and row areas may occupy an offset of a core: the one on it, and those saved from it whose partition at the
offset has not been evicted (R96, R368). -/
def State.groupsOf (s : State) (c : CoreId) (off : Nat) : List Group :=
  (s.coreAt c).g :: (s.saved.filter fun f => f.core = c && !f.evicted.getLsbD (off / 0x100000)).map (·.g)

/-- Is an access through a global address one of a quarter of another owner (R214). -/
def State.foreign (s : State) (c : CoreId) (global : Bool) (pd : BitVec 12) (off : Nat) : Bool :=
  global && ownerAt (s.coreAt c) off != .pd pd

/-- Is a write to an offset of core `c` discarded at its port: a ring word (R96), a byte of a row area (R21), or, through a global
address, a quarter of another owner (R214). -/
def State.portRefuses (s : State) (c : CoreId) (global : Bool) (pd : BitVec 12) (off : Nat) : Bool :=
  (s.groupsOf c off).any (portHolds · off) || s.foreign c global pd off

/-- The state with the discard counter of a core advanced (R214, R289). -/
def State.countDiscard (s : State) (c : CoreId) : State :=
  s.setCoreAt c { s.coreAt c with discards := (s.coreAt c).discards + 1 }

/-- Bytes reaching the scratchpad port of core `c`: those refused are discarded and counted once (R21, R96, R214). -/
def State.portWrite (s : State) (c : CoreId) (global : Bool) (pd : BitVec 12) (cells : List (Nat × Byte)) : State :=
  let kept := cells.filter fun e => !s.portRefuses c global pd (e.1 % 4194304)
  let s := s.writeMem kept
  if kept.length < cells.length then s.countDiscard c else s

/-- A byte read through a global SRAM address: zero when the quarter is another owner's (R214). -/
def State.globalByte (s : State) (pd : BitVec 12) (a : Word) : Byte :=
  let c := globalCore a
  if ownerAt (s.coreAt c) (a.toNat % 2 ^ 22) = .pd pd then readByte s.mem a.toNat else 0

/-- A byte that a path of core `c` reads at an address: local, global SRAM, or handle space (R212). -/
def State.readAddr (s : State) (c : CoreId) (pd : BitVec 12) (a : Word) : Byte :=
  match spaceOf a with
  | 0 => if layoutOk a then s.globalByte pd a else 0
  | 1 =>
    match s.translateHere pd .read a with
    | some key => readByte s.mem key
    | none => 0
  | 3 => readByte s.mem (sramKey c (a.toNat % 2 ^ 22))
  | _ => 0

/-- A read of `n` bytes at an address, counted at its port where it is a global SRAM address and meets a quarter of another owner
(R214). -/
def State.countRead (s : State) (pd : BitVec 12) (a : Word) (n : Nat) : State :=
  let foreign : Nat → Bool := fun k =>
    let b := a + BitVec.ofNat 64 k
    layoutOk b && ownerAt (s.coreAt (globalCore b)) (b.toNat % 2 ^ 22) != .pd pd
  if spaceOf a = 0 && (List.range n).any foreign then s.countDiscard (globalCore a) else s

/-- Reads of `n` bytes at each of a list of addresses, counted (R214). -/
def State.countReads (s : State) (pd : BitVec 12) (n : Nat) (l : List Word) : State := l.foldl (fun s a => s.countRead pd a n) s

/-- `n` bytes read at an address, as a little-endian number. -/
def State.readAddrLE (s : State) (c : CoreId) (pd : BitVec 12) (a : Word) : Nat → Nat
  | 0 => 0
  | n + 1 => (s.readAddr c pd a).toNat + 256 * State.readAddrLE s c pd (a + 1) n

/-- The memory key of an address of core `c`, for an access of a sequencer, through a handle with a permission. -/
def State.keyOf (s : State) (c : CoreId) (pd : BitVec 12) (acc : HAcc) (a : Word) : Option Nat :=
  match spaceOf a with
  | 0 => if layoutOk a then some a.toNat else none
  | 1 => s.translateHere pd acc a
  | 3 => if layoutOk a then some (sramKey c (a.toNat % 2 ^ 22)) else none
  | _ => none

/-! ## Wait records (R383 to R385) -/

/-- The state with a wait record or flow record of core `c` written to its trace pool (R384). -/
def State.traceRecord (s : State) (c : CoreId) (w0 w1 : Nat) : State :=
  let k := s.coreAt c
  let t := k.trace
  if t.idx * 16 + 16 ≤ t.size then
    let s := s.writeMem (leCells (devKey (t.base.toNat + t.idx * 16)) 16 (w0 + w1 * 2 ^ 64))
    s.setCoreAt c { s.coreAt c with trace := { t with idx := t.idx + 1 } }
  else s.setCoreAt c { k with trace := { t with lost := t.lost + 1 } }

/-- Is tracing on for the row group of core `c`; and flow records with it (R383). -/
def State.tracing (s : State) (c : CoreId) : Option Bool :=
  if (s.coreAt c).g.run.isNone then none
  else (s.tracePds.find? fun e => e.1 = (s.coreAt c).g.bank.pd.toNat).map Prod.snd

/-- The state with a wait record written, when tracing is on and the wait was not of 0 cycles (R383, R384). -/
def State.traceWait (s : State) (c : CoreId) (kind : Nat) (eng : Eng) (isOpen : Bool) (obj : Nat) (pc : BitVec 32)
    (cycles : Nat) (seng : Nat) (score : CoreId) : State :=
  if (s.tracing c).isNone || cycles = 0 then s
  else
    s.traceRecord c
      (kind * 2 ^ 60 + eng.code * 2 ^ 57 + (if isOpen then 2 ^ 56 else 0) + obj % 256 * 2 ^ 48 + pc.toNat % 65536 * 2 ^ 32
        + cycles % 2 ^ 32)
      (seng * 2 ^ 61 + score.val * 2 ^ 52 + (s.coreAt c).cycle % 2 ^ 48)

/-- The state with a flow record written, when FLOW is enabled (R383). -/
def State.traceFlow (s : State) (c : CoreId) (kind : Nat) (eng : Eng) (pc target : BitVec 32) : State :=
  match s.tracing c with
  | some true =>
    s.traceRecord c (kind * 2 ^ 60 + eng.code * 2 ^ 57 + pc.toNat % 65536 * 2 ^ 32 + target.toNat)
      (6 * 2 ^ 61 + (s.coreAt c).cycle % 2 ^ 48)
  | _ => s

/-! ## Queues (R75, R109, R151, R154) -/

/-- The depth of a queue (R75). -/
def queueDepth (q : Nat) : Nat :=
  match q with
  | 8 => 64
  | 13 => 64
  | 15 => 1024
  | _ => 32

/-- Can a pop or peek take the head in cycle `now`: it is present and came in an earlier cycle. -/
def Queue.canPop (q : Queue) (now : Nat) : Bool :=
  match q.entries with
  | [] => false
  | e :: _ => e.ready && e.born < now

/-- The entries that pops could take in cycle `now`: the available ones at the head (R151, R154). -/
def Queue.count (q : Queue) (now : Nat) : Nat := (q.entries.takeWhile fun e => e.ready && e.born < now).length

/-- Is there room for a push in cycle `now`: a slot freed in this cycle does not count (R75). -/
def Queue.hasRoom (q : Queue) (depth now : Nat) : Bool :=
  q.entries.length + (if q.lastPop = some now then 1 else 0) < depth

/-- The head entry's value. -/
def Queue.head (q : Queue) : Word := (q.entries.head?.map QEntry.val).getD 0

/-- The queue without its head. -/
def Queue.pop (q : Queue) (now : Nat) : Queue := { entries := q.entries.drop 1, lastPop := some now }

/-- The queue with an entry appended. -/
def Queue.push (q : Queue) (e : QEntry) : Queue := { q with entries := q.entries ++ [e] }

/-- The queue of a number. -/
def Group.queue (g : Group) (n : Fin 16) : Queue := g.queues[n]

/-- The group with a queue changed. -/
def Group.modQueue (g : Group) (n : Fin 16) (f : Queue → Queue) : Group := { g with queues := g.queues.set n (f g.queues[n]) }

/-- The cycle of a core. -/
def State.cyc (s : State) : Nat := s.cur.cycle

/-- An entry pushed with its value. -/
def QEntry.now (v : Word) (cyc : Nat) : QEntry := { val := v, ready := true, born := cyc, tag := none, fill := 0 }

/-! ## Semaphores (R285, R287) -/

/-- The value that a wait or read samples in cycle `now`: steps of that cycle are not seen (R285). -/
def Sem.sample (m : Sem) (now : Nat) : BitVec 32 := if m.at_ = now then m.base else m.value

/-- Steps in the order of R285; equal ranks keep their order of arrival. -/
def insertStep (st : SemStep) : List SemStep → List SemStep
  | [] => [st]
  | a :: rest => if st.rank < a.rank then st :: a :: rest else a :: insertStep st rest

/-- The semaphore after a step made in cycle `now`. -/
def Sem.step (m : Sem) (now : Nat) (st : SemStep) : Sem :=
  if m.at_ = now then { m with ups := insertStep st m.ups }
  else { base := m.value, at_ := now, ups := [st], pre := m.base, last := m.ups }

/-- The first of some steps from a value whose result meets a condition, else the last of them. -/
def firstMeeting (ok : BitVec 32 → Bool) : BitVec 32 → List SemStep → Option SemStep
  | _, [] => none
  | v, st :: rest => if ok (st.upd.apply v) || rest.isEmpty then some st else firstMeeting ok (st.upd.apply v) rest

/-- The issuer of the step that first met a condition, of the last steps that a sample in cycle `now` sees (R385). -/
def Sem.setter (m : Sem) (now : Nat) (ok : BitVec 32 → Bool) : Eng × CoreId :=
  match (if m.at_ = now then firstMeeting ok m.pre m.last else firstMeeting ok m.base m.ups) with
  | some st => (st.eng, st.core)
  | none => (.none, 0)

/-- The place of an issuer in the order of R285. -/
def semRank (home src : CoreId) (e : Eng) : Nat :=
  if home ≠ src then 0
  else match e with
    | .ch0 => 1
    | .me => 2
    | .xs => 3
    | .ch1 => 4
    | _ => 5

/-- At least, by serial numbers (R287). -/
def semAtLeast (v t : BitVec 32) : Bool := (v - t).toNat < 2147483648

/-- Below, by serial numbers (R287). -/
def semBelow (v t : BitVec 32) : Bool := 1 ≤ (t - v).toNat && (t - v).toNat < 2147483648

/-- The group with a step made on one of its semaphores. -/
def Group.semStep (g : Group) (n : Fin 64) (now : Nat) (st : SemStep) : Group :=
  { g with sems := g.sems.set n ((g.sems[n]).step now st) }

/-- A step on a semaphore of a home, without regard to a replay. -/
def State.semMake (s : State) (home : CoreId) (n : Fin 64) (src : CoreId) (e : Eng) (u : SemUpd) : State :=
  s.modGAt home fun g => g.semStep n (s.coreAt home).cycle { rank := semRank home src e, upd := u, eng := e, core := src }

/-- A step on a semaphore of a home in the order that a replay forces: behind every other of its cycle (R396). -/
def State.semForce (s : State) (home : CoreId) (n : Fin 64) (src : CoreId) (e : Eng) (u : SemUpd) : State :=
  s.modGAt home fun g => g.semStep n (s.coreAt home).cycle { rank := 5, upd := u, eng := e, core := src }

/-- Steps made from a value, each with the value after it. -/
def stepValues : BitVec 32 → List SemStep → List (SemStep × BitVec 32)
  | _, [] => []
  | v, st :: rest => (st, st.upd.apply v) :: stepValues (st.upd.apply v) rest

/-- The steps made on the semaphores of a core in this cycle, in the order of R285, are logged with the value after each (R394). -/
def State.logSems (s : State) (c : CoreId) : State :=
  let k := s.coreAt c
  if k.g.run.isNone then s
  else match s.replayFor k.g.bank.pd with
    | .recordSync =>
      (List.range 64).foldl (fun s j =>
        let n : Fin 64 := Fin.ofNat 64 j
        let m := k.g.sems[n]
        if m.at_ = k.cycle then
          (stepValues m.base m.ups).foldl (fun s x => s.logEntry (dieOf c) (.sem c n x.1.core x.1.eng x.2)) s
        else s) s
    | _ => s

/-- Is a log entry a semaphore step at a home; and is it one of an issuer on a semaphore. -/
def LogEntry.semAt (home : CoreId) : LogEntry → Bool
  | .sem h _ _ _ _ => h = home
  | _ => false

/-- Is a log entry the step of an issuer on a semaphore. -/
def LogEntry.semIs (home : CoreId) (n : Fin 64) (src : CoreId) (e : Eng) : LogEntry → Bool
  | .sem h m c x _ => h = home && m = n && c = src && x = e
  | _ => false

/-- The steps that a replay held at a home and whose turn has come are made, at most `fuel` of them (R396). -/
def State.makeHeld (s : State) (home : CoreId) : Nat → State
  | 0 => s
  | fuel + 1 =>
    match s.replay.held.find? fun h => h.home = home &&
        (match s.replay.next (LogEntry.semAt home) with
         | some e => e.semIs home h.num h.core h.eng
         | none => true) with
    | none => s
    | some h =>
      let s := match s.replay.next (LogEntry.semAt home) with
        | some e => s.met e
        | none => s
      State.makeHeld (({ s with replay := { s.replay with held := s.replay.held.erase h } }).semForce home h.num h.core h.eng h.upd)
        home fuel

/-- The state with a step made on a semaphore at its home. Mode 3 holds it until its turn (R396); mode 1 logs it with its cycle's (R394). -/
def State.semApply (s : State) (home : CoreId) (n : Fin 64) (src : CoreId) (e : Eng) (u : SemUpd) : State :=
  match s.replayFor (s.coreAt home).g.bank.pd with
  | .replaySync =>
    match s.replay.next (LogEntry.semAt home) with
    | none => s.semMake home n src e u
    | some x =>
      if x.semIs home n src e then ((s.met x).semForce home n src e u).makeHeld home s.replay.held.length
      else
        { s with
          replay := { s.replay with
            held := s.replay.held ++ [⟨home, n, src, e, u, (s.coreAt home).cycle⟩] } }
  | _ => s.semMake home n src e u

/-- The instance with an id. -/
def State.inst (s : State) (id : BitVec 24) : Option Inst := s.insts.find? fun i => i.id = id

/-- The state with an instance changed. -/
def State.modInst (s : State) (id : BitVec 24) (f : Inst → Inst) : State :=
  { s with insts := s.insts.map fun i => if i.id = id then f i else i }

/-- The sync-object register of R286: the semaphore it names, or none where ILLEGAL_OPERAND is raised. -/
def State.syncName (s : State) (c : CoreId) (w : Word) : Option SemName :=
  let n := w.toNat
  let g := (s.coreAt c).g
  let num : Fin 64 := Fin.ofNat 64 n
  if fld n 18 31 != 0 || fld n 6 3 != 0 then none
  else match bit n 63, bit n 62 with
    | true, true => none
    | true, false => if fld n 49 13 != 0 || fld n 9 9 != 0 then none else some { core := c, num := num, span := false }
    | false, true =>
      if fld n 9 9 != 0 || g.bank.nstages.toNat ≤ fld n 56 6 || g.bank.width.toNat ≤ fld n 49 7 then none
      else
        let core := ((s.inst g.bank.inst).bind fun i =>
          (i.groups.find? fun x => x.stage = fld n 56 6 && x.slot = fld n 49 7).map InstGroup.core).getD c
        some { core := core, num := num, span := true }
    | false, false =>
      if fld n 49 13 != 0 then none
      else some { core := Fin.ofNat 512 (fld n 16 2 * 128 + fld n 13 3 * 16 + fld n 9 4), num := num, span := false }

/-- What happens at its home to a semaphore access that left its core (R289). -/
inductive HomeFate where
  | acted | held | discarded
  deriving DecidableEq, Repr

/-- The fate of an access of an instance and PD to a semaphore of core `home` (R289). An explicit name is discarded where the sender's own
instance has a row group staged or saved there, whatever runs (log entry 107; DESIGN CHOICE). -/
def State.homeFate (s : State) (home : CoreId) (inst : BitVec 24) (pd : BitVec 12) (span : Bool) : HomeFate :=
  let k := s.coreAt home
  let runs := k.g.run.isSome && k.ending.isNone
  if runs && k.g.bank.inst = inst then .acted
  else if k.g.run.isSome && k.ending.isSome && k.g.bank.inst = inst then .discarded
  else
    let mine := (s.inst inst).bind fun i => i.groups.find? fun x => x.core = home
    match span, mine with
    | true, some x => if x.gone then .discarded else .held
    | true, none => .discarded
    | false, some x =>
      if runs && k.g.bank.pd = pd && x.gone then .acted else .discarded
    | false, none => if runs && k.g.bank.pd = pd then .acted else .discarded

/-- An access kept by its home until the row group named has swapped in or been restored (R289). -/
def State.holdSem (s : State) (home : CoreId) (h : HeldSem) : State :=
  s.setCoreAt home { s.coreAt home with heldSems := (s.coreAt home).heldSems ++ [h] }

/-- An update that reaches its home from another core (R289): acted on, held up to 512, or discarded and counted. -/
def State.semArrive (s : State) (obj : SemName) (src : CoreId) (e : Eng) (inst : BitVec 24) (pd : BitVec 12)
    (u : SemUpd) : State :=
  match s.homeFate obj.core inst pd obj.span with
  | .acted => s.semApply obj.core obj.num src e u
  | .held => s.holdSem obj.core { num := obj.num, inst := inst, src := src, act := .update u, issuer := e }
  | .discarded => s.countDiscard obj.core

/-- A message that a core sends. -/
def State.send (s : State) (f : Flight) : State := { s with net := s.net ++ [f] }

/-- A message of core `c` with nothing but its cargo filled in. -/
def State.flightOf (s : State) (c : CoreId) (path : Path) (dst : Option CoreId) (cargo : Cargo) : Flight :=
  { src := c, path := path, dst := dst, inst := (s.coreAt c).g.bank.inst, pd := (s.coreAt c).g.bank.pd,
    global := false, no := 0, lo := 0, len := 0, addrs := [], kv := none, after := 0, opRec := none, stepNo := 0, cargo := cargo }

/-- Is a message one of the row group on core `c`: a row group saved from the core may still have some of its own (R358). -/
def State.ownFlight (s : State) (c : CoreId) (f : Flight) : Bool := f.src = c && f.inst = (s.coreAt c).g.bank.inst

/-- Is a message one of the row group that runs on its core and is not ending: only then does it move a write pointer (R253). -/
def State.liveFlight (s : State) (f : Flight) : Bool := s.ownFlight f.src f && (s.coreAt f.src).ending.isNone

/-- The path on which an engine's semaphore updates travel. -/
def engPath (e : Eng) : Path :=
  match e with
  | .as => .ald
  | .me => .me
  | .ch0 => .ch0
  | .ch1 => .ch1
  | .sector => .tap
  | _ => .xst

/-- The answer of a home to a remote SEMRD of an instance on core `src` (R290). -/
def State.answerSem (s : State) (src : CoreId) (e : Eng) (inst : BitVec 24) (pd : BitVec 12) (side : Side2) (ask : Nat) (v : BitVec 32) :
    State :=
  s.send { s.flightOf src (engPath e) (some src) (.reply side ask v) with inst := inst, pd := pd }

/-- A remote SEMRD's request that reaches its home (R289, R290): answered with the sample, held, or discarded, counted and answered with 0.
-/
def State.semAsked (s : State) (obj : SemName) (src : CoreId) (e : Eng) (inst : BitVec 24) (pd : BitVec 12) (side : Side2) (ask : Nat) :
    State :=
  match s.homeFate obj.core inst pd obj.span with
  | .acted => s.answerSem src e inst pd side ask (((s.coreAt obj.core).g.sems[obj.num]).sample (s.coreAt obj.core).cycle)
  | .held => s.holdSem obj.core { num := obj.num, inst := inst, src := src, act := .read pd side ask, issuer := e }
  | .discarded => (s.countDiscard obj.core).answerSem src e inst pd side ask 0

/-- An access held at core `c` is acted on (R289): a reading sees every step that arrived before it. -/
def State.actHeld (s : State) (c : CoreId) (h : HeldSem) : State :=
  match h.act with
  | .update u => s.semApply c h.num h.src h.issuer u
  | .read pd side ask => s.answerSem h.src h.issuer h.inst pd side ask ((s.coreAt c).g.sems[h.num]).value

/-- An access held at core `c` is discarded and counted: a reading is answered with 0 (R289). -/
def State.discardHeld (s : State) (c : CoreId) (h : HeldSem) : State :=
  match h.act with
  | .update _ => s.countDiscard c
  | .read pd side ask => (s.countDiscard c).answerSem h.src h.issuer h.inst pd side ask 0

/-- What core `c` holds for an instance is taken from it, in the order of arrival, and each access has an effect (R289). -/
def State.takeHeld (s : State) (c : CoreId) (inst : BitVec 24) (f : State → HeldSem → State) : State :=
  ((s.coreAt c).heldSems.filter fun h => h.inst = inst).foldl f
    (s.setCoreAt c { s.coreAt c with heldSems := (s.coreAt c).heldSems.filter fun h => h.inst != inst })

/-- The accesses held at core `c` for an instance whose row group there has ended without running are discarded (R289). -/
def State.dropHeld (s : State) (c : CoreId) (inst : BitVec 24) : State := s.takeHeld c inst fun s h => s.discardHeld c h

/-- An update of a semaphore by an issuer of core `c`: at once at home, and by a message elsewhere (R285, R289, R290). -/
def State.semUpdate (s : State) (c : CoreId) (obj : SemName) (e : Eng) (u : SemUpd) : State :=
  if obj.core = c then s.semApply c obj.num c e u
  else s.send (s.flightOf c (engPath e) (some obj.core) (.sem obj u))

/-! ## Tokens (R76, R291 to R293) -/

/-- The place of an engine in the token ring CH0, ME, XS, CH1. -/
def tokenPlace (e : Eng) : Nat :=
  match e with
  | .ch0 => 0
  | .me => 1
  | .xs => 2
  | _ => 3

/-- The FIFO that an engine pops on a side: that of its neighbour towards it (R291). -/
def popFifo (e : Eng) (sd : Side) : Fin 8 :=
  match sd with
  | .left => Fin.ofNat 8 ((tokenPlace e + 3) % 4)
  | .right => Fin.ofNat 8 (4 + (tokenPlace e + 1) % 4)

/-- The FIFO that an engine pushes on a side (R291). -/
def pushFifo (e : Eng) (sd : Side) : Fin 8 :=
  match sd with
  | .left => Fin.ofNat 8 (4 + tokenPlace e)
  | .right => Fin.ofNat 8 (tokenPlace e)

/-- Can a token be popped in cycle `now`. -/
def Fifo.canPop (f : Fifo) (now : Nat) : Bool :=
  match f.toks with
  | .ready b :: _ => b < now
  | _ => false

/-- Is there room for a token in cycle `now`, reserved places counted. -/
def Fifo.hasRoom (f : Fifo) (now : Nat) : Bool := f.toks.length + (if f.lastPop = some now then 1 else 0) < 8

/-- The FIFO without its head. -/
def Fifo.pop (f : Fifo) (now : Nat) : Fifo := { toks := f.toks.drop 1, lastPop := some now }

/-- The FIFO with a token appended. -/
def Fifo.push (f : Fifo) (t : Token) : Fifo := { f with toks := f.toks ++ [t] }

/-- The group with a FIFO changed. -/
def Group.modFifo (g : Group) (n : Fin 8) (f : Fifo → Fifo) : Group := { g with fifos := g.fifos.set n (f g.fifos[n]) }

/-! ## What has been performed (R295, R296, R298) -/

/-- Does a range of bytes meet one of some ranges; an empty list of ranges means every byte. -/
def meets (covers : List (Word × Nat)) (c : CoreId) (r : Word × Nat) : Bool :=
  r.2 != 0 && (covers.isEmpty ||
    covers.any fun v => (addrForms c r.1).any fun f => f.toNat < v.1.toNat + v.2 && v.1.toNat < f.toNat + r.2)

/-- Does some byte of a list of addresses lie in a list of ranges. -/
def touches (covers : List (Word × Nat)) (c : CoreId) (addrs : List Word) : Bool :=
  covers.isEmpty || addrs.any fun a => meets covers c (a, 1)

/-- Are the XST accesses of core `c` numbered below a bound performed, as far as they touch the ranges. -/
def State.storesDone (s : State) (c : CoreId) (upTo : Nat) (covers : List (Word × Nat)) : Bool :=
  ((s.coreAt c).g.storeQ.all fun e => upTo ≤ e.no || !touches covers c (e.bytes.map Prod.fst)) &&
    s.net.all fun f => !(s.ownFlight c f && f.path = .xst && f.no < upTo) || !touches covers c f.addrs ||
      (match f.cargo with
       | .bytes _ => false
       | _ => true)

/-- Are the AS reads of core `c` numbered below a bound performed. -/
def State.readsDone (s : State) (c : CoreId) (upTo : Nat) (covers : List (Word × Nat)) : Bool :=
  (s.coreAt c).g.asReads.all fun r =>
    match r with
    | .queue no _ _ _ _ a off bits _ _ => upTo ≤ no || !meets covers c (a, elemBytes off bits)
    | .stream no _ _ _ _ a _ => upTo ≤ no || !meets covers c (a, 128)
    | .pgref .. => true

/-- The slot of a number. -/
def Group.slot (g : Group) (k : Fin 256) : Slot := Tab.get Slot.empty g.slots k.val

/-- An address as regions compare it: a resolved KV reference becomes its page's address in KV space (R219, R224). -/
def pageForm (g : Group) (a : Word) : Word :=
  if spaceOf a = 2 && (a.toNat / 2 ^ 50 % 2 == 1) then
    BitVec.ofNat 64 (2 ^ 63 + (g.slot (Fin.ofNat 256 (fld a.toNat 16 8))).page * 65536 + fld a.toNat 0 16)
  else a

/-- The records that a command's arguments name, in order (R242). -/
def argRecords (q : RingState) (r : Ring) (i : Instr) : List OpRecord :=
  ((cmdArgs i).zip (argKinds r (cmdOp i))).filterMap fun e =>
    match e.2 with
    | .value => none
    | _ => q.records[Fin.ofNat 64 e.1.toNat]

/-- A command whose accesses are to come: its instruction, its units and how many of them are over. -/
structure ToCome where
  instr : Instr
  units : Nat
  done : Nat
  deriving DecidableEq, Repr

/-- The commands from a ring position up to a publish count as their words stand; none where some words are not yet written. -/
def State.unfetched (s : State) (c : CoreId) (r : Ring) (pub : BitVec 32) : Nat → BitVec 32 → Option (List ToCome)
  | 0, _ => some []
  | fuel + 1, pos =>
    let q := (s.coreAt c).g.ringOf r
    if (pub - pos).toNat = 0 || 2147483648 < (pub - pos).toNat then some []
    else
      let w := readLE s.mem (ringKey c q pos) 4
      let n := fld w 23 3
      if (q.cursor - pos).toNat < n + 1 then none
      else
        let args := (List.range n).map fun k => BitVec.ofNat 32 (readLE s.mem (ringKey c q (pos + BitVec.ofNat 32 (k + 1))) 4)
        match decodeCommand (ringStep r) w args with
        | .error _ => some []
        | .ok i => (State.unfetched s c r pub fuel (pos + BitVec.ofNat 32 (n + 1))).map (⟨i, 1, 0⟩ :: ·)

/-- The commands of a ring whose headers lie below a publish count and which have not completed, in order, with those in the queue
first; none where some words of the last are not yet written (R295, R298). An ending row group's commands access nothing more (R361). -/
def State.toCome (s : State) (c : CoreId) (r : Ring) (pub : BitVec 32) : Option (List ToCome) :=
  let q := (s.coreAt c).g.ringOf r
  let queued := (q.queue.filter fun cmd => (pub - cmd.hdrPc).toNat != 0 && (pub - cmd.hdrPc).toNat ≤ 2147483648 && !cmd.squashed).map
    fun cmd =>
      match cmd.phase with
      | .running => { instr := cmd.instr, units := cmd.units, done := cmd.progress }
      | .done => { instr := cmd.instr, units := 1, done := 1 }
      | _ => ({ instr := cmd.instr, units := 1, done := 0 } : ToCome)
  if (s.coreAt c).ending.isSome then some [] else (s.unfetched c r pub (2 ^ q.log2n) q.pc).map (queued ++ ·)

/-- The epilogue's arrays that a DRAIN reads (R275). -/
def epilogueArrays (e : Epilogue) (epi : Bool) : List (Nat × Nat) :=
  (if epi && e.ctl.getLsbD 0 then [(e.rsAddr, 64)] else []) ++ (if epi && e.ctl.getLsbD 1 then [(e.biasAddr, 192)] else [])

/-- The ranges that commands have still to access; the epilogue's arrays are those that the EPCFGs on the way leave (R275). -/
def restOf (q : RingState) (r : Ring) : Epilogue → List ToCome → List (Word × Nat)
  | _, [] => []
  | e, x :: rest =>
    let mine : List (Word × Nat) :=
      if x.units ≤ x.done then []
      else cmdRest x.instr x.units x.done (argRecords q r x.instr) ++
        (match x.instr with
         | .drain _ a _ => (epilogueArrays e (bit a.toNat 0)).map fun v => (aliasAddr v.1, v.2)
         | _ => [])
    let e := match x.instr with
      | .epcfg _ a b => if x.done = 0 then e.configure a.toNat b else e
      | _ => e
    mine ++ restOf q r e rest

/-- The addresses that a message has still to write, those that its combining step returns a value to included (R247). -/
def Flight.places (f : Flight) : List Word :=
  match f.cargo with
  | .combine _ _ _ _ _ _ ret => f.addrs ++ ret.filterMap fun x => x.map Spot.addr
  | .cas _ _ _ _ ret => f.addrs ++ ret.filterMap fun x => x.map Spot.addr
  | _ => f.addrs

/-- Does a message belong to a command of a ring whose header lies below a publish count: by the counts that it carries. -/
def ofBehind (q : RingState) (pub : BitVec 32) (f : Flight) : Bool :=
  q.queue.any fun cmd => (pub - cmd.hdrPc).toNat != 0 && (pub - cmd.hdrPc).toNat ≤ 2147483648 && cmd.first ≤ f.lo
    && f.lo < cmd.first + cmd.total

/-- Are the accesses of a ring's commands below a publish count performed, as far as they touch the ranges: none is still to be made, and
none is under way. Neither their other accesses nor any later command holds this back (R298). -/
def State.ringDone (s : State) (c : CoreId) (r : Ring) (pub : BitVec 32) (covers : List (Word × Nat)) : Bool :=
  let g := (s.coreAt c).g
  let q := g.ringOf r
  (match s.toCome c r pub with
   | none => false
   | some l => (restOf q r g.epi l).all fun x => !meets covers c (pageForm g x.1, x.2)) &&
    s.net.all fun f => !(s.ownFlight c f && f.path = ringPath r && ofBehind q pub f) || !touches covers c f.places

/-- Have the accesses that precede a word been performed (R295, R296), as far as they touch the ranges. -/
def State.performed (s : State) (c : CoreId) (b : Before) (covers : List (Word × Nat)) : Bool :=
  (!b.mask.getLsbD 0 || s.storesDone c b.stores covers) && (!b.mask.getLsbD 2 || s.readsDone c b.reads covers)
    && (!b.mask.getLsbD 3 || s.ringDone c .me b.me covers) && (!b.mask.getLsbD 4 || s.ringDone c .ch0 b.ch0 covers)
    && (!b.mask.getLsbD 5 || s.ringDone c .ch1 b.ch1 covers)

/-- What precedes a word that issues now, on the paths of a mask (R295). -/
def State.beforeNow (s : State) (c : CoreId) (mask : BitVec 9) : Before :=
  let g := (s.coreAt c).g
  { mask := mask, stores := g.storeNo, reads := g.readNo, me := g.me.pub, ch0 := g.ch0.pub, ch1 := g.ch1.pub }

/-- The semaphore that a region's descriptor or a BIND names (R297, R299). -/
def State.boundTo (s : State) (c : CoreId) (k : Nat) (r : Region) : Option SemName :=
  match r.sync with
  | .sem => s.syncName c r.addr
  | .lock => none
  | .none => Tab.get none (s.coreAt c).g.binds k

/-- The ranges of the regions that a row group binds to a semaphore (R297). -/
def State.covers (s : State) (c : CoreId) (obj : SemName) : List (Word × Nat) :=
  ((List.range (s.coreAt c).g.desc.regions.length).zip (s.coreAt c).g.desc.regions).filterMap fun e =>
    match s.boundTo c e.1 e.2 with
    | some n => if n.core = obj.core && n.num = obj.num then some (e.2.base, e.2.extent) else none
    | none => none

/-- A release whose regions are none is ordered after nothing (R297). -/
def State.releaseReady (s : State) (c : CoreId) (r : Release) : Bool := r.covers.isEmpty || s.performed c r.before r.covers

/-- A release by an issuer of core `c`: its update is made at once when nothing is left to be performed and no earlier update of
the issuer waits, and is kept otherwise (R285, R298). -/
def State.release (s : State) (c : CoreId) (obj : SemName) (e : Eng) (mask : BitVec 9) (u : SemUpd) : State :=
  let r : Release := { obj := obj, upd := u, issuer := e, before := s.beforeNow c mask, covers := s.covers c obj }
  let waits := (s.coreAt c).g.releases.any fun q => q.issuer = e && q.obj.core = obj.core && q.obj.num = obj.num
  if !waits && s.releaseReady c r then s.semUpdate c obj e u
  else s.modGAt c fun g => { g with releases := g.releases ++ [r] }

/-- The first pending release of core `c` whose accesses are performed and behind no other of its issuer and semaphore. -/
def State.readyRelease (s : State) (c : CoreId) : List Release → List Release → Option (Release × List Release)
  | _, [] => none
  | pre, r :: rest =>
    let waits := pre.any fun q => q.issuer = r.issuer && q.obj.core = r.obj.core && q.obj.num = r.obj.num
    if !waits && s.releaseReady c r then some (r, pre ++ rest) else State.readyRelease s c (pre ++ [r]) rest

/-- Make the pending releases of core `c` that are ready, at most `fuel` of them (R298). -/
def State.makeReleases (s : State) (c : CoreId) : Nat → State
  | 0 => s
  | fuel + 1 =>
    match s.readyRelease c [] (s.coreAt c).g.releases with
    | none => s
    | some (r, rest) =>
      State.makeReleases ((s.modGAt c fun g => { g with releases := rest }).semUpdate c r.obj r.issuer r.upd) c fuel

/-- The reserved tokens whose stores are performed become ready in this cycle (R292). -/
def State.readyTokens (s : State) (c : CoreId) : State :=
  s.modGAt c fun g =>
    { g with
      fifos := g.fifos.mapFinIdx fun _ f _ =>
        { f with
          toks := f.toks.map fun t =>
            match t with
            | .reserved n => if s.storesDone c n [] then .ready (s.coreAt c).cycle else t
            | t => t } }

/-! ## The end of a row group (R49, R352, R361, R374) -/

/-- The state with a message sent to the Lantern by the wick of core `c`. -/
def State.toLantern (s : State) (c : CoreId) (m : UpMsg) : State :=
  { s with up := s.up.set (clusterOf c) ((s.up[clusterOf c]).send m) }

/-! ## Pages and the wake queues (R220, R222, R227) -/

/-- The home die of a page (R222). -/
def homeDie (gpn : Nat) : Fin 4 :=
  Fin.ofNat 4 ((fld gpn 0 2) ^^^ (fld gpn 2 2) ^^^ (fld gpn 4 2) ^^^ (fld gpn 6 2))

/-- The context of a handle, whatever its generation. -/
def State.ctxAt (s : State) (i : Nat) : Ctx := Tab.get Ctx.reset s.lan.ctxs i

/-- The index in a context handle (R6). -/
def ctxIndex (h : BitVec 32) : Nat := h.toNat % 131072

/-- The device address of the leaf entry of a page of a context: none when KVROOT is 0 or the root entry is not valid (R220). -/
def State.leafAddr (s : State) (kvroot : Word) (page : Nat) : Option Nat :=
  if kvroot = 0 then none
  else
    let e := readLE s.mem (devKey (kvroot.toNat + 8 * (page / 512 % 512))) 8
    if bit e 0 && fld e 1 11 = 0 then some (e / 4096 * 4096 + 8 * (page % 512)) else none

/-- Leaf of R223: the GPN and VLEN of a page of a context, (0, 0) when it is unmapped (R220). -/
def State.leaf (s : State) (kvroot : Word) (page : Nat) : Nat × Nat :=
  match s.leafAddr kvroot page with
  | none => (0, 0)
  | some a =>
    let e := readLE s.mem (devKey a) 8
    if fld e 43 21 != 0 || fld e 28 4 != 0 then (0, 0) else (fld e 0 28, fld e 32 11)

/-- The device address of a poisoned byte of the root or leaf entry of a page of a context (R220, R354; log entry 101). -/
def State.leafPoison (s : State) (kvroot : Word) (page : Nat) : Option Nat :=
  if kvroot = 0 then none
  else
    ((s.poisonAt (devKey (kvroot.toNat + 8 * (page / 512 % 512))) 8).orElse fun _ =>
      (s.leafAddr kvroot page).bind fun a => s.poisonAt (devKey a) 8).map (· - devKey 0)

/-- The die whose Tender takes the messages about a context as a whole (log entry 61). -/
def ctxDie (h : Nat) : Fin 4 := Fin.ofNat 4 h

/-- The state with a message sent to the Tender of a die (R227). -/
def State.toTender (s : State) (d : Fin 4) (m : TenderMsg) : State :=
  { s with tenderQ := s.tenderQ.set d ((s.tenderQ[d]).put s.wakeNo m), wakeNo := s.wakeNo + 1 }

/-- The state with a message sent to the Lantern by the Tender of a die (R227). -/
def State.tenderSays (s : State) (d : Fin 4) (m : TenderReply) : State :=
  { s with tenderReplies := s.tenderReplies.set d ((s.tenderReplies[d]).put s.wakeNo m), wakeNo := s.wakeNo + 1 }

/-- The high marks of the slots that map a row's pages (R224). -/
def slotMarks (g : Group) (row : Nat) : List (Nat × Nat) :=
  g.slots.filterMap fun e => if e.2.held && e.2.row = row then some (e.2.page, e.2.hm) else none

/-- What ENDED reports of a row (R374, R375). -/
def State.rowReport (s : State) (c : CoreId) (row : Nat) : RowReport :=
  { ctx := s.rowCtx c row, live := s.rowLive c row, accept := BitVec.ofNat 32 (s.rowAccept c row),
    lineage := BitVec.ofNat 32 (s.rowLineage c row), rlen := s.rowLen c row, pos := s.rowPos c row, rng := s.rowRng c row,
    count := s.rowCount64 c row,
    cut := (s.coreAt c).g.fixedRows.lookup row, marks := slotMarks (s.coreAt c).g row }

/-- The state with one pin of a page given up (R223): a page that nothing maps any more is then freed (R231). -/
def State.unpin (s : State) (gpn : Nat) : State :=
  let e := Tab.get DirEntry.free s.dir gpn
  let e : DirEntry := { e with pins := e.pins - 1 }
  let gone := e.pins = 0 && e.refs = 0 && e.level != .moving
  { s with dir := Tab.set DirEntry.free s.dir gpn (if gone then DirEntry.free else e) }

/-- The pins of a row group's slots are given up (R223). -/
def State.dropPins (s : State) (g : Group) : State :=
  g.slots.foldl (fun s e => if e.2.held then s.unpin e.2.gpn else s) s

/-- The pin of a PGREF that has resolved and waits for its slot is given up (R223). -/
def State.dropWaitingPins (s : State) (g : Group) : State :=
  g.asReads.foldl (fun s r =>
    match r with
    | .pgref _ _ _ _ _ (some h) => s.unpin h.gpn
    | _ => s) s

/-- Messages of a core that are still to be delivered before it may report its end: everything but the bytes of its channels,
which an end discards (R352). -/
def Flight.survives (f : Flight) : Bool :=
  match f.path, f.cargo with
  | .ch0, .bytes _ => false
  | .ch1, .bytes _ => false
  | _, _ => true

/-- Is a message a combining step. -/
def Flight.isStep (f : Flight) : Bool :=
  match f.cargo with
  | .combine .. | .cas .. => true
  | _ => false

/-- Has a message of core `c` been sent: a channel's combining step has not before its source read has returned (R246, R253, R358). -/
def State.isSent (s : State) (c : CoreId) (f : Flight) : Bool := !f.isStep || f.after ≤ (s.coreAt c).cycle

/-- A row group that has left its core: nothing runs there, and no slot maps a page. The registers, semaphores and counters keep their
values until the next swap-in (R71 to R78, R374). -/
def Group.left (g : Group) : Group :=
  let idle : RingState → RingState := fun r => { r with queue := [] }
  { g with run := none, slots := [], me := idle g.me, ch0 := idle g.ch0, ch1 := idle g.ch1 }

/-- An engine has performed an access: it becomes the first of those named, the last to perform (R385). -/
def Group.perform (g : Group) (e : Eng) : Group := { g with lastPerf := e :: g.lastPerf.filter (· != e) }

/-- The bit of a path mask that an engine's accesses stand under (R111, R295). -/
def Eng.inMask (m : BitVec 9) (e : Eng) : Bool :=
  match e with
  | .xs => m.getLsbD 0 || m.getLsbD 1
  | .as => m.getLsbD 2
  | .me => m.getLsbD 3
  | .ch0 => m.getLsbD 4
  | .ch1 => m.getLsbD 5
  | .sector => m.getLsbD 6
  | .none => false

/-- Send ENDED once every message of the row group has been delivered, and free the core (R352, R374). -/
def State.finishEnd (s : State) (c : CoreId) : State :=
  match (s.coreAt c).ending with
  | none => s
  | some (how, term, dump) =>
    let s := (s.makeReleases c (s.coreAt c).g.releases.length).readyTokens c
    if s.net.any (s.ownFlight c) || !(s.coreAt c).g.releases.isEmpty then s
    else
      let g := (s.coreAt c).g
      let s := s.logSems c
      let rows := (List.range g.rowCount).map (s.rowReport c)
      let s := s.toLantern c (.ended c g.bank.inst how term dump (g.fsr ||| g.flagWord) rows)
      let s := s.dropPins g
      let s := s.modInst g.bank.inst fun i =>
        { i with groups := i.groups.map fun x => if x.core = c then { x with gone := true } else x }
      s.setCoreAt c
        { s.coreAt c with
          g := (s.coreAt c).g.left
          ending := none, halted := none, haltReq := none, stopHalt := false, dbg := { (s.coreAt c).dbg with stopReq := false, stopped := false } }

/-- Guest work done for core `c` is discarded (R281, R352). -/
def State.dropGuests (s : State) (c : CoreId) : State :=
  { s with cores := s.cores.mapFinIdx fun _ k _ => if k.guest.any (fun w => w.home = c) then { k with guest := none } else k }

/-- A waiting sequencer's record, written with OPEN at a halt, a stop or the end of the row group (R383); its wait goes on as a new
record. -/
def State.openSeq (s : State) (c : CoreId) (side : Side2) : State :=
  let q := (s.coreAt c).g.seq side
  (s.traceWait c q.waitKind side.eng true q.waitObj q.pc (q.waited - q.waitFrom) 6 0).modGAt c fun g =>
    g.modSeq side fun q => { q with waitFrom := q.waited }

/-- The records of a ring's waiting commands, written with OPEN (R383). -/
def State.openRing (s : State) (c : CoreId) (r : Ring) : State :=
  (((s.coreAt c).g.ringOf r).queue.foldl (fun s cmd =>
      s.traceWait c cmd.waitKind (ringEng r) true cmd.waitObj cmd.hdrPc (cmd.waited - cmd.waitFrom) 6 0) s).modGAt c fun g =>
    g.modRing r fun q => { q with queue := q.queue.map fun cmd => { cmd with waitFrom := cmd.waited } }

/-- The records of the PGREFs that wait for a slot, written with OPEN (R383). -/
def State.openSlots (s : State) (c : CoreId) : State :=
  ((s.coreAt c).g.asReads.foldl (fun s r =>
      match r with
      | .pgref _ _ pc _ _ (some h) => s.traceWait c 9 .as true h.slot.val pc (h.waited - h.from_) 6 0
      | _ => s) s).modGAt c fun g =>
    { g with
      asReads := g.asReads.map fun r =>
        match r with
        | .pgref no b pc d a (some h) => .pgref no b pc d a (some { h with from_ := h.waited })
        | r => r }

/-- The records of every wait of core `c` that is open, written with OPEN (R383). -/
def State.openWaits (s : State) (c : CoreId) : State :=
  ((((((s.openSeq c .xs).openSeq c .as).openRing c .me).openRing c .ch0).openRing c .ch1).openSlots c)

/-- A row group without what it had in flight on its core and what it held there (R352, R361, R374); its commands stay in their queues where
`keep` says so. -/
def Group.discard (g : Group) (keep : Bool) : Group :=
  let clear : RingState → RingState := fun r =>
    { r with queue := if keep then r.queue else [], records := Vector.replicate 64 none, openHdr := none }
  { g with
    xs := { g.xs with pend := [] }, as_ := { g.as_ with pend := [] }, storeQ := [], faultQ := [], asReads := [],
    me := clear g.me, ch0 := clear g.ch0, ch1 := clear g.ch1, banks := [], acc := [], held := 0, binds := [],
    fences := [], win := none, budget := 0 }

/-- The row group of core `c` ends: what it had in flight is discarded or delivered as R352, R361 and R374 say, pending releases are
made once what they cover and what was sent has been performed (R296, R361), and ENDED follows. Until then the commands of a row group
that is not terminated stay in their queues, and tell which messages precede a release. -/
def State.endGroup (s : State) (c : CoreId) (how : EndKind) (term : Word) (dump : BitVec 16) : State :=
  let s := s.openWaits c
  let s := if how = .terminated then s.modGAt c fun g => { g with releases := [] } else s
  let s := s.dropWaitingPins (s.coreAt c).g
  let s := { s with net := s.net.filter fun f => !s.ownFlight c f || (f.survives && s.isSent c f) }
  let s := s.dropGuests c
  let s := s.modGAt c fun g => g.discard (how ≠ .terminated)
  State.finishEnd (s.setCoreAt c { s.coreAt c with ending := some (how, term, dump), haltReq := none }) c

/-- Does core `c` run a row group that has not ended, halted or stopped. -/
def Core.runs (k : Core) : Bool := k.g.run.isSome && k.ending.isNone && k.halted.isNone && !k.dbg.stopped

/-- R361: a row group none of whose rows is LIVE ends as a no-live yield, unless it is halting, halted or stopped, when it ends after its
restore or resume (R371, R389). -/
def State.noLive (s : State) (c : CoreId) : State :=
  let k := s.coreAt c
  if k.runs && k.haltReq.isNone && !s.anyLive c then s.endGroup c .yielded 0 0xFFFF else s

/-! ## Rows that leave (R13, R23, R225, R318, R330, R331, R348) -/

/-- A Q15 notice (R319). -/
def noticeWord (cause probe site row tok : Nat) : Word :=
  BitVec.ofNat 64 (cause % 256 * 2 ^ 56 + probe % 256 * 2 ^ 48 + site % 8 * 2 ^ 45 + row % 1024 * 2 ^ 32 + tok % 65536 * 2 ^ 16)

/-- Clear LIVE and set a flag of a row's RFLAGS (R22, R23). -/
def State.rowLeaves (s : State) (c : CoreId) (row bitVal : Nat) : State :=
  let f := s.rowField c row 6 2
  s.setRowField c row 6 2 (f / 2 * 2 + (if f / bitVal % 2 = 1 then 0 else bitVal))

/-- A row trap: nothing unless the row is LIVE and has not trapped in this instance (R13, R317, R318, R330). -/
def State.rowTrap (s : State) (c : CoreId) (row cause probe site tok : Nat) (score : Lane) : State :=
  if !s.rowLive c row || (s.coreAt c).g.trappedRows.contains row then s
  else
    let pos := s.rowPos c row + tok
    let ctx := s.rowCtx c row
    let inst := (s.coreAt c).g.bank.inst
    let s := s.rowLeaves c row 8
    let s := s.modGAt c fun g =>
      { g.modQueue 15 fun q => q.push (QEntry.now (noticeWord cause probe site row tok) (s.coreAt c).cycle) with
        trappedRows := row :: g.trappedRows }
    let s := s.toLantern c
      (.rowEvent c inst ctx (.trap (BitVec.ofNat 8 cause) (BitVec.ofNat 8 probe) (BitVec.ofNat 3 site) pos score))
    s.noLive c

/-- A page drop by PGREF (R225): PAGEDROP set, LIVE cleared, ROWEVENT sent, and the NEED posted, to the Tender of the core's die for
an unmapped page and to that of the page's home die otherwise (R228). -/
def State.rowDrop (s : State) (c : CoreId) (row page : Nat) (sram : Bool) : State :=
  if !s.rowLive c row then s
  else
    let ctx := s.rowCtx c row
    let inst := (s.coreAt c).g.bank.inst
    let s := s.rowLeaves c row 4
    let s := s.toLantern c (.rowEvent c inst ctx (.drop page sram))
    let gpn := (s.leaf (s.ctxAt (ctxIndex ctx)).kvroot page).1
    let s := s.toTender (if gpn = 0 then dieOf c else homeDie gpn) (.need ctx.toNat page sram)
    s.noLive c

/-! ## Taking an exception (R340 to R345, R352) -/

/-- The trap causes (R340). -/
inductive Cause where
  | illegalOpcode | illegalOperand | portOversub | regionUndeclared | align | storePerm | handleBounds | bankLeak | bankState
  | waitTimeout | budget | probe | software | breakpoint | numeric | engineIllegal | softError
  deriving DecidableEq, Repr

/-- The cause codes (R340). -/
def Cause.code : Cause → Nat
  | .illegalOpcode => 0x01
  | .illegalOperand => 0x02
  | .portOversub => 0x03
  | .regionUndeclared => 0x04
  | .align => 0x05
  | .storePerm => 0x06
  | .handleBounds => 0x07
  | .bankLeak => 0x08
  | .bankState => 0x09
  | .waitTimeout => 0x0A
  | .budget => 0x0B
  | .probe => 0x0C
  | .software => 0x0D
  | .breakpoint => 0x0E
  | .numeric => 0x0F
  | .engineIllegal => 0x10
  | .softError => 0x11

/-- The causes that an open budget window absorbs (R331); a store fault is absorbed by its store's own window instead. -/
def Cause.absorbed : Cause → Bool
  | .illegalOperand => true
  | .regionUndeclared => true
  | .align => true
  | .software => true
  | .waitTimeout => true
  | .numeric => true
  | _ => false

/-- An exception: its cause, the group it was met at, the index of the raising word, and its DETAIL (R345). `shape` marks a
group-shape failure or a fetch outside the window, which terminate (R340). -/
structure Trap where
  cause : Cause
  pc : BitVec 32
  word : Nat
  detail : BitVec 32
  shape : Bool
  deriving DecidableEq, Repr

/-- TRAPINFO (R345). -/
def Trap.info (t : Trap) : Word :=
  BitVec.ofNat 64 (t.pc.toNat % 65536 * 2 ^ 48 + t.word % 8 * 2 ^ 45 + t.detail.toNat)

/-- A termination record (R352). -/
def termRecord (cause : Nat) (e : Eng) (dbl : Bool) (pc : BitVec 32) (detail : BitVec 32) : Word :=
  BitVec.ofNat 64
    (cause * 2 ^ 56 + e.code * 2 ^ 53 + (if dbl then 2 ^ 52 else 0) + pc.toNat % 65536 * 2 ^ 32 + detail.toNat)

/-- Terminate the row group of core `c` (R352), with a dump first where the operator enabled dumps for its PD (R381). -/
def State.terminate (s : State) (c : CoreId) (term : Word) : State :=
  let k := s.coreAt c
  if k.g.run.isNone || k.ending.isSome then s
  else
    let (s, d) := if s.dumpPds.contains k.g.bank.pd.toNat then s.dump c 3 else (s, 0xFFFF)
    s.endGroup c .terminated term d

/-- A group of the XS that ends its row group as it issues has issued: RETIRED counts it before the row group's dump (R78, R352, R381,
R418; log entry 39). -/
def State.countIssued (s : State) : State :=
  match s.side with
  | .xs => s.modG fun g => { g with retired := g.retired + 1 }
  | .as => s

/-- Enter the XS handler (R343): TRAPCAUSE and TRAPINFO take the exception, the return point is kept, handler mode is on, and
fetch goes to TRAPVEC after two hold cycles, of which the cycle of entry is the first. -/
def State.enterHandler (s : State) (t : Trap) (ret : BitVec 32) : State :=
  s.modG fun g =>
    { g with
      trapCause := BitVec.ofNat 8 t.cause.code, trapInfo := t.info, handler := some ⟨ret⟩
      xs := { g.xs with pc := if g.trapVec.toNat < 2 ^ 32 then BitVec.setWidth 32 g.trapVec else 0xFFFFFFFC#32, bubble := 1, waited := 0, waitFrom := 0, mod := none, remote := .idle } }

/-- A core stops at once with the source named, and writes a KIND 4 dump (R388, R390); one that halts, or has halted, takes the stop right
after its restore (R389). -/
def State.standStopped (s : State) (c : CoreId) (src : BitVec 3) : State :=
  let k := s.coreAt c
  if k.haltReq.isSome || k.halted.isSome then s.setCoreAt c { k with stopHalt := true, dbg := { k.dbg with stopReq := false, src := src } }
  else
    let s := s.openWaits c
    let (s, d) := s.dump c 4
    s.setCoreAt c { s.coreAt c with dbg := { k.dbg with stopped := true, stopReq := false, src := src, dumpId := d } }

/-- Stop a core for debugging (R388, R390); a second stop is discarded (R389), and a SCOPE 1 stop asks the instance's other cores to
stop. -/
def State.stopCore (s : State) (c : CoreId) (src : BitVec 3) : State :=
  let k := s.coreAt c
  if k.dbg.stopped || k.stopHalt then s
  else
    let s := s.standStopped c src
    if k.dbg.scope && src ≠ 4 then
      { s with
        cores := s.cores.mapFinIdx fun n x _ =>
          if n ≠ c.val && x.g.run.isSome && x.g.bank.inst = k.g.bank.inst && !x.dbg.stopped then
            { x with dbg := { x.dbg with stopReq := true } }
          else x }
    else s

/-- Does a BKPT stop the core in focus (R340, R387, R388). -/
def State.bkptStops (s : State) : Bool := s.cur.dbg.bken && s.debugPds.contains s.g.bank.pd.toNat

/-- Take an exception on the sequencer at work; `ret` is the return point (R340, R341, R344).

A BKPT may stop the core. An AS exception terminates the row group. On the XS a budget window absorbs the causes of R331, NUMERIC without
touching the group that is due; a cause
whose reach is the handler enters it when TRAPVEC is not 0, no handler runs and the XS has not issued EXIT (R374); every other one
terminates, with DBL set in handler mode. -/
def State.takeTrap (s : State) (t : Trap) (ret : BitVec 32) : State :=
  if t.cause = .breakpoint && s.bkptStops then
    (s.modSeq fun q => { q with pc := ret, mod := none }).stopCore s.focus 1
  else
    match s.side with
    | .as => s.terminate s.focus (termRecord t.cause.code .as false t.pc t.detail)
    | .xs =>
      match (if t.cause.absorbed && !t.shape then s.g.win else none) with
      | some row =>
        let s := if t.cause = .numeric then s
          else s.modSeq fun q => { q with pc := ret, waited := 0, waitFrom := 0, mod := none, remote := .idle }
        s.rowTrap s.focus row t.cause.code 0 0 (s.rowLen s.focus row - 1) 0
      | none =>
        if !t.shape && s.g.handler.isNone && s.g.trapVec ≠ 0 && !s.g.xs.exited then s.enterHandler t ret
        else s.terminate s.focus (termRecord t.cause.code .xs s.g.handler.isSome t.pc t.detail)

/-- Return from the handler (R346): handler mode ends, TRAPCAUSE and TRAPINFO are cleared, and fetch resumes at the return point;
with store-fault records in the queue the handler is entered again with the head record's cause. Two hold cycles follow. -/
def State.returnFromTrap (s : State) : State :=
  match s.g.handler with
  | none => s
  | some h =>
    let s := s.modG fun g =>
      { g with
        handler := none, trapCause := 0, trapInfo := 0
        xs := { g.xs with pc := h.ret, bubble := 2, took := true } }
    match s.g.faultQ with
    | [] => s
    | r :: _ =>
      let s := s.enterHandler
        { cause := if r.cause = 6 then .storePerm else .handleBounds, pc := r.pc, word := 0,
          detail := BitVec.ofNat 32 s.g.faultQ.length, shape := false } h.ret
      s.modG fun g => { g with xs := { g.xs with bubble := 2 } }

end Sys2Proof.Machine
end

