-- ==== Sys2Proof/Machine/Sector.lean ====
section
/-! DEFINITION. The Sector unit's side of the taps (13): the token walk, probe scores, and the decisions of R317 on a block of
tokens. VTAP itself is in VecMem. -/

namespace Sys2Proof.Machine

/-- An exact value rounded to f32 with RNE and no flush; flags are dropped (R181, R315). -/
def f32Of (v : Val) : Lane := BitVec.ofNat 32 (floatFinish NumCtl.plain .f32 v).1

/-- The value of an f32 code. -/
def f32Val (c : Lane) : Val := decodeFlt .f32 c.toNat

/-- An f32 addition under RNE (R181). -/
def f32Add (a b : Lane) : Lane := f32Of (Val.add .rne (f32Val a) (f32Val b))

/-- The RLENs that the token walk of core `c` read at swap-in (R313). -/
def State.tapLens (s : State) (c : CoreId) : List Nat := (((s.coreAt c).g.run).map Run.lens).getD []

/-- TOT (R313): the total of RLEN over the records of core `c`, as swap-in read them. -/
def State.tapTotal (s : State) (c : CoreId) : Nat := (s.tapLens c).sum

/-- The record of the `t`-th token of records of some lengths, the first of them being record `r`, with the token's offset in it (R313). -/
def walkFrom : Nat → List Nat → Nat → Option (Nat × Nat)
  | _, [], _ => none
  | r, n :: l, t => if t < n then some (r, t) else walkFrom (r + 1) l (t - n)

/-- Walk (R313): the record of the `g`-th token and the token's offset in it. -/
def State.walk (s : State) (c : CoreId) (g : Nat) : Option (Nat × Nat) := walkFrom 0 (s.tapLens c) g

/-- An addition of the tree where a term may be missing: the other stands alone (R321). -/
def addPresent (a b : Option Lane) : Option Lane :=
  match a, b with
  | some x, some y => some (f32Add x y)
  | some x, none => some x
  | none, y => y

/-- The score of a token for a probe from its rounded products in their places (R181). -/
def probeScore (p : Probe) (terms : List (Option Lane)) : Lane := f32Add ((treeFold addPresent none 16 terms).getD 0) p.bias

/-- Is a probe crossed by a score: a NaN, or beyond THR on the side of DIR (R317). -/
def probeCrossed (p : Probe) (score : Lane) : Bool :=
  let v := f32Val score
  v.isNan || (if p.below then Val.lt v (f32Val p.thr) else Val.lt (f32Val p.thr) v)

/-- The first crossed probe of a row at a token of a site, with its score; the probes stand in rising order (R309, R317). -/
def crossedProbe (g : Group) (site tok : Nat) (probes : List Probe) : Option (Probe × Lane) :=
  probes.findSome? fun p =>
    match g.partials.find? fun (t : Partial) => t.site = site && t.tok = tok && t.probe = p.idx with
    | none => none
    | some t =>
      let sc := probeScore p t.terms
      if probeCrossed p sc then some (p, sc) else none

/-- Decide(g) of R317 on one token of core `c`. -/
def State.decideToken (s : State) (c : CoreId) (site : Nat) (tok : Nat) : State :=
  let g := (s.coreAt c).g
  match s.walk c tok with
  | none => s
  | some (r, off) =>
    if !s.rowLive c r || g.trappedRows.contains r then s
    else match (g.tapTable.find? fun b => b.row = r && b.site = site) with
      | none => s
      | some b =>
        match crossedProbe g site tok b.probes with
        | none => s
        | some (p, sc) => s.rowTrap c r Cause.probe.code p.idx site off sc

/-- The decisions on a block of tokens, in walk order; the block's partial sums are then done with (R315 to R318). -/
def State.decideBlock (s : State) (c : CoreId) (site first rows : Nat) : State :=
  let s := (List.range rows).foldl (fun s k => s.decideToken c site (first + k)) s
  s.modGAt c fun g =>
    { g with partials := g.partials.filter fun t => !(t.site = site && first ≤ t.tok && t.tok < first + rows) }

end Sys2Proof.Machine
end

