-- ==== Sys2Proof/Machine/Results.lean ====
section
/-! DEFINITION. Pending results: making them, and writing those that are due (R85 to R87, R128, R185, R316, R328); and the store
queue's entries and their check (R149, R203, R232, R349). -/

namespace Sys2Proof.Machine

/-! ## Making results -/

/-- The index of the group in issue: RETIRED before it issues on the XS (R350, R365), the cycle count on the AS. -/
def State.groupIndex (s : State) : Nat :=
  match s.side with
  | .xs => s.g.retired
  | .as => s.g.as_.ic

/-- FCR.TEN (R80). -/
def State.ten (s : State) : BitVec 5 :=
  match s.side with
  | .xs => s.g.fcr.extractLsb' 8 5
  | .as => 0

/-- A result of the sequencer at work, written `lat` issue cycles after this one (R85). -/
def State.result (s : State) (lat : Nat) (d : Dest) (v : Word) (fl : Flags) : State :=
  let p : Pend :=
    { due := s.seq.ic + lat, ord := s.groupIndex, ret := s.g.retired, pc := s.seq.grpStart, dest := d, val := v, flags := fl, ten := s.ten }
  s.modSeq fun q => { q with pend := q.pend ++ [p] }

/-- A result whose flags are set when it is written and raise no NUMERIC (R130). -/
def State.quietResult (s : State) (lat : Nat) (d : Dest) (v : Word) (fl : Flags) : State :=
  let p : Pend := { due := s.seq.ic + lat, ord := s.groupIndex, ret := s.g.retired, pc := s.seq.grpStart, dest := d, val := v, flags := fl, ten := 0 }
  s.modSeq fun q => { q with pend := q.pend ++ [p] }

/-- A scalar result for an X register. -/
def State.xResult (s : State) (lat : Nat) (r : RegNum) (v : Word) (fl : Flags) : State := s.result lat (.x r) v fl

/-- A result for a predicate register, written to the register that its name maps to now (R141). -/
def State.pResult (s : State) (lat : Nat) (r : RegNum) (b : Bool) (fl : Flags) : State :=
  s.result lat (.p (physP s.seq.prb r)) (if b then 1 else 0) fl

/-! ## Control registers (R78, R83) -/

/-- A control register takes a value that WRCR has checked (R83); writing 0 to a loop counter ends its loop (R143). -/
def State.setCr (s : State) (n : Nat) (v : Word) : State :=
  match n with
  | 0x00 => s.modG fun g => { g with shp := v }
  | 0x01 => s.modG fun g => { g with fcr := v }
  | 0x02 => s.modG fun g => { g with fsr := BitVec.setWidth 8 v }
  | 0x03 => s.modG fun g => { g with vrb := Fin.ofNat 32 v.toNat }
  | 0x04 => s.modSeq fun q => { q with prb := Fin.ofNat 32 v.toNat }
  | 0x09 => s.modG fun g => { g with trapVec := v }
  | 0x0D => s.modG fun g => { g with waitMax := v.toNat }
  | _ =>
    if 5 ≤ n ∧ n ≤ 8 then
      let k : Fin 4 := Fin.ofNat 4 (n - 5)
      s.modSeq fun q =>
        { q with
          lc := q.lc.set k (BitVec.setWidth 32 v)
          loops := if v = 0 then q.loops.set k { q.loops[k] with active := false } else q.loops }
    else s

/-- Is a pending result a write of a control register. -/
def Pend.isCr (p : Pend) : Bool :=
  match p.dest with
  | .cr _ => true
  | _ => false

/-! ## Writing results -/

/-- The group with a result written to its register (R71, R72, R85). A control register, the stream of a row and a decision act on
more than registers and are not written here. -/
def Group.putResult (g : Group) (side : Side2) (p : Pend) : Group :=
  match p.dest with
  | .x r => g.modSeq side fun q => q.setX r p.val
  | .p r => g.modSeq side fun q => q.setPhysP r (p.val != 0)
  | .v lanes => lanes.foldl Group.setLane g
  | _ => g

/-- The row whose stream a pending result writes. -/
def Pend.rngRow (p : Pend) : Option Nat :=
  match p.dest with
  | .rng row _ _ => some row
  | _ => none

/-- Write one pending result of the sequencer at work. A row's stream that a later word has already written is not taken back to an
older one (R328). -/
def State.putResult (s : State) (p : Pend) : State :=
  match p.dest with
  | .decide site first rows => s.decideBlock s.focus site.val first rows
  | .rng row st count =>
    let s := s.setRowField s.focus row 32 32 (st.s0.toNat + st.s1.toNat * 2 ^ 64 + st.s2.toNat * 2 ^ 128 + st.s3.toNat * 2 ^ 192)
    let s := s.setRowField s.focus row 64 8 count.toNat
    s.modSeq fun q => { q with pend := q.pend.filter fun o => !(o.rngRow = some row && o.ord < p.ord) }
  | .cr n => s.setCr n p.val
  | _ => s.modG fun g => g.putResult s.side p

/-- A result stops being pending, and on the XS sets its flags in FSR (R81, R127, R128). -/
def State.landFlags (s : State) (due : List Pend) : State :=
  match s.side with
  | .as => s
  | .xs => s.modG fun g => { g with fsr := due.foldl (fun f p => setFlags f p.flags) g.fsr }

/-- The enabled flags that a list of results raises, and the offset of the earliest-issued group among them (R128, R345). -/
def numericFired (due : List Pend) : Option (BitVec 5 × BitVec 32) :=
  let hit := due.filter fun p => numericTrap p.ten p.flags
  match hit with
  | [] => none
  | p :: rest =>
    let first := rest.foldl (fun (a : Pend) b => if b.ord < a.ord then b else a) p
    some (hit.foldl (fun f q => f ||| (q.flags.setWidth 5 &&& q.ten)) 0, first.pc)

/-- Is a decision of the Sector unit. -/
def Pend.isDecide (p : Pend) : Bool :=
  match p.dest with
  | .decide _ _ _ => true
  | _ => false

/-- Write every result of the sequencer at work that is due in this issue cycle, in issue order, decisions last; the NUMERIC
exception that their flags raise is answered beside the state (R85 to R87, R128, R341, R374). -/
def State.writeResults (s : State) : State × Option Trap :=
  let due := s.seq.pend.filter fun p => p.due ≤ s.seq.ic && !p.isCr
  if due.isEmpty then (s, none)
  else
    let s := s.modSeq fun q => { q with pend := q.pend.filter fun p => !(p.due ≤ q.ic && !p.isCr) }
    let s := (due.filter fun p => !p.isDecide).foldl State.putResult s
    let s := s.landFlags due
    let s := (due.filter Pend.isDecide).foldl State.putResult s
    match s.side with
    | .as => (s, none)
    | .xs =>
      if s.g.handler.isSome || s.g.xs.exited || s.g.run.isNone then (s, none)
      else
        (s, (numericFired due).map fun f =>
          { cause := .numeric, pc := f.2, word := 0, detail := BitVec.setWidth 32 f.1, shape := false })

/-- The writes of control registers by the group that has issued take effect for the groups after it (R83, R108). -/
def State.writeCrs (s : State) : State :=
  let due := s.seq.pend.filter Pend.isCr
  if due.isEmpty then s
  else due.foldl State.putResult (s.modSeq fun q => { q with pend := q.pend.filter fun p => !p.isCr })

/-! ## The store queue (R149, R203, R232, R349) -/

/-- Queue a store: one entry for each list of rows (R149, R203, R232). -/
def State.queueStore (s : State) (vec : Bool) (blocks : List (List (Word × List Byte))) : State :=
  let g := s.g
  let mk : Nat × List (Word × List Byte) → StoreEntry := fun b =>
    { no := g.storeNo, due := g.xs.ic + 12, pc := g.xs.grpStart + BitVec.ofNat 32 (4 * g.xs.idx), grp := g.retired, vec := vec,
      blk := b.1, win := g.win, rows := b.2 }
  let new := ((List.range blocks.length).zip blocks).map mk
  s.modG fun g => { g with storeQ := g.storeQ ++ new, storeNo := g.storeNo + 1 }

/-- The first byte of a row whose write is not permitted: outside a region with write access, or in the row area (R232). -/
def State.permFault (s : State) (r : Word × List Byte) : Option Word :=
  let bad : Word → Nat → Bool := fun a n => !checkRegion s.g s.focus a n .write || inRowArea s.g s.focus a n
  match ((List.range r.2.length).map fun k => r.1 + BitVec.ofNat 64 k).find? fun a => bad a 1 with
  | some a => some a
  | none => if bad r.1 r.2.length then some r.1 else none

/-- The first byte of a row that its handle does not allow (R217, R232). -/
def State.boundsFault (s : State) (r : Word × List Byte) : Option Word :=
  if spaceOf r.1 = 1 then
    ((List.range r.2.length).map fun k => r.1 + BitVec.ofNat 64 k).find? fun a => (s.translateHere s.g.bank.pd .write a).isNone
  else none

/-- A poisoned byte of the tables that the check of an entry reads: none where the entry's writes are not permitted, which is checked before
it (R232, R354; log entry 101). -/
def State.storePoison (s : State) (e : StoreEntry) : Option Nat :=
  if (e.rows.findSome? s.permFault).isSome then none
  else e.rows.findSome? fun r => s.tablePoison s.g.bank.pd r.1 r.2.length

/-- The check of one entry: the first failing byte and the cause, STORE_PERM before HANDLE_BOUNDS (R232). -/
def State.storeFault (s : State) (e : StoreEntry) : Option (Word × Nat) :=
  match e.rows.findSome? s.permFault with
  | some a => some (a, 6)
  | none => (e.rows.findSome? s.boundsFault).map fun a => (a, 7)

/-- Where a byte of a passed store goes: the core whose port it reaches, or none for memory, and its memory key. -/
def State.storeTarget (s : State) (a : Word) : Option (Option CoreId × Nat) :=
  match spaceOf a with
  | 0 => some (some (globalCore a), a.toNat)
  | 3 => some (some s.focus, sramKey s.focus (a.toNat % 2 ^ 22))
  | 1 => (s.translateHere s.g.bank.pd .write a).map fun key => (none, key)
  | _ => none

/-- Cut a list of bytes with their targets into runs for one port and one aligned 8-byte unit (R301). -/
def cutUnits : List ((Option CoreId × Nat) × Word × Byte) → List ((Option CoreId × Nat) × List (Word × Nat × Byte))
  | [] => []
  | ((d, key), a, b) :: rest =>
    match cutUnits rest with
    | ((d2, k2), cells) :: more =>
      if d = d2 && key / 8 = k2 / 8 then ((d, key), (a, key, b) :: cells) :: more
      else ((d, key), [(a, key, b)]) :: ((d2, k2), cells) :: more
    | [] => [((d, key), [(a, key, b)])]

/-- Perform an entry that has passed its check: local bytes are written, others leave on path XST (R149, R232). -/
def State.performStore (s : State) (e : StoreEntry) : State :=
  let c := s.focus
  let pd := s.g.bank.pd
  let targets := e.bytes.filterMap fun b => (s.storeTarget b.1).map fun t => (t, b.1, b.2)
  (cutUnits targets).foldl (fun s u =>
    let cells := u.2.map fun x => (x.2.1, x.2.2)
    let addrs := u.2.map fun x => x.1
    let global := (addrs.headD 0).toNat < 2 ^ 62
    if u.1.1 = some c then (s.portWrite c global pd cells).modG fun g => g.perform .xs
    else s.send { s.flightOf c .xst u.1.1 (.bytes cells) with no := e.no, global := global, addrs := addrs }) s

/-- Place a store-fault record, or mark the loss of one (R349). -/
def State.faultRecord (s : State) (r : FaultRec) : State :=
  s.modG fun g => if g.faultQ.length < 8 then { g with faultQ := g.faultQ ++ [r] } else { g with faultLost := true }

/-- The exception of the head record (R344, R345). -/
def State.headFault (s : State) : Option Trap :=
  s.g.faultQ.head?.map fun r =>
    { cause := if r.cause = 6 then .storePerm else .handleBounds, pc := r.pc, word := 0,
      detail := BitVec.ofNat 32 s.g.faultQ.length, shape := false }

/-- Is a pending release one that a store entry covers: its update is never made once the entry's check fails (R298, R305). -/
def Release.spoilt (r : Release) (c : CoreId) (e : StoreEntry) : Bool :=
  r.before.mask.getLsbD 0 && e.no < r.before.stores && !r.covers.isEmpty && touches r.covers c (e.bytes.map Prod.fst)

/-- The pending releases that cover a failed store are dropped, also where the failure is a row trap of a budget window (R298, R305; log
entry 100; DEDUCED). -/
def State.spoilReleases (s : State) (failed : List StoreEntry) : State :=
  s.modG fun g => { g with releases := g.releases.filter fun r => !failed.any (r.spoilt s.focus) }

/-- Check the store entries that are due in this issue cycle (R149, R203, R232). One word's entries are checked as one: if all pass,
each is performed; if any fails, no byte is written, and each failing entry makes a record (R349), or a row trap when its word
issued in a budget window (R331). The exception, if one is raised, is answered beside the state. An uncorrectable error in the tables
that a check reads ends the row group (R354). -/
def State.checkStores (s : State) : State × Option Trap :=
  let due := s.g.storeQ.filter fun e => e.due ≤ s.g.xs.ic
  if due.isEmpty then (s, none)
  else
    let s := s.modG fun g => { g with storeQ := g.storeQ.filter fun e => !(e.due ≤ g.xs.ic) }
    let bad := due.filterMap fun e => (s.storeFault e).map fun f => (e, f)
    match due.findSome? fun e => (s.storePoison e).map fun b => (e, b), bad with
    | some (e, b), _ =>
      (s.terminate s.focus (termRecord Cause.softError.code .xs s.g.handler.isSome e.pc (BitVec.ofNat 32 b)), none)
    | none, [] => (due.foldl State.performStore s, none)
    | none, (e, f) :: _ =>
      let s := s.spoilReleases (due.filter fun d => bad.any fun b => b.1.no = d.no)
      match e.win with
      | some row => (s.rowTrap s.focus row f.2 0 0 (s.rowLen s.focus row - 1) 0, none)
      | none =>
        let first := s.g.handler.isNone && s.g.faultQ.isEmpty
        let s := bad.foldl (fun s b =>
          s.faultRecord { addr := b.2.1, vec := b.1.vec, blk := b.1.blk, cause := b.2.2, pc := b.1.pc, grp := b.1.grp }) s
        (s, if first then s.headFault else none)

end Sys2Proof.Machine
end

