-- ==== Sys2Proof/Machine/Streams.lean ====
section
/-! DEFINITION. Streams as operand words see them: handle and KV ranges (R217, R219, R224), and the translated pieces that a ring record
keeps (R242). -/

namespace Sys2Proof.Machine

/-! ## Ranges -/

/-- Does the range lie wholly in one core's scratchpad. -/
def rangeLocal (c : CoreId) (r : Word × Nat) : Bool :=
  match localOff c r.1 with
  | some off => off + r.2 ≤ 0x400000
  | none => false

/-- Does the range lie in the scratchpad of a core of the cluster of `c` (R263). -/
def rangeCluster (c : CoreId) (r : Word × Nat) : Bool :=
  rangeLocal c r ||
    (spaceOf r.1 = 0 && layoutOk r.1 && clusterOf (globalCore r.1) = clusterOf c && r.1.toNat % 2 ^ 22 + r.2 ≤ 0x400000)

/-- Does a handle allow the range (R217). -/
def State.handleOk (s : State) (pd : BitVec 12) (acc : HAcc) (a : Word) (n : Nat) : Bool :=
  let e := (Tab.get 0 s.htbase pd.toNat).toNat + 32 * (a.toNat / 2 ^ 48 % 16384)
  let w0 := readLE s.mem (devKey e) 8
  let perm := match acc with
    | .read => bit w0 58
    | .write => bit w0 57
    | .atomic => bit w0 56
  let reserved := fld w0 48 2 != 0 || readLE s.mem (devKey (e + 24)) 8 != 0 || fld w0 61 2 == 3
  bit w0 63 && !reserved && a.toNat % 2 ^ 48 + n ≤ fld w0 0 48 && perm

/-- The translated pieces of a handle range, cut at the handle's pages (R217). -/
def State.handlePieces (s : State) (pd : BitVec 12) (acc : HAcc) : Nat → Word → Nat → List Piece
  | 0, _, _ => []
  | fuel + 1, a, n =>
    if n = 0 then []
    else
      let e := (Tab.get 0 s.htbase pd.toNat).toNat + 32 * (a.toNat / 2 ^ 48 % 16384)
      let w0 := readLE s.mem (devKey e) 8
      let pg := 2 ^ pageShift (fld w0 59 2)
      let part := if readLE s.mem (devKey (e + 16)) 8 = 0 then n else min n (pg - a.toNat % 2 ^ 48 % pg)
      match s.translate pd acc a with
      | some key => { lo := a, len := part, key := key } :: State.handlePieces s pd acc fuel (a + BitVec.ofNat 64 part) (n - part)
      | none => []

/-- The translation of a read of a sequencer at its issue: none but for a handle address (R217, R218). -/
def State.readPieces (s : State) (pd : BitVec 12) (a : Word) (n : Nat) : List Piece :=
  if spaceOf a = 1 then s.handlePieces pd .read 3 a n else []

/-! ## KV references (R219, R224) -/

/-- Is an address a resolved KV reference. -/
def isResolved (a : Word) : Bool := spaceOf a = 2 && bit a.toNat 50 && !bit a.toNat 49 && fld a.toNat 32 17 = 0

/-- Is an address a dropped KV reference. -/
def isDropped (a : Word) : Bool := spaceOf a = 2 && bit a.toNat 50 && bit a.toNat 49 && fld a.toNat 16 33 = 0

/-- ROW of a KV address. -/
def kvRow (a : Word) : Nat := fld a.toNat 52 10
/-- GEN of a resolved reference. -/
def kvGen (a : Word) : Nat := fld a.toNat 24 8
/-- SLOT of a resolved reference. -/
def kvSlot (a : Word) : Fin 256 := Fin.ofNat 256 (fld a.toNat 16 8)
/-- OFF of a KV address. -/
def kvOff (a : Word) : Nat := fld a.toNat 0 16

/-- The group with a slot set. -/
def Group.setSlot (g : Group) (k : Fin 256) (x : Slot) : Group := { g with slots := Tab.set Slot.empty g.slots k.val x }

/-- Does a declared KV region hold the bytes of a page, with the access (R219, R224). -/
def kvRegion (g : Group) (page off n : Nat) (acc : Acc) : Bool :=
  g.desc.regions.any fun r =>
    r.allows acc && spaceOf r.base = 2 && r.base.toNat ≤ 2 ^ 63 + page * 65536 + off
      && 2 ^ 63 + page * 65536 + off + n ≤ r.base.toNat + r.extent

/-- The range of a stream's elements in the OFF of its KV reference: first and one past the last (R224). -/
def agKvRange (a : Ag) : Int × Int :=
  let b := agSpan a
  ((kvOff (agBase a) : Int) + b.1, (kvOff (agBase a) : Int) + b.2 + 1)

/-- The checks of R224 on a stream's KV reference. A reference to a slot that holds no page fails like one of another GEN. -/
def kvOk (g : Group) (a : Ag) (acc : Acc) : Bool :=
  let r := agKvRange a
  let inPage := 0 ≤ r.1 && r.2 ≤ 65536
  if isDropped (agBase a) then inPage
  else if isResolved (agBase a) then
    let sl := g.slot (kvSlot (agBase a))
    inPage && sl.held && sl.gen.val = kvGen (agBase a) && kvRegion g sl.page r.1.toNat (r.2 - r.1).toNat acc
      && (acc != .write || ((sl.vlen * 64 : Nat) ≤ r.1 && !sl.shared))
  else false

/-- The pieces of a stream's footprint (R242): none for a dropped reference. -/
def State.footPieces (s : State) (acc : HAcc) (a : Ag) : List Piece :=
  let c := s.focus
  (agFoot a).flatMap fun r =>
    match spaceOf r.1 with
    | 0 => [{ lo := r.1, len := r.2, key := r.1.toNat }]
    | 1 => s.handlePieces s.g.bank.pd acc (r.2 / 65536 + 2) r.1 r.2
    | 2 =>
      if isResolved (agBase a) then
        let sl := s.g.slot (kvSlot (agBase a))
        let loc := if sl.sram then sl.loc.toNat else devKey sl.loc.toNat
        [{ lo := r.1, len := r.2, key := loc + kvOff r.1 }]
      else []
    | _ => [{ lo := r.1, len := r.2, key := sramKey c (r.1.toNat % 2 ^ 22) }]

/-- The memory key of an address under a list of pieces. -/
def pieceKey (ps : List Piece) (a : Word) : Option Nat :=
  (ps.find? fun p => p.lo.toNat ≤ a.toNat && a.toNat < p.lo.toNat + p.len).map fun p => p.key + (a.toNat - p.lo.toNat)

end Sys2Proof.Machine
end

