-- ==== Sys2Proof/Machine/Operands.lean ====
section
/-! DEFINITION. What a sequencer word names and reads: source and destination registers, guards, modifiers, pipes; legality on a
sequencer (R100, R114), operand conditions (R101 step 2), and the shape and port rules of a group (R87 to R89, R97 to R99). -/

namespace Sys2Proof.Machine

/-! ## Registers that a word names -/

/-- The X registers that a word reads, as written (R89, R103 to R112). -/
def xReads : Instr → List RegNum
  | .add _ a b _ | .sub _ a b _ | .mul _ a b _ | .mulh _ a b _ | .mulhu _ a b _ | .div _ a b _ | .divu _ a b _
  | .rem _ a b _ | .remu _ a b _ | .and_ _ a b _ | .or_ _ a b _ | .xor_ _ a b _ | .andn _ a b _ | .shl _ a b _
  | .shr _ a b _ | .sar _ a b _ | .rotl _ a b _ | .min _ a b _ | .max _ a b _ | .minu _ a b _ | .maxu _ a b _
  | .sel _ a b _ | .bfx _ a b _ | .bfxs _ a b _ | .fadd _ a b _ | .fsub _ a b _ | .fmul _ a b _ | .fmin _ a b _
  | .fmax _ a b _ => [a, b]
  | .fshl d a b _ | .fshr d a b _ | .bfi d a b _ | .ffma d a b _ => [d, a, b]
  | .clz _ a _ | .ctz _ a _ | .popc _ a _ | .bswap _ a _ | .mov _ a _ => [a]
  | .fcvt _ a _ _ _ => [a]
  | .addi _ a _ | .andi _ a _ | .ori _ a _ | .xori _ a _ | .muli _ a _ | .mini _ a _ | .maxi _ a _ => [a]
  | .shli _ a _ | .shri _ a _ | .sari _ a _ => [a]
  | .lish d _ => [d]
  | .jr a | .ret a | .callr _ a | .loop _ a _ | .loopr _ a _ _ _ => [a]
  | .cmp _ _ a b => [a, b]
  | .cmpi _ _ a _ => [a]
  | .ld _ a _ _ _ | .ldq _ a _ _ _ | .qpush _ a | .agdef _ a | .agset _ a _ | .agadv _ a _ | .aggath _ _ a | .pgref _ a
  | .cmdw _ a | .wpwait _ a | .vldx _ a _ | .vmaskrow _ a => [a]
  | .st b a _ _ => [b, a]
  | .vld _ a b | .vst _ a b | .vins _ a b => [a, b]
  | .vextr _ _ b => [b]
  | .vsplat _ x => [x]
  | .semwait t _ | .semwaitb t _ => [t]
  | .semsigLocal a _ | .semsetLocal a _ => [a]
  | .semsigRemote a b | .semsetRemote a b => [a, b]
  | .semrdRemote _ b => [b]
  | .acq _ t b => [t, b]
  | .rel _ a b => [a, b]
  | .bind _ a | .abfree a _ | .rngdrawRaw _ a | .rngdrawUnit _ a => [a]
  | .rngskip a b => [a, b]
  | .wrcr a _ | .rowmask a => [a]
  | _ => []

/-- The V registers that a word reads, as written, each member of a group apart (R89, R110, R186). -/
def vReads : Instr → List Nat
  | .vadd _ a b | .vsub _ a b | .vmul _ a b | .vmin _ a b | .vmax _ a b | .vabsd _ a b | .vand _ a b | .vor _ a b
  | .vxor _ a b | .vandn _ a b | .vshl _ a b | .vshr _ a b | .vsar _ a b | .vcmpeq _ a b | .vcmpne _ a b
  | .vcmplt _ a b | .vcmple _ a b | .vbfx _ a b | .vlut _ a b | .vquant _ a b | .vdeq _ a b => [a.reg.val, b.reg.val]
  | .vfma d a b | .vfms d a b | .vsel d a b | .vfsh d a b => [a.reg.val, b.reg.val, d.val]
  | .vunMov _ a | .vunNeg _ a | .vunAbs _ a | .vunNot _ a | .vunCvt _ a | .vunExp _ a | .vunExp2 _ a | .vunLog2 _ a
  | .vunRcp _ a | .vunRsq _ a | .vunSqrt _ a | .vunTanh _ a | .vunSigm _ a | .vunErf _ a | .vunClz _ a | .vunPopc _ a
  | .vunUnpk _ a => [a.reg.val]
  | .vunPack _ a => [a.reg.val, a.reg.val + 1]
  | .vred _ a _ _ | .vscan _ a _ _ => [a.reg.val]
  | .vshli _ a _ | .vshri _ a _ | .vsari _ a _ => [a.reg.val]
  | .vst v _ _ => [v.reg.val]
  | .vldx _ _ i => [i.reg.val]
  | .vextr _ v _ => [v.reg.val]
  | .vtap v _ => [v.reg.val]
  | _ => []

/-- The predicate registers that a word reads beside a modifier's guard, as written. -/
def pReads : Instr → List RegNum
  | .brp _ p _ => [p]
  | .plog _ a b _ => [a, b]
  | .qpushb p _ => [p]
  | .sel _ _ _ p => [Fin.ofNat 64 p.val]
  | .add _ _ _ g | .sub _ _ _ g | .mul _ _ _ g | .mulh _ _ _ g | .mulhu _ _ _ g | .div _ _ _ g | .divu _ _ _ g
  | .rem _ _ _ g | .remu _ _ _ g | .and_ _ _ _ g | .or_ _ _ _ g | .xor_ _ _ _ g | .andn _ _ _ g | .shl _ _ _ g
  | .shr _ _ _ g | .sar _ _ _ g | .rotl _ _ _ g | .min _ _ _ g | .max _ _ _ g | .minu _ _ _ g | .maxu _ _ _ g
  | .bfx _ _ _ g | .bfxs _ _ _ g | .fadd _ _ _ g | .fsub _ _ _ g | .fmul _ _ _ g | .fmin _ _ _ g | .fmax _ _ _ g
  | .fshl _ _ _ g | .fshr _ _ _ g | .bfi _ _ _ g | .ffma _ _ _ g => [Fin.ofNat 64 g.val]
  | .clz _ _ g | .ctz _ _ g | .popc _ _ g | .bswap _ _ g | .mov _ _ g => [Fin.ofNat 64 g.val]
  | .fcvt _ _ _ _ g => [Fin.ofNat 64 g.val]
  | _ => []

/-- The guard that a class 0 word carries in G; SEL's G is its selector (R103). -/
def guardField (i : Instr) : RegNum :=
  match i with
  | .sel _ _ _ _ => 0
  | _ => if i.cls = some .c0 then (pReads i).headD 0 else 0

/-- A destination register as written (R87). -/
inductive DestName where
  | x (r : Nat)
  | p (r : Nat)
  | v (r : Nat)
  deriving DecidableEq, Repr

/-- The X register that a word writes. -/
def xDest : Instr → Option RegNum
  | .add d _ _ _ | .sub d _ _ _ | .mul d _ _ _ | .mulh d _ _ _ | .mulhu d _ _ _ | .div d _ _ _ | .divu d _ _ _
  | .rem d _ _ _ | .remu d _ _ _ | .and_ d _ _ _ | .or_ d _ _ _ | .xor_ d _ _ _ | .andn d _ _ _ | .shl d _ _ _
  | .shr d _ _ _ | .sar d _ _ _ | .rotl d _ _ _ | .min d _ _ _ | .max d _ _ _ | .minu d _ _ _ | .maxu d _ _ _
  | .sel d _ _ _ | .fshl d _ _ _ | .fshr d _ _ _ | .bfx d _ _ _ | .bfxs d _ _ _ | .bfi d _ _ _ | .fadd d _ _ _
  | .fsub d _ _ _ | .fmul d _ _ _ | .fmin d _ _ _ | .fmax d _ _ _ | .ffma d _ _ _ => some d
  | .clz d _ _ | .ctz d _ _ | .popc d _ _ | .bswap d _ _ | .mov d _ _ => some d
  | .fcvt d _ _ _ _ => some d
  | .addi d _ _ | .andi d _ _ | .ori d _ _ | .xori d _ _ | .muli d _ _ | .mini d _ _ | .maxi d _ _ => some d
  | .shli d _ _ | .shri d _ _ | .sari d _ _ => some d
  | .li d _ | .lish d _ => some d
  | .call d _ => some d
  | .callr d _ => some d
  | .ld d _ _ _ _ => some d
  | .qpop _ d | .qpeek _ d | .qcnt _ d => some d
  | .pgref d _ => some d
  | .vextr d _ _ => some d
  | .semrdLocal d _ => some d
  | .semrdRemote d _ => some d
  | .aballoc d _ => some d
  | .rngdrawRaw d _ | .rngdrawUnit d _ => some d
  | .rdcr d _ => some d
  | .frqpop d => some d
  | _ => none

/-- The V registers that a word writes, as written. -/
def vDests : Instr → List Nat
  | .vadd d _ _ | .vsub d _ _ | .vmul d _ _ | .vfma d _ _ | .vfms d _ _ | .vmin d _ _ | .vmax d _ _ | .vabsd d _ _
  | .vand d _ _ | .vor d _ _ | .vxor d _ _ | .vandn d _ _ | .vshl d _ _ | .vshr d _ _ | .vsar d _ _ | .vsel d _ _
  | .vcmpeq d _ _ | .vcmpne d _ _ | .vcmplt d _ _ | .vcmple d _ _ | .vbfx d _ _ | .vfsh d _ _ | .vlut d _ _
  | .vdeq d _ _ => [d.val]
  | .vunMov d _ | .vunNeg d _ | .vunAbs d _ | .vunNot d _ | .vunCvt d _ | .vunExp d _ | .vunExp2 d _ | .vunLog2 d _
  | .vunRcp d _ | .vunRsq d _ | .vunSqrt d _ | .vunTanh d _ | .vunSigm d _ | .vunErf d _ | .vunClz d _ | .vunPopc d _
  | .vunPack d _ => [d.val]
  | .vunIota d => [d.val]
  | .vunUnpk d _ => [d.val, d.val + 1]
  | .vquant d _ _ => [d.val, d.val + 1]
  | .vred d _ _ _ | .vscan d _ _ _ => [d.val]
  | .vshli d _ _ | .vshri d _ _ | .vsari d _ _ => [d.val]
  | .vsplat d _ => [d.val]
  | .vld d _ _ | .vins d _ _ => [d.val]
  | .vldx d _ _ => [d.val]
  | .vmaskrow d _ => [d.val]
  | .vtap v _ => [v.reg.val]
  | _ => []

/-- The destination registers of a word, as written; FRQPOP writes a pair (R87, R350). -/
def destNames (i : Instr) : List DestName :=
  let xs := match i with
    | .frqpop d => [DestName.x d.val, DestName.x (d.val + 1)]
    | _ => (xDest i).toList.map fun r => .x r.val
  let ps := match i with
    | .cmp _ p _ _ => [DestName.p p.val]
    | .cmpi _ p _ _ => [DestName.p p.val]
    | .plog d _ _ _ => [DestName.p d.val]
    | _ => []
  xs ++ ps ++ (vDests i).map .v

/-! ## Pipes (R88) -/

/-- Is a word a vector word of its group: class 4 or 5, or VTAP. -/
def isVecWord (i : Instr) : Bool :=
  i.cls = some .c4 || i.cls = some .c5 ||
    (match i with
     | .vtap _ _ => true
     | _ => false)

/-- Is a word VA-only. -/
def vaOnly : Instr → Bool
  | .vmul .. | .vfma .. | .vfms .. | .vlut .. | .vquant .. | .vdeq .. | .vtap .. => true
  | .vunExp .. | .vunExp2 .. | .vunLog2 .. | .vunRcp .. | .vunRsq .. | .vunSqrt .. | .vunTanh .. | .vunSigm ..
  | .vunErf .. => true
  | _ => false

/-- The row-blocks of the shape in force: the cycles for which a word keeps its pipe. -/
def rowBlocks (rows : Nat) : Nat := (rows + 7) / 8

/-! ## Legality (R83, R100, R114, R346, R360, R372) -/

/-- Is the word legal on the AS (R100). -/
def asLegal : Instr → Bool
  | .brq .. => false
  | .st .. | .vld .. | .vst .. | .vldx .. | .vextr .. | .vins .. | .vshape .. | .vtap .. | .vmaskrow .. => false
  | .tokpop .. | .tokpush .. | .sdrain | .aballoc .. | .abfree .. | .rngdrawRaw .. | .rngdrawUnit .. | .rngskip .. => false
  | .trap .. | .rett | .termg | .yield | .ctxsw | .frqpop .. | .rowmask .. => false
  | i => i.isWord && !i.isModifier && i.cls ≠ some .c4 && i.cls ≠ some .c5

/-- Is the word legal on the XS (R100). -/
def xsLegal : Instr → Bool
  | .ldq .. | .qpushb .. | .agdef .. | .agset .. | .agadv .. | .agld .. | .aggath .. | .pgref .. | .cmdw .. | .cmdpub .. => false
  | i => i.isWord

/-- Can a sequencer name a control register (R78). -/
def crReach (side : Side2) (n : Nat) : Bool :=
  match side with
  | .xs => n ≤ 0x17
  | .as => n ≤ 0x17 && ((4 ≤ n && n ≤ 8) || 0x0D ≤ n)

/-- Is a control register that a sequencer can name read-only to it (R78). -/
def crReadOnly (side : Side2) (n : Nat) : Bool :=
  match side with
  | .xs => !(n ≤ 9 || n = 0x0D)
  | .as => !(4 ≤ n && n ≤ 8)

/-- The FIELD values of AGSET (R237). -/
def agsetField (f : Nat) : Bool := f ≤ 25 || (32 ≤ f && f ≤ 41) || f = 48

/-- Does a word raise ILLEGAL_OPCODE on the sequencer at work, its group's shape and its modifier apart (R83, R100, R237, R346,
R360, R372). `hasC2` says that its group holds a class 2 word. -/
def State.illegalWord (s : State) (hasC2 : Bool) (i : Instr) : Bool :=
  let legal := match s.side with
    | .as => asLegal i
    | .xs => xsLegal i
  !legal ||
    (match i with
     | .rdcr _ n => !crReach s.side n.val
     | .wrcr _ n => !crReach s.side n.val
     | .agset _ _ f => !agsetField f.toNat
     | .rett => s.g.handler.isNone || hasC2
     | .exit => s.side = .xs && s.g.handler.isSome
     | .yield => s.g.handler.isSome
     | _ => false)

/-- Does a word accept SAT, CLAMP, NEGA, ABSA and SCALE (R114). -/
def acceptsArith : Instr → Bool
  | .add .. | .sub .. | .mul .. | .min .. | .max .. | .fadd .. | .fsub .. | .fmul .. | .fmin .. | .fmax .. | .ffma ..
  | .fcvt .. | .addi .. | .muli .. => true
  | .vadd .. | .vsub .. | .vmul .. | .vfma .. | .vfms .. | .vmin .. | .vmax .. | .vabsd .. => true
  | .vunCvt .. | .vunExp .. | .vunExp2 .. | .vunLog2 .. | .vunRcp .. | .vunRsq .. | .vunSqrt .. | .vunTanh ..
  | .vunSigm .. | .vunErf .. => true
  | .vred _ _ _ o => o = .add
  | .vscan _ _ _ o => o = .add
  | .vquant .. | .vdeq .. => true
  | _ => false

/-- Does a word accept NEGB and ABSB (R114). -/
def acceptsB (i : Instr) : Bool :=
  acceptsArith i &&
    (match i with
     | .fcvt .. => false
     | _ => i.cls = some .c0 || i.cls = some .c4)

/-- Does a word accept RND (R114). -/
def acceptsRnd : Instr → Bool
  | .add .. | .sub .. | .mul .. | .min .. | .max .. | .addi .. | .muli .. => false
  | i => acceptsArith i

/-- May a modifier word precede a word (R114). -/
def modFits (m : Modifier) (i : Instr) : Bool :=
  let arith := m.sat || m.clamp != 0 || m.negA || m.absA || m.scale != 0
  let guard := m.gp != 0 || m.gn
  i.isWord && !i.isModifier && (!arith || acceptsArith i) && (!(m.negB || m.absB) || acceptsB i) && (m.rnd = .keep || acceptsRnd i)
    && (!guard || guardField i = 0)

/-! ## Guards and controls (R80, R113, R115, R127) -/

/-- Is the guard of a word true, from G and from its modifier (R113, R115, R147). -/
def State.guardTrue (s : State) (i : Instr) : Bool :=
  let q := s.seq
  q.getP (guardField i) &&
    (match q.mod with
     | none => true
     | some m => q.getP m.gp != m.gn)

/-- The clamp of a code (R113). -/
def clampOf (n : Fin 4) : Clamp :=
  match n with
  | 0 => .off
  | 1 => .pos
  | 2 => .sym
  | 3 => .unit

/-- The operand and result fields of a modifier word (R113). -/
def opMod (m : Modifier) : OpMod :=
  { sat := m.sat, clamp := clampOf m.clamp, negA := m.negA, absA := m.absA, negB := m.negB, absB := m.absB,
    scale := m.scale.toInt }

/-- The rounding mode that RND selects (R80, R113). -/
def rndMode (r : Rnd) (fcr : Word) : Rm :=
  match r with
  | .keep => rmOf (fld fcr.toNat 0 3)
  | .rne => .rne
  | .rtz => .rtz
  | .rup => .rup
  | .rdn => .rdn
  | .rna => .rna

/-- What a word captures at its issue (R80, R113); on the AS nothing but RNE (R127). -/
def State.numCtl (s : State) : NumCtl :=
  match s.side with
  | .as => NumCtl.plain
  | .xs =>
    let f := s.g.fcr.toNat
    match s.seq.mod with
    | none => { rm := rmOf (fld f 0 3), fza := bit f 4, fzb := bit f 5, fzc := bit f 6, fzd := bit f 7, mod := OpMod.plain }
    | some m => { rm := rndMode m.rnd s.g.fcr, fza := bit f 4, fzb := bit f 5, fzc := bit f 6, fzd := bit f 7, mod := opMod m }

/-! ## Control-register values (R74, R79, R80, R83) -/

/-- Is a value valid for a control register that WRCR writes. -/
def crValid (g : Group) (n : Nat) (v : Word) : Bool :=
  let w := v.toNat
  let tyOk : Nat → Nat → Nat → Bool := fun code p rest => code != 15 && (if code = 9 then p != 0 else p = 0 && rest = 0)
  match n with
  | 0x00 =>
    fld w 32 32 = 0 && fld w 0 2 = 0 && 1 ≤ fld w 26 6 && fld w 26 6 ≤ 32 && 1 ≤ fld w 20 6 && fld w 20 6 ≤ 32
      && tyOk (fld w 16 4) (fld w 13 3) (fld w 11 2) && tyOk (fld w 7 4) (fld w 4 3) (fld w 2 2)
  | 0x01 => fld w 13 51 = 0 && !bit w 3 && fld w 0 3 ≤ 4
  | 0x02 => w < 256
  | 0x03 => w = 0 || (32 < g.desc.vregs && w < g.desc.vregs - 32)
  | 0x04 => w < 32
  | 0x09 => w % 4 = 0
  | 0x0D => 1 ≤ w && w < 2 ^ 32
  | _ => if 5 ≤ n ∧ n ≤ 8 then w < 2 ^ 32 else true

/-! ## Vector operand rules (R72, R73, R110, R183, R186) -/

/-- Are the directions of a word's V operands admitted: the column view needs a square shape (R73). -/
def dirOk (g : Group) (v : VOp) : Bool := v.dir != .col || shpRows g.shp = shpLanes g.shp

/-- The V operands of a word, with their directions. -/
def vOps : Instr → List VOp
  | .vadd _ a b | .vsub _ a b | .vmul _ a b | .vfma _ a b | .vfms _ a b | .vmin _ a b | .vmax _ a b | .vabsd _ a b
  | .vand _ a b | .vor _ a b | .vxor _ a b | .vandn _ a b | .vshl _ a b | .vshr _ a b | .vsar _ a b | .vsel _ a b
  | .vcmpeq _ a b | .vcmpne _ a b | .vcmplt _ a b | .vcmple _ a b | .vbfx _ a b | .vfsh _ a b | .vlut _ a b
  | .vquant _ a b | .vdeq _ a b => [a, b]
  | .vunMov _ a | .vunNeg _ a | .vunAbs _ a | .vunNot _ a | .vunCvt _ a | .vunExp _ a | .vunExp2 _ a | .vunLog2 _ a
  | .vunRcp _ a | .vunRsq _ a | .vunSqrt _ a | .vunTanh _ a | .vunSigm _ a | .vunErf _ a | .vunClz _ a | .vunPopc _ a
  | .vunPack _ a | .vunUnpk _ a => [a]
  | .vred _ a _ _ | .vscan _ a _ _ => [a]
  | .vshli _ a _ | .vshri _ a _ | .vsari _ a _ => [a]
  | .vst v _ _ => [v]
  | .vldx _ _ i => [i]
  | .vextr _ v _ => [v]
  | .vtap v _ => [v]
  | _ => []

/-- Is a type an MX type, which nothing is written in (R162). -/
def NumTy.isMx : NumTy → Bool
  | .flt f => f.isMx
  | .int _ _ => false

/-- Is a type f32, f16 or bf16. -/
def NumTy.isIeee : NumTy → Bool
  | .flt f => f.isIeee
  | .int _ _ => false

/-- Is a type e3m2 or e2m3 (R183, the Bit group). -/
def NumTy.isSix : NumTy → Bool
  | .flt f => f.width = 6
  | .int _ _ => false

/-- Is a type an unsigned integer type. -/
def NumTy.isNat : NumTy → Bool
  | .int signed _ => !signed
  | .flt _ => false

/-- Is a type one that VQUANT writes: a 4- or 8-bit integer type, or binary8 (R200). -/
def NumTy.quantTarget : NumTy → Bool
  | .int _ w => w = 4 || w = 8
  | .flt f => f.isB8

/-- Does a class 4 or 5 word break the type and width rules of its group (R110, R162, R183, R194, R195, R197, R200, R201). -/
def typeFault (g : Group) (i : Instr) : Bool :=
  let e := shpEty g.shp
  let d := shpDty g.shp
  let arith := e.slot != d.slot || d.isMx
  match i with
  | .vand .. | .vor .. | .vxor .. | .vandn .. | .vsel .. | .vunMov .. | .vunNot .. => false
  | .vshl .. | .vshr .. | .vsar .. | .vfsh .. | .vunClz .. | .vunPopc .. => e.isSix
  | .vshli _ _ k | .vshri _ _ k | .vsari _ _ k => e.isSix || e.slot ≤ k.val
  | .vbfx .. => e.slot != 32
  | .vcmpeq .. | .vcmpne .. | .vcmplt .. | .vcmple .. => false
  | .vadd .. | .vsub .. | .vmul .. | .vfma .. | .vfms .. | .vmin .. | .vmax .. | .vabsd .. | .vunNeg .. | .vunAbs ..
  | .vred .. | .vscan .. => arith
  | .vunExp .. | .vunExp2 .. | .vunLog2 .. | .vunRcp .. | .vunRsq .. | .vunSqrt .. | .vunTanh .. | .vunSigm ..
  | .vunErf .. => arith || !e.isFlt || !d.isFlt
  | .vsplat .. | .vunIota .. | .vunCvt .. => d.isMx
  | .vlut _ _ b => !e.isNat || e.slot != d.slot || b.dir != .plain
  | .vunPack _ a => d.isMx || 2 * d.slot != e.slot || a.dir != .plain
  | .vunUnpk .. => d.isMx || d.slot != 2 * e.slot
  | .vquant .. => !e.isIeee || !d.quantTarget || shpLanes g.shp < 8
  | .vdeq _ _ b => 8 < e.slot || !d.isIeee || shpLanes g.shp < 8 || !(b.dir = .plain || b.dir = .bcast)
  | _ => false

/-- Does a register group of a word start on an odd register (R186). -/
def groupFault : Instr → Bool
  | .vunPack _ a => a.reg.val % 2 = 1
  | .vunUnpk d _ => d.val % 2 = 1
  | .vquant d _ _ => d.val % 2 = 1
  | _ => false

/-- The element count of a VTAP chunk (R314). -/
def tapElems (g : Group) : Nat := shpLanes g.shp * (shpEty g.shp).perLane

/-- Does a VTAP break its operand rules (R314). -/
def State.tapFault (s : State) (v : VOp) (site : Fin 8) : Bool :=
  let g := s.g
  let st := g.sites[site]
  let e := tapElems g
  g.desc.ntaps ≤ site.val || v.dir != .plain || !(shpEty g.shp = .flt .f32 || shpEty g.shp = .flt .bf16)
    || e < 8 || 2 ^ Nat.log2 e != e || (0 < st.chunk && e != st.e) || s.tapTotal s.focus ≤ st.tcur

/-! ## Shape and ports (R87 to R89, R97 to R99) -/

/-- The class field of a word that may have no instruction, for the shape rules. -/
def rawClass (w : Nat) : Nat := fld w 28 3

/-- Is a word a modifier word by its fields. -/
def rawModifier (w : Nat) : Bool := rawClass w = 7 && fld w 26 2 = 0

/-- Does a group keep the shape of R98 or R99. DESIGN CHOICE (log entry 89): a class 7 word of a reserved SUB counts as a system
word, so that beside a class 6 word the group fails its shape. -/
def shapeOk (side : Side2) (ws : List Nat) : Bool :=
  let ops := ws.filter fun w => !rawModifier w
  let n : (Nat → Bool) → Nat := fun p => (ops.filter fun w => p (rawClass w)).length
  match side with
  | .xs =>
    n (fun k => k ≤ 1) ≤ 1 && n (· == 2) ≤ 1 && n (· == 3) ≤ 1 && n (fun k => k == 6 || k == 7) ≤ 1
      && n (fun k => k == 4 || k == 5) ≤ 2 && ops.length ≤ 4 && ws.length - ops.length ≤ 2
  | .as =>
    ops.length = ws.length && 1 ≤ ops.length && ops.length ≤ 2 && n (· == 2) ≤ 1 && n (· == 3) ≤ 1
      && n (fun k => k == 6 || k == 7) ≤ 1

/-- Does a group need more bank ports than there are (R89). -/
def portsFault (is : List Instr) : Bool :=
  let xs := ((is.flatMap xReads).filter (· != 0)).eraseDups
  let vs := (is.flatMap vReads).eraseDups
  ((List.range 2).any fun k => 3 < (xs.filter fun r => r.val % 2 = k).length)
    || (List.range 4).any fun k => 2 < (vs.filter fun r => r % 4 = k).length

/-- The index in a list of words of the first that names a destination named before it (R87). -/
def destClash : List DestName → Nat → List (Option Instr) → Option Nat
  | _, _, [] => none
  | seen, k, none :: rest => destClash seen (k + 1) rest
  | seen, k, some i :: rest =>
    if (destNames i).any seen.contains then some k else destClash (seen ++ destNames i) (k + 1) rest

/-- The index of the vector word that a group's pipes cannot take: a second VA-only word, or a third vector word (R88). -/
def pipeClash (is : List (Option Instr)) : Option Nat :=
  let vecs := ((List.range is.length).zip is).filterMap fun e =>
    match e.2 with
    | some i => if isVecWord i then some (e.1, vaOnly i) else none
    | none => none
  if 3 ≤ vecs.length || 2 ≤ (vecs.filter fun e => e.2).length then vecs.getLast?.map Prod.fst else none

/-- The pops of queues that a word makes. -/
def popsQueue : Instr → Option Nat
  | .qpop q _ => some q.val
  | .brq _ _ => some 8
  | _ => none

/-- The index of the word that pops a queue which an earlier word of the group pops (R151). -/
def popClash : List Nat → Nat → List (Option Instr) → Option Nat
  | _, _, [] => none
  | seen, k, none :: rest => popClash seen (k + 1) rest
  | seen, k, some i :: rest =>
    match popsQueue i with
    | none => popClash seen (k + 1) rest
    | some q => if seen.contains q then some k else popClash (q :: seen) (k + 1) rest

end Sys2Proof.Machine
end

