-- ==== Sys2Proof/Machine/Checks.lean ====
section
/-! DEFINITION. The checks that a word meets when its group comes to issue (R101 steps 2, 4 and 5): operand conditions, the operand
words of CMDW (R241 to R248, R263 to R276), regions and alignment; and the waits and holds of R84 and R288. -/

namespace Sys2Proof.Machine

/-! ## CMDW (R241, R242, R245, R263) -/

/-- What the next CMDW of a ring writes (R241). -/
inductive CmdwSlot where
  | header
  | value
  | operand (op : Nat) (idx : Nat) (k : ArgKind)
  deriving DecidableEq, Repr

/-- What the next CMDW of a ring writes. -/
def cmdwSlot (r : Ring) (q : RingState) : CmdwSlot :=
  match q.openHdr with
  | none => .header
  | some h =>
    let op := fld h.toNat 26 6
    match (argKinds r op)[q.openArgs.length]? with
    | none => .value
    | some .value => .value
    | some k => .operand op q.openArgs.length k

/-- NB(R) of R256: the banks that a tile of R rows covers. -/
def tileBanks (rows : Nat) : Nat := (3 * rows + 7) / 8

/-- The type of a type descriptor, when its bits are allowed (R264). -/
def tdType (td : Nat) : Option NumTy :=
  let code := fld td 5 4
  let p := fld td 2 3
  if code = 15 || (if code = 9 then p = 0 else fld td 0 5 != 0) then none else numTyOf code p (bit td 1) (bit td 0)

/-- The codes that an operand of MMA may have (R264). -/
def mmaCode (td : Nat) : Bool := [2, 5, 6, 7, 8, 9, 10, 11, 12, 13, 14].contains (fld td 5 4)

/-- The width of an element in a stream: the 6-bit types count as 6 (R264). -/
def streamWidth (t : NumTy) : Nat :=
  match t with
  | .int _ w => w
  | .flt f => f.width

/-- Does a stream have the element width of a type descriptor. -/
def tdFits (td : Nat) (a : Ag) : Bool :=
  match tdType td with
  | some t => agBits a = streamWidth t
  | none => false

/-- The allowed pairs of scale modes (R245). -/
def scalePair (s d : Ag) : Bool :=
  ([(0, 0), (1, 1), (2, 2), (3, 3), (3, 2)].contains (agScm s, agScm d))
    && (agScm s = 0 || agScm d = 0 || (agBlk s = agBlk d && agCount s 0 = agCount d 0))

/-- The width of a combining TYPE (R247). -/
def combineWidth (ty : Nat) : Nat := [32, 32, 32, 16, 16, 16, 16, 8, 8, 64, 64].getD ty 0

/-- Are the options of ACCW and FETCHOP well formed for streams of a width (R247). -/
def combineOpt (fetch : Bool) (opt w : Nat) : Bool :=
  let ty := fld opt 0 4
  let op := fld opt 4 3
  let isInt := !(ty = 2 || ty = 5 || ty = 6)
  ty ≤ 10 && op ≤ 6 && combineWidth ty = w && (op != 6 || fetch) && (!bit opt 7 || (op = 0 && isInt))

/-- The descriptors that an operand word names, in a core: source and destination (R242). -/
structure OperandWord where
  src : Option Ag
  dst : Option Ag
  opt : Nat
  deriving DecidableEq, Repr

/-- An operand word of a kind (R242). -/
def operandWord (g : Group) (k : ArgKind) (w : Word) : OperandWord :=
  let sag := g.ags[Fin.ofNat 32 w.toNat]
  let dag := g.ags[Fin.ofNat 32 (fld w.toNat 8 5)]
  match k with
  | .t => { src := some sag, dst := some dag, opt := fld w.toNat 16 8 }
  | .d => { src := none, dst := some dag, opt := fld w.toNat 16 8 }
  | _ => { src := some sag, dst := none, opt := fld w.toNat 16 8 }

/-- The record that an earlier operand word of the open command took. -/
def openRecord (q : RingState) (idx : Nat) : Option OpRecord :=
  (q.openArgs[idx]?).bind fun w => q.records[Fin.ofNat 64 w.toNat]

/-- The command's own rules at an operand word (R245, R247, R265, R272, R274, R276, R278): `idx` is the word's place among the own
arguments. -/
def commandRule (r : Ring) (q : RingState) (op idx : Nat) (o : OperandWord) : Bool :=
  let arg : Nat → Nat := fun k => ((q.openArgs[k]?).getD 0).toNat
  let first := openRecord q 0
  let s0 : Option Ag := first.bind OpRecord.src
  let d0 : Option Ag := first.bind OpRecord.dst
  match ringStep r with
  | .me =>
    match op, o.src, o.dst with
    | 0x1, some a, _ | 0x2, some a, _ =>
      let atd := fld (arg 0) 14 9
      let btd := fld (arg 0) 5 9
      let bank := fld (arg 0) 23 9
      mmaCode atd && mmaCode btd && (tdType atd).isSome && (tdType btd).isSome && agNdim a = 2 &&
        (if idx = 1 then
          tdFits atd a && agCount a 1 ≤ 64 && bank + tileBanks (agCount a 1) ≤ 512
        else
          tdFits btd a && agCount a 1 ≤ 48 &&
            (match (openRecord q 1).bind OpRecord.src with
             | some x => agCount x 0 = agCount a 0
             | none => false))
    | 0x6, _, some d =>
      let rows := fld (arg 0) 17 6 + 1
      let cols := fld (arg 0) 11 6 + 1
      let otd := fld (arg 0) 2 9
      fld otd 5 4 ≤ 11 && tdFits otd d && cols ≤ 48 && agNdim d = 2 && agCount d 0 = cols && agCount d 1 = rows && agScm d = 0
        && fld (arg 0) 23 9 + tileBanks rows ≤ 512
    | 0x7, _, some d =>
      agNdim d = 2 && agEw d = 5 && agScm d = 0 && agCount d 1 = fld (arg 0) 26 6 + 1 && 1 ≤ agCount d 0 && agCount d 0 ≤ 64
    | 0x8, _, some d =>
      fld (arg 0) 5 3 ≤ 5 && (!bit (arg 0) 4 || fld (arg 0) 14 9 = 0) && agNdim d = 1 && agEw d = 2 && agScm d = 0
        && agCount d 0 = 16 * tileBanks (fld (arg 0) 8 6 + 1)
    | 0x9, _, some d => agNdim d = 1 && agEw d = 5 && agScm d = 0 && agCount d 0 = 260 * (fld (arg 0) 14 9 + 1)
    | 0xA, some a, _ => agNdim a = 1 && agEw a = 5 && agScm a = 0 && agCount a 0 = 260 * (fld (arg 0) 14 9 + 1)
    | _, _, _ => true
  | _ =>
    match op, idx, o.src, o.dst with
    | 0x1, _, some s, some d => agTotal s = agTotal d && agEw s = agEw d && scalePair s d
    | 0x2, 0, some s, some d | 0x3, 0, some s, some d => agEw s = agEw d && scalePair s d
    | 0x2, _, some x, _ =>
      match s0, d0 with
      | some s, some d => agEw x = 4 && agScm x = 0 && agTotal d = agTotal x * agCount s 0
      | _, _ => false
    | 0x3, _, some x, _ =>
      match s0, d0 with
      | some s, some d => agEw x = 4 && agScm x = 0 && agTotal s = agTotal x * agCount d 0
      | _, _ => false
    | 0x4, _, _, some d => agScm d = 0
    | 0x5, _, some s, some d =>
      agTotal s = agTotal d && agScm s = 0 && agScm d = 0 && agEw s = agEw d && combineOpt false o.opt (agBits s)
    | 0x6, 0, some s, some d =>
      agTotal s = agTotal d && agScm s = 0 && agScm d = 0 && agEw s = agEw d && combineOpt true o.opt (agBits s)
    | 0x6, _, _, some x =>
      match d0 with
      | some d => agTotal x = agTotal d && agEw x = agEw d && agScm x = 0
      | none => false
    | 0x7, 0, some s, some d => (agEw s = 4 || agEw s = 5) && agEw s = agEw d && agTotal s = 2 * agTotal d && agScm s = 0 && agScm d = 0
    | 0x7, _, _, some x =>
      match d0 with
      | some d => agTotal x = agTotal d && agEw x = agEw d && agScm x = 0
      | none => false
    | _, _, _, _ => true

/-- Is the destination of a command combined at its own port: ACCW, FETCHOP and CAS (R242). -/
def combines (r : Ring) (op idx : Nat) : Bool := ringStep r = .channel && 5 ≤ op && op ≤ 7 && idx = 0

/-- Does an operand word keep its unused fields zero (R242). -/
def unusedZero (r : Ring) (op : Nat) (k : ArgKind) (w : Word) : Bool :=
  let n := w.toNat
  let optUsed := k = .t && ringStep r = .channel && (op = 5 || op = 6)
  fld n 24 40 = 0 && fld n 13 3 = 0 && fld n 5 3 = 0 && (optUsed || fld n 16 8 = 0)
    && (match k with
        | .t => true
        | .d => fld n 0 5 = 0
        | _ => fld n 8 5 = 0)

/-- Does a footprint lie where a ring's engine may reach it: step 1 of R242, and R263. -/
def placeOk (c : CoreId) (r : Ring) (o : OperandWord) : Bool :=
  let isLocal : Option Ag → Bool := fun a =>
    match a with
    | none => true
    | some x => (agFoot x).all (rangeLocal c)
  match r with
  | .ch0 => isLocal o.dst
  | .ch1 => isLocal o.src
  | .me =>
    match o.src, o.dst with
    | some a, _ => spaceOf (agBase a) = 2 || (agFoot a).all (rangeCluster c)
    | _, some d => spaceOf (agBase d) = 2 || (agFoot d).all (rangeLocal c)
    | _, _ => true

/-- The first address of a stream's footprint that fails its region check, step 2 of R242. -/
def State.footRegion (s : State) (r : Ring) (isIndex comb : Bool) (acc : Acc) (a : Ag) : Option Word :=
  let rowRead : Word × Nat → Bool := fun f => acc = .read && inRowArea s.g s.focus f.1 f.2
  if spaceOf (agBase a) = 2 then
    if r = .me || isIndex || comb || agScm a != 0 || !kvOk s.g a acc then some (agBase a) else none
  else
    ((agFoot a).find? fun f => spaceOf f.1 = 2 || !(checkRegion s.g s.focus f.1 f.2 acc || rowRead f)).map Prod.fst

/-- A poisoned byte of the tables that translate a stream's footprint (R354; log entry 101). -/
def State.footPoison (s : State) (a : Ag) : Option Nat := (agFoot a).findSome? fun f => s.tablePoison s.g.bank.pd f.1 f.2

/-- Does a stream's footprint translate, step 4 of R242. -/
def State.footBounds (s : State) (acc : HAcc) (a : Ag) : Bool :=
  (agFoot a).all fun f => spaceOf f.1 != 1 || s.handleOk s.g.bank.pd acc f.1 f.2

/-- The exception that a CMDW raises at issue, with its DETAIL address (R241, R242): none when the word may be written. -/
def State.cmdwFault (s : State) (r : Ring) (w : Word) : Option (Cause × Word) :=
  let q := s.g.ringOf r
  match cmdwSlot r q with
  | .header => if w.toNat < 2 ^ 32 then none else some (.illegalOperand, 0)
  | .value => none
  | .operand op idx k =>
    let o := operandWord s.g k w
    let comb := combines r op idx
    let valid := (o.src.toList ++ o.dst.toList).all agValid
    if !unusedZero r op k w || !valid || !commandRule r q op idx o || !placeOk s.focus r o then some (.illegalOperand, 0)
    else
      let isIndex := k = .i
      let dstAcc : Acc := if comb then .both else .write
      let reg := (o.src.bind fun a => s.footRegion r isIndex false .read a).orElse fun _ =>
        o.dst.bind fun a => s.footRegion r false comb dstAcc a
      let misaligned := if comb then o.dst.filter fun d => (agBase d).toNat % (agBits d / 8) != 0 else none
      let dstH : HAcc := if comb then .atomic else .write
      match reg, misaligned, (o.src.toList ++ o.dst.toList).findSome? s.footPoison with
      | some a, _, _ => some (.regionUndeclared, a)
      | none, some d, _ => some (.align, agBase d)
      | none, none, some b => some (.softError, BitVec.ofNat 64 b)
      | none, none, none =>
        if !((o.src.toList).all (s.footBounds .read)) || !((o.dst.toList).all (s.footBounds dstH)) then some (.handleBounds, 0)
        else none

/-! ## Operand conditions (R101 step 2) -/

/-- The queues that a sequencer pushes with QPUSH (R109). -/
def pushOk (side : Side2) (q : Fin 16) : Bool :=
  match side with
  | .as => q.val ≤ 7
  | .xs => (9 ≤ q.val && q.val ≤ 12) || q.val = 14

/-- The queues that a sequencer pops (R109). -/
def popOk (side : Side2) (q : Fin 16) : Bool :=
  match side with
  | .as => (9 ≤ q.val && q.val ≤ 12) || q.val = 14
  | .xs => q.val ≤ 8 || q.val = 13 || q.val = 15

/-- Is an entry for Q14 refused (R322, R332). -/
def State.replyFault (s : State) (v : Word) : Bool :=
  let n := v.toNat
  let row := fld n 32 10
  let len := fld n 0 32
  fld n 42 21 != 0 || s.g.rowCount ≤ row ||
    (bit n 63 &&
      (len < max (s.rowAccept s.focus row) (s.rowPos s.focus row + 1)
        || s.rowPos s.focus row + s.rowLen s.focus row < len
        || (match s.g.fixedRows.lookup row with
            | some cut => cut < len
            | none => false)))

/-- Does AGADV break a rule of R238 that raises ILLEGAL_OPERAND. -/
def agadvFault (a : Ag) (dim : Nat) (steps : Int) : Bool :=
  10 ≤ dim || !agValid a ||
    (!(agWen a && dim = agWdim a) && spaceOf (agBase a) = 2 &&
      let b := steps * agStride a dim * (agBits a : Int)
      let off := (kvOff (agBase a) : Int) * 8 + b
      !(0 ≤ off && off < 65536 * 8))

/-- Is a ROWMASK operand refused (R348). -/
def State.rowmaskFault (s : State) (v : Word) : Bool :=
  let n := v.toNat
  let row := fld n 32 10
  fld n 42 14 != 0 || fld n 0 16 != 0 || s.g.rowCount ≤ row || s.rowLen s.focus row ≤ fld n 16 16
    || !([0x01, 0x02, 0x03, 0x04, 0x05, 0x06, 0x07, 0x0A, 0x0B, 0x0D, 0x0F].contains (fld n 56 8))

/-- The operand conditions of the words beside the vector types: true when ILLEGAL_OPERAND is raised. -/
def State.operandFault (s : State) (i : Instr) : Bool :=
  let x : RegNum → Word := s.seq.getX
  let g := s.g
  match i with
  | .loop _ _ t => t = 0
  | .loopi _ _ t => t = 0
  | .loopr _ _ v p t => t = 0 || (!v && !p) || (v && (s.side = .as || g.desc.vregs ≤ 32))
  | .ldq q _ _ _ _ => 8 ≤ q.val
  | .qpush q a => !pushOk s.side q || (q = 14 && s.side = .xs && s.replyFault (x a))
  | .qpop q _ => !popOk s.side q
  | .qpeek q _ => !popOk s.side q
  | .qcnt q _ => !popOk s.side q
  | .agadv ag a k => agadvFault g.ags[ag] k.val (x a).toInt
  | .agld ag q => 8 ≤ q.val || !agValid g.ags[ag]
  | .aggath ag q _ => 8 ≤ q.val || !agValid g.ags[ag]
  | .pgref _ a => g.rowCount ≤ kvRow (x a)
  | .cmdw r a =>
    match s.cmdwFault r (x a) with
    | some (.illegalOperand, _) => true
    | _ => false
  | .vextr _ v _ => v.dir != .plain
  | .vshape _ _ t u => t = 9 || t = 15 || u = 9 || 12 ≤ u.val
  | .vtap v k => s.tapFault v k
  | .semsigRemote _ b => (s.syncName s.focus (x b)).isNone
  | .semsetRemote _ b => (s.syncName s.focus (x b)).isNone
  | .semrdRemote _ b => (s.syncName s.focus (x b)).isNone
  | .fence b a => b = 0 || a = 0
  | .acq m _ b => m = 0 || m.getLsbD 7 || m.getLsbD 8 || (s.syncName s.focus (x b)).isNone
  | .rel m _ b => m = 0 || m.getLsbD 7 || m.getLsbD 8 || (s.syncName s.focus (x b)).isNone
  | .bind k a =>
    g.desc.regions.length ≤ k.val || (s.syncName s.focus (x a)).isNone ||
      (match g.desc.regions[k.val]? with
       | some r => r.sync != .none
       | none => true)
  | .rngdrawRaw _ a => g.rowCount ≤ (x a).toNat
  | .rngdrawUnit _ a => g.rowCount ≤ (x a).toNat
  | .rngskip a _ => g.rowCount ≤ (x a).toNat
  | .wrcr a n => crReadOnly s.side n.val || !crValid g n.val (x a)
  | .frqpop d => d.val % 2 = 1
  | .rowmask a => s.rowmaskFault (x a)
  | _ => false

/-- Does a word raise ILLEGAL_OPERAND (R101 step 2): a V register beyond VREGS (R72), an odd group (R186), a direction (R73), a type
or width rule (R183), or a condition of its own. -/
def State.illegalOperand (s : State) (i : Instr) : Bool :=
  let g := s.g
  ((vReads i ++ vDests i).any fun r => g.desc.vregs ≤ r) || groupFault i || (vOps i).any (fun v => !dirOk g v) || typeFault g i
    || s.operandFault i

/-! ## Regions and alignment (R101 step 4) -/

/-- The bytes of a size. -/
def sizeBytes (z : Size) : Nat :=
  match z with
  | .b => 1
  | .h => 2
  | .w => 4
  | .d => 8

/-- The address of a load or store: base plus the signed offset in units of its size (R108). -/
def memAddr (base : Word) (off : Int) (z : Size) : Word := base + BitVec.ofInt 64 (off * (sizeBytes z : Int))

/-- The addresses of the rows of a VLD or VST (R202, R203). -/
def rowAddrs (g : Group) (base stride : Word) : List Word :=
  (List.range (shpRows g.shp)).map fun k => base + BitVec.ofNat 64 k * stride

/-- Is a local read refused: not local, or neither in one region with read access nor in the row area (R148). -/
def State.loadRegion (s : State) (a : Word) (n : Nat) : Bool :=
  !rangeLocal s.focus (a, n) || !(checkRegion s.g s.focus a n .read || inRowArea s.g s.focus a n)

/-- Is a store refused at issue (R149, R203). -/
def State.storeRegion (s : State) (a : Word) (n : Nat) : Bool :=
  spaceOf a = 2 || !(inAnyRegion s.g s.focus a n || inRowArea s.g s.focus a n)

/-- The exception of an AS read that may leave the core (R152, R236, R239): region, then alignment, then an uncorrectable error in the tables
that translate it (R354; log entry 101), then handle bounds, which shut out a remote package too (R45; log entry 99). -/
def State.farRead (s : State) (a : Word) (n align : Nat) : Option (Cause × Word) :=
  if spaceOf a = 2 || !(checkRegion s.g s.focus a n .read || inRowArea s.g s.focus a n) then some (.regionUndeclared, a)
  else if a.toNat % align != 0 then some (.align, a)
  else match s.tablePoison s.g.bank.pd a n with
    | some b => some (.softError, BitVec.ofNat 64 b)
    | none =>
      if spaceOf a = 1 && (s.remote s.g.bank.pd a || !s.handleOk s.g.bank.pd .read a n) then some (.handleBounds, 0) else none

/-- The first of a list of addresses that fails a test. -/
def firstBad (p : Word → Bool) (l : List Word) : Option Word := l.find? p

/-- The words that a VLDX reads (R204). -/
def gatherAddrs (base : Word) (idx : List Lane) : List Word :=
  idx.map fun u => base + BitVec.ofNat 64 (4 * u.toNat)

/-- The lane that element (i, j) of a V operand reads, by key (R73, R74, R184). -/
def vLaneKey (g : Group) (v : VOp) (i j : Nat) : Nat :=
  let p := g.physV v.reg
  match v.dir with
  | .plain => laneKey p i j
  | .col => laneKey p j i
  | .diag => laneKey p i ((i + j) % shpLanes g.shp)
  | .bcast => laneKey p 0 j

/-- The lane that element (i, j) of a V operand reads. -/
def vLane (g : Group) (v : VOp) (i j : Nat) : Lane := g.lane (vLaneKey g v i j)

/-- The lanes of the corner of a V operand, row by row (R72). -/
def cornerLanes (g : Group) (v : VOp) : List Lane :=
  (List.range (shpRows g.shp)).flatMap fun i => (List.range (shpLanes g.shp)).map fun j => vLane g v i j

/-- The exception of step 4 of R101 that a word raises, with its DETAIL address: REGION_UNDECLARED, then ALIGN, and on the AS
HANDLE_BOUNDS. -/
def State.memFault (s : State) (i : Instr) : Option (Cause × Word) :=
  let x : RegNum → Word := s.seq.getX
  let g := s.g
  let jump : Word → Option (Cause × Word) := fun t => if t.toNat % 4 = 0 then none else some (.align, t)
  match i with
  | .jr a => jump (x a)
  | .callr _ a => jump (x a)
  | .ret a => jump (x a)
  | .ld _ a z _ o =>
    let p := memAddr (x a) o.toInt z
    if s.loadRegion p (sizeBytes z) then some (.regionUndeclared, p)
    else if p.toNat % sizeBytes z != 0 then some (.align, p) else none
  | .st _ a z o =>
    let p := memAddr (x a) o.toInt z
    if s.storeRegion p (sizeBytes z) then some (.regionUndeclared, p)
    else if p.toNat % sizeBytes z != 0 then some (.align, p) else none
  | .ldq _ a z _ o =>
    let p := memAddr (x a) o.toInt z
    s.farRead p (sizeBytes z) (sizeBytes z)
  | .agdef _ a => s.farRead (x a) 128 8
  | .agadv ag a k =>
    let d := g.ags[ag]
    let b := (x a).toInt * agStride d k.val * (agBits d : Int)
    if agWen d && k.val = agWdim d then none else if b % 8 = 0 then none else some (.align, agBase d)
  | .agld ag _ =>
    let d := g.ags[ag]
    let p := agPlace d (agPos d % agTotal d)
    s.farRead p.1 (elemBytes p.2 (agBits d)) (if 16 ≤ agBits d then agBits d / 8 else 1)
  | .aggath ag _ a =>
    let d := g.ags[ag]
    let p := agPlace d ((x a).toNat % agTotal d)
    s.farRead p.1 (elemBytes p.2 (agBits d)) (if 16 ≤ agBits d then agBits d / 8 else 1)
  | .pgref _ a =>
    let v := x a
    if spaceOf v = 2 && fld v.toNat 34 17 = 0 && kvRegion g (fld v.toNat 16 18) (kvOff v) 1 .read then none
    else some (.regionUndeclared, v)
  | .cmdw r a =>
    match s.cmdwFault r (x a) with
    | some (.illegalOperand, _) => none
    | f => f
  | .vld _ a b =>
    match firstBad (s.loadRegion · (4 * shpLanes g.shp)) (rowAddrs g (x a) (x b)) with
    | some p => some (.regionUndeclared, p)
    | none => if (x a).toNat % 4 = 0 && (x b).toNat % 4 = 0 then none else some (.align, x a)
  | .vst _ a b =>
    match firstBad (s.storeRegion · (4 * shpLanes g.shp)) (rowAddrs g (x a) (x b)) with
    | some p => some (.regionUndeclared, p)
    | none => if (x a).toNat % 4 = 0 && (x b).toNat % 4 = 0 then none else some (.align, x a)
  | .vldx _ a v =>
    match firstBad (s.loadRegion · 4) (gatherAddrs (x a) (cornerLanes g v)) with
    | some p => some (.regionUndeclared, p)
    | none => if (x a).toNat % 4 = 0 then none else some (.align, x a)
  | _ => none

/-! ## One word's exception -/

/-- The exception that a word of a group raises at issue, its group's shape and ports apart (R101, R115, R346). The group meets these
checks word by word; a word alone meets them in the same order. -/
def State.wordTrap (s : State) (i : Instr) : Option Trap :=
  let q := s.seq
  let mk : Cause → BitVec 32 → Trap := fun c d => { cause := c, pc := q.grpStart, word := q.idx, detail := d, shape := false }
  if s.illegalWord false i then some (mk .illegalOpcode q.raw)
  else if s.illegalOperand i then some (mk .illegalOperand q.raw)
  else match s.memFault i with
    | some (c, a) => some (mk c (BitVec.setWidth 32 a))
    | none =>
      match i with
      | .bkpt n => if s.guardTrue i then some (mk .breakpoint (BitVec.setWidth 32 n)) else none
      | .trap n => if s.guardTrue i then some (mk .software (BitVec.setWidth 32 n)) else none
      | _ => none

/-! ## Waits and holds (R84, R288) -/

/-- The kinds of wait, in the coding of DETAIL (R345). -/
inductive WaitKind where
  | sem | token | queue | wp | abfree | acqFence | staging | semrd | ring | slotUse
  deriving DecidableEq, Repr

/-- DETAIL of a WAIT_TIMEOUT (R345). -/
def WaitKind.code : WaitKind → Nat
  | .sem => 0
  | .token => 1
  | .queue => 2
  | .wp => 3
  | .abfree => 4
  | .acqFence => 5
  | .staging => 6
  | .semrd => 7
  | .ring => 8
  | .slotUse => 9

/-- A name that resolves to the core itself acts as the local form (R286, R290). -/
def SemName.isLocal (n : SemName) (c : CoreId) : Bool := n.core = c

/-- The value that a local wait or read samples (R285). -/
def State.localSem (s : State) (n : Fin 64) : BitVec 32 := (s.g.sems[n]).sample s.cyc

/-- Does an ACCADD of core `c` read its own banks: OTHER is 0, or names the core itself (R271). -/
def ownAccadd (c : CoreId) (b : Lane) : Bool := !bit b.toNat 31 || fld b.toNat 27 4 = c.val % 16

/-- The banks of core `c` that a command of it names (R259). -/
def cmdBanks (c : CoreId) (i : Instr) : List (Nat × Nat) :=
  let tile : Nat → Nat → Nat × Nat := fun b rows => (b, tileBanks rows)
  match i with
  | .mma _ a _ _ => [tile (fld a.toNat 23 9) 64]
  | .mmar _ a _ _ _ => [tile (fld a.toNat 23 9) 64]
  | .mzero _ a => [(fld a.toNat 23 9, fld a.toNat 14 9 + 1)]
  | .anchor _ a => [(fld a.toNat 23 9, 1)]
  | .resolve _ a b => [tile (fld a.toNat 23 9) (fld a.toNat 17 6 + 1), tile (fld b.toNat 23 9) (fld a.toNat 17 6 + 1)]
  | .drain _ a _ => [tile (fld a.toNat 23 9) (fld a.toNat 17 6 + 1)]
  | .acccmp _ a _ =>
    tile (fld a.toNat 23 9) (fld a.toNat 8 6 + 1)
      :: (if bit a.toNat 4 then [] else [tile (fld a.toNat 14 9) (fld a.toNat 8 6 + 1)])
  | .accspill _ a _ => [(fld a.toNat 23 9, fld a.toNat 14 9 + 1)]
  | .accfill _ a _ => [(fld a.toNat 23 9, fld a.toNat 14 9 + 1)]
  | .accmov _ a _ => [(fld a.toNat 23 9, fld a.toNat 5 9 + 1), (fld a.toNat 14 9, fld a.toNat 5 9 + 1)]
  | .accadd _ a b =>
    tile (fld a.toNat 14 9) (fld a.toNat 8 6 + 1)
      :: (if ownAccadd c b then [tile (fld a.toNat 23 9) (fld a.toNat 8 6 + 1)] else [])
  | _ => []

/-- The banks that a queued command names, the rows of an MMA from its record. -/
def queuedBanks (c : CoreId) (q : RingState) (cmd : Cmd) : List (Nat × Nat) :=
  match cmd.instr with
  | .mma _ a b _ | .mmar _ a b _ _ =>
    match (q.records[Fin.ofNat 64 b.toNat]).bind OpRecord.src with
    | some ag => [(fld a.toNat 23 9, tileBanks (agCount ag 1))]
    | none => cmdBanks c cmd.instr
  | i => cmdBanks c i

/-- Does a fetched ME command name a bank of a range (R259): one of the core's own queue that has not been squashed (log entry 105; DESIGN
CHOICE). -/
def State.banksNamed (s : State) (b n : Nat) : Bool :=
  s.g.me.queue.any fun cmd => !cmd.squashed && (queuedBanks s.focus s.g.me cmd).any fun r => b < r.1 + r.2 && r.1 < b + n

/-- The first bank of an ABFREE's range that it cannot free: FREE, or beyond the last (R259). -/
def State.abfreeBad (s : State) (b n : Nat) : Option Nat :=
  ((List.range n).map (b + ·)).find? fun k => 511 < k || (Tab.get Bank.free s.g.banks k).status = .free

/-- A free record of a ring, the lowest-numbered (R242). -/
def freeRecord (q : RingState) : Option (Fin 64) :=
  ((List.range 64).find? fun k => (q.records[Fin.ofNat 64 k]).isNone).map (Fin.ofNat 64)

/-- Does a FENCE stop the sequencer at work for the rest of its accesses (R300): on the XS when AFTER has XLD, XST or TAP,
and for ALD, which only the XS's later words can order behind it (log entry 33). -/
def fenceStops (side : Side2) (after : BitVec 9) : Bool :=
  match side with
  | .as => true
  | .xs => after.getLsbD 0 || after.getLsbD 1 || after.getLsbD 2 || after.getLsbD 6

/-- The code of a FIFO's side in a wait record (R384). -/
def sideCode : Side → Nat
  | .left => 0
  | .right => 1

/-- The code of a ring in a wait record (R384). -/
def ringCode : Ring → Nat
  | .me => 0
  | .ch0 => 1
  | .ch1 => 2

/-- The AS's own accesses that a FENCE or ACQ of a sequencer counts as before it. -/
def State.fenceOpen (s : State) (before : BitVec 9) : Bool := !s.performed s.focus (s.beforeNow s.focus before) []

/-- What a word waits on outside its sequencer, when its guard is true and the wait is not yet over (R75, R84, R288). The object is
the semaphore, queue or token FIFO waited on. -/
def State.waitOf (s : State) (i : Instr) : Option (WaitKind × Nat) :=
  let x : RegNum → Word := s.seq.getX
  let g := s.g
  let cyc := s.cyc
  let push : Fin 16 → Option (WaitKind × Nat) := fun q =>
    if (g.queue q).hasRoom (queueDepth q.val) cyc then none else some (.queue, q.val)
  let pop : Fin 16 → Option (WaitKind × Nat) := fun q => if (g.queue q).canPop cyc then none else some (.queue, q.val)
  match i with
  | .brq _ _ => pop 8
  | .qpush q _ => push q
  | .qpushb _ _ => push 8
  | .ldq q _ _ _ _ => push q
  | .agld _ q => push q
  | .aggath _ q _ => push q
  | .qpop q _ => pop q
  | .qpeek q _ => pop q
  | .wpwait c a =>
    let wp := match c with
      | .c0 => g.ch0.wp
      | .c1 => g.ch1.wp
    if (x a).toNat ≤ wp then none else some (.wp, match c with
      | .c0 => 0
      | .c1 => 1)
  | .cmdw r _ =>
    let q := g.ringOf r
    let full := 2 ^ q.log2n ≤ (q.cursor - q.pc).toNat
    let rec? := match cmdwSlot r q with
      | .operand _ _ _ => (freeRecord q).isNone
      | _ => false
    if full || rec? then some (.ring, ringCode r) else none
  | .vtap _ k => if (g.sites[k]).ahead = 0 then some (.staging, k.val) else none
  | .semwait t n => if semAtLeast (s.localSem n) (BitVec.setWidth 32 (x t)) then none else some (.sem, n.val)
  | .semwaitb t n => if semBelow (s.localSem n) (BitVec.setWidth 32 (x t)) then none else some (.sem, n.val)
  | .semrdRemote _ b =>
    match s.syncName s.focus (x b) with
    | none => none
    | some n =>
      if n.isLocal s.focus then none
      else match s.seq.remote with
        | .answered _ => none
        | _ => some (.semrd, n.num.val)
  | .acq _ t b =>
    match s.syncName s.focus (x b) with
    | none => none
    | some n =>
      if n.isLocal s.focus then
        (if semAtLeast (s.localSem n.num) (BitVec.setWidth 32 (x t)) then none else some (.acqFence, n.num.val))
      else match s.seq.remote with
        | .satisfied _ _ => none
        | _ => some (.acqFence, n.num.val)
  | .tokpop d => if (g.fifos[popFifo .xs d]).canPop cyc then none else some (.token, sideCode d)
  | .tokpush d => if (g.fifos[pushFifo .xs d]).hasRoom cyc then none else some (.token, sideCode d)
  | .fence b a => if fenceStops s.side a && s.fenceOpen b then some (.acqFence, 0) else none
  | .abfree a n =>
    if (s.abfreeBad (x a).toNat (n.toNat + 1)).isNone && s.banksNamed (x a).toNat (n.toNat + 1) then some (.abfree, (x a).toNat % 256) else none
  | _ => none

/-- Is a pipe free in the issue cycle. -/
def State.pipeFree (s : State) (va : Bool) : Bool := (if va then s.g.vaFree else s.g.vbFree) ≤ s.g.xs.ic

/-- Does the pipe of a group's vector words make it hold (R88). -/
def State.pipeHold (s : State) (is : List Instr) : Bool :=
  match is.filter isVecWord with
  | [] => false
  | [i] => if vaOnly i then !s.pipeFree true else !s.pipeFree true && !s.pipeFree false
  | _ => !s.pipeFree true || !s.pipeFree false

/-- Does the core in focus still have to check a store of its XS that one of its pending releases or token pushes is ordered after
(R292, R298). -/
def State.ownStoresDue (s : State) : Bool :=
  s.g.storeQ.any fun e =>
    (s.g.releases.any fun r => r.before.mask.getLsbD 0 && e.no < r.before.stores && !r.covers.isEmpty
        && touches r.covers s.focus (e.bytes.map Prod.fst)) ||
      s.g.fifos.toList.any fun f => f.toks.any fun t => match t with
        | .reserved n => e.no < n
        | .ready _ => false

/-- Does a word hold for the divider or the store queue, its guard being true (R84, R130, R149, R203, R300, R351). A word of the XS that
waits on something outside holds as long as a release or token push of its own core still waits for a store of the XS to be checked, so
that the wait cannot keep back what it waits for (R292, R407, R410, R411, R413; log entry 94; DEDUCED). -/
def State.wordHold (s : State) (i : Instr) : Bool :=
  let room : Nat → Bool := fun n => 16 < s.g.storeQ.length + n
  (s.side = .xs && s.ownStoresDue && (s.waitOf i).isSome) ||
  match i with
  | .div .. | .divu .. | .rem .. | .remu .. => s.seq.ic < s.seq.divDue
  | .st .. => room 1
  | .vst .. => room (rowBlocks (shpRows s.g.shp))
  | .sdrain => !s.g.storeQ.isEmpty
  | .fence _ a => s.side = .xs && fenceStops .xs a && !s.g.storeQ.isEmpty
  | _ => false

end Sys2Proof.Machine
end

