-- ==== Sys2Proof/Machine/Issue.lean ====
section
/-! DEFINITION. How one sequencer word issues: its checks, its hold, its wait and its effect (R84, R88, R101, R115, R288); with the
wait records of R383 to R385. A group issues word by word through these once it has passed its own checks (Turn). -/

namespace Sys2Proof.Machine

/-! ## Fetch (R69, R97, R138) -/

/-- The word of a sequencer's active window at a byte offset. -/
def State.windowWord (s : State) (side : Side2) (off : Nat) : Nat := readLE s.mem (codeKey s.focus side s.cur.active off) 4

/-- Where the code section of a sequencer lies in its active window: its offset and length (R69). -/
def Core.codeSection (k : Core) (side : Side2) : Nat × Nat :=
  k.sections[Fin.ofNat 4 ((if k.active then 2 else 0) + side.eng.code)]

/-- Does a word at an offset lie in the window and in the code section (R69, R138). -/
def State.fetchable (s : State) (side : Side2) (off : Nat) : Bool :=
  let e := s.cur.codeSection side
  off + 4 ≤ 65536 && e.1 ≤ off && off + 4 ≤ e.1 + e.2

/-- The words of the issue group at an offset, up to the first with E = 1 among `n`: none when no such word lies among them or the
group leaves the window or the code section (R69, R97, R138). -/
def State.groupAt (s : State) (side : Side2) : Nat → Nat → Option (List Nat)
  | 0, _ => none
  | n + 1, off =>
    if !s.fetchable side off then none
    else
      let w := s.windowWord side off
      if bit w 31 then some [w] else (State.groupAt s side n (off + 4)).map (w :: ·)

/-! ## Waits -/

/-- The setter of a wait that has ended (R385), by the word that waited. -/
def State.setterOf (s : State) (i : Instr) : Nat × CoreId :=
  let c := s.focus
  let q := s.seq
  let step : Fin 64 → (BitVec 32 → Bool) → Nat × CoreId := fun n ok =>
    let m := (s.g.sems[n]).setter s.cyc ok
    (m.1.code, m.2)
  match i with
  | .semwait t n => step n fun v => semAtLeast v (BitVec.setWidth 32 (q.getX t))
  | .semwaitb t n => step n fun v => semBelow v (BitVec.setWidth 32 (q.getX t))
  | .acq _ t b =>
    match s.syncName c (q.getX b), q.remote with
    | some _, .satisfied e k => (e.code, k)
    | some n, _ => step n.num fun v => semAtLeast v (BitVec.setWidth 32 (q.getX t))
    | none, _ => (6, 0)
  | .semrdRemote _ b => (7, ((s.syncName c (q.getX b)).map SemName.core).getD c)
  | .tokpop d =>
    (match d with
     | .left => 2
     | .right => 4, c)
  | .tokpush d =>
    (match d with
     | .left => 2
     | .right => 4, c)
  | .wpwait k _ =>
    (match k with
     | .c0 => 3
     | .c1 => 4, c)
  | .abfree _ _ => (2, c)
  | .vtap _ _ => (5, c)
  | .cmdw r _ => (2 + ringCode r, c)
  | .fence b _ => (((s.g.lastPerf.find? (Eng.inMask b)).getD .none).code, c)
  | .qpop n _ | .qpeek n _ =>
    (match s.side with
     | .as => 1
     | .xs => if n = 13 then 2 else if n = 15 then 5 else 0, c)
  | .brq _ _ => (0, c)
  | _ =>
    (match s.side with
     | .as => 1
     | .xs => 0, c)

/-- The request of a remote SEMRD leaves when its group is first ready, be it in hold or waiting on another word too (R84, R290). `v` is
the state whose registers the group reads. -/
def State.askReady (s v : State) (i : Instr) : State :=
  match i with
  | .semrdRemote _ b =>
    (match s.seq.remote, s.syncName s.focus (v.seq.getX b) with
     | .idle, some n =>
       if n.isLocal s.focus then s
       else
         (s.modSeq fun q => { q with remote := .sent (q.askNo + 1), askNo := q.askNo + 1 }).send
           (s.flightOf s.focus (engPath s.side.eng) (some n.core) (.semrd n s.side (s.seq.askNo + 1)))
     | _, _ => s)
  | _ => s

/-- A remote ACQ begins to sample (R287). -/
def State.askAcq (s : State) (i : Instr) : State :=
  match i, s.seq.remote with
  | .acq _ _ _, .idle => s.modSeq fun q => { q with remote := .sent (q.askNo + 1), askNo := q.askNo + 1 }
  | _, _ => s

/-- The group in issue stays where it is: its words are read again in the next cycle (R84). -/
def State.stayPut (s : State) : State := s.modSeq fun q => { q with pc := q.grpStart, mod := none }

/-- The record of the wait that has just ended (R383): its cycles since the last record, and its setter. -/
def State.endRecord (s : State) (setter : Nat × CoreId) : State :=
  let q := s.seq
  (s.traceWait s.focus q.waitKind s.side.eng false q.waitObj q.grpStart (q.waited - q.waitFrom) setter.1 setter.2).modSeq fun q =>
    { q with waitFrom := q.waited }

/-- The setter of the wait of the `waitIdx`-th word of the group in issue, as that word stands in the window (R385). -/
def State.waitSetter (s : State) : Nat × CoreId :=
  match decodeWord (s.windowWord s.side (s.seq.grpStart.toNat + 4 * s.seq.waitIdx)) with
  | .ok i => s.setterOf i
  | .error _ => (6, 0)

/-- A cycle in which a word waits on something outside its sequencer (R84, R288): where another word of the group waited until now, its wait
has ended, and its record is written (R383), while the count goes on (log entry 96; DESIGN CHOICE). `v` is the state whose registers the
group reads. -/
def State.waitTick (s v : State) (i : Instr) (w : WaitKind × Nat) : State :=
  let q := s.seq
  let s := if q.waitFrom < q.waited && (q.waitIdx != q.idx || q.waitKind != w.1.code || q.waitObj != w.2) then s.endRecord v.waitSetter else s
  (((s.askReady v i).askAcq i).modSeq fun q =>
    { q with waited := q.waited + 1, waitKind := w.1.code, waitObj := w.2, waitIdx := q.idx }).stayPut

/-- Does one more unsatisfied cycle take the wait's count beyond WAITMAX (R288). -/
def State.waitOver (s : State) : Bool := s.g.waitMax < s.seq.waited + 1

/-- The exception of a wait that has lasted too long (R288, R345). -/
def State.timeoutTrap (s : State) (w : WaitKind × Nat) : Trap :=
  { cause := .waitTimeout, pc := s.seq.grpStart, word := s.seq.idx, detail := BitVec.ofNat 32 w.1.code, shape := false }

/-- A wait that ends in WAIT_TIMEOUT: its record names no setter (R385), and the exception is taken at the waiting group. -/
def State.timeOut (s : State) (w : WaitKind × Nat) : State :=
  let s := (s.modSeq fun q => { q with waitKind := w.1.code, waitObj := w.2 }).endRecord (6, 0)
  (s.modSeq fun q => { q with waited := 0, waitFrom := 0, remote := .idle }).takeTrap (s.timeoutTrap w) s.seq.pc

/-- The wait of the group in issue has ended: its record is written and the count returns to zero (R288, R383). -/
def State.endWait (s : State) : State :=
  if s.seq.waited = 0 then s
  else (s.endRecord s.waitSetter).modSeq fun q => { q with waited := 0, waitFrom := 0 }

/-! ## Issue -/

/-- A vector word takes its pipe: VA for a VA-only word and for any word that finds VA free, VB otherwise, for one issue cycle of
each row-block (R88). -/
def State.takePipe (s : State) (i : Instr) : State :=
  if !isVecWord i then s
  else
    let upTo := s.g.xs.ic + rowBlocks (shpRows s.g.shp)
    if vaOnly i || s.pipeFree true then s.modG fun g => { g with vaFree := upTo } else s.modG fun g => { g with vbFree := upTo }

/-- The word has issued: the modifier that preceded it is used up. -/
def State.endWord (s : State) : State := s.modSeq fun q => { q with mod := none }

/-- Issue one word whose effect, with a true guard, is `eff`. A word of a group that has passed its checks has its effect; a word by
itself is checked first, and may raise an exception, hold or wait (R84, R88, R101, R115, R288). -/
def State.runWord (s : State) (i : Instr) (eff : State → State) : State :=
  if s.seq.passed then ((if s.guardTrue i then eff (s.takePipe i) else s.takePipe i)).endWord
  else match s.wordTrap i with
    | some t => s.takeTrap t s.seq.pc
    | none =>
      if s.pipeHold [i] || (s.guardTrue i && s.wordHold i) then (s.askReady s i).stayPut
      else if !s.guardTrue i then (s.takePipe i).endWord
      else match s.waitOf i with
        | some w => if s.waitOver then s.timeOut w else s.waitTick s i w
        | none => (eff (s.endWait.takePipe i)).endWord

/-- A read of a word that issues met an uncorrectable error: the row group ends with SOFT_ERROR, naming the engine (R352, R354). -/
def State.softError (s : State) (e : Eng) (pc : BitVec 32) (a : Word) : State :=
  s.countIssued.terminate s.focus (termRecord Cause.softError.code e (e = .xs && s.g.handler.isSome) pc (a.setWidth 32))

/-- A word's outcome. -/
def issue (i : Instr) (s : State) (eff : State → State) : Host.Outcome State Fault Refusal := .next (s.runWord i eff)

end Sys2Proof.Machine
end

