-- ==== Sys2Proof/Machine/Control.lean ====
section
/-! DEFINITION. Class 2 words: branches and calls (R137, R138), hardware loops (R139 to R143), compares and predicate logic (R144,
R145), and NOP. -/

namespace Sys2Proof.Machine

/-! ## Transfers -/

/-- The target of a word offset (R106, R137). -/
def State.offTarget (s : State) (o : BitVec 16) : BitVec 32 := s.seq.grpStart + BitVec.ofInt 32 (4 * o.toInt)

/-- The target in a register (R106, R137). -/
def regTarget (v : Word) : BitVec 32 := BitVec.ofNat 32 (fld v.toNat 0 16)

/-- A taken transfer: the next group is fetched at the target after two hold cycles (R85, R137). -/
def State.jump (s : State) (t : BitVec 32) : State := s.modSeq fun q => { q with pc := t, bubble := 2, took := true }

/-- BR (R137). -/
def execBr (o : BitVec 16) (s : State) : Host.Outcome State Fault Refusal := issue (.br o) s fun s => s.jump (s.offTarget o)

/-- BRP (R137). -/
def execBrp (n : Bool) (p : RegNum) (o : BitVec 16) (s : State) : Host.Outcome State Fault Refusal :=
  issue (.brp n p o) s fun s => if s.seq.getP p != n then s.jump (s.offTarget o) else s

/-- BRQ (R137): the head of Q8 is removed, and decides. -/
def execBrq (n : Bool) (o : BitVec 16) (s : State) : Host.Outcome State Fault Refusal :=
  issue (.brq n o) s fun s =>
    let taken := bit (s.g.queue 8).head.toNat 0 != n
    let s := s.modG fun g => g.modQueue 8 fun q => q.pop s.cyc
    if taken then s.jump (s.offTarget o) else s

/-- A taken register transfer or call, with its flow record (R383). -/
def State.flowJump (s : State) (kind : Nat) (t : BitVec 32) : State :=
  (s.traceFlow s.focus kind s.side.eng s.seq.grpStart t).jump t

/-- JR (R137). -/
def execJr (a : RegNum) (s : State) : Host.Outcome State Fault Refusal :=
  issue (.jr a) s fun s => s.flowJump 12 (regTarget (s.seq.getX a))

/-- The link of a call: the offset of the first word after the group, with latency 1 (R137). -/
def State.link (s : State) (d : RegNum) : State := s.xResult 1 d (s.seq.pc.setWidth 64) Flg.none

/-- CALL (R137). -/
def execCall (d : RegNum) (o : BitVec 16) (s : State) : Host.Outcome State Fault Refusal :=
  issue (.call d o) s fun s => (s.link d).flowJump 14 (s.offTarget o)

/-- CALLR (R137). -/
def execCallr (d a : RegNum) (s : State) : Host.Outcome State Fault Refusal :=
  issue (.callr d a) s fun s => (s.link d).flowJump 14 (regTarget (s.seq.getX a))

/-- RET (R137). -/
def execRet (a : RegNum) (s : State) : Host.Outcome State Fault Refusal :=
  issue (.ret a) s fun s => s.flowJump 13 (regTarget (s.seq.getX a))

/-! ## Loops -/

/-- The offset after the group at a loop's END, found by fetching it; END itself where no group can be fetched, so that the fetch
there raises what R69 and R97 give (R140). -/
def State.afterBody (s : State) (e : BitVec 32) : BitVec 32 :=
  match s.groupAt s.side 6 e.toNat with
  | some ws => e + BitVec.ofNat 32 (4 * ws.length)
  | none => e

/-- Start a loop of `c` iterations on a counter (R140, R142). -/
def State.startLoop (s : State) (n : Fin 4) (c kernel : BitVec 32) (rv rp : Bool) (t : Nat) : State :=
  let e := s.seq.grpStart + BitVec.ofNat 32 (4 * t)
  if c = 0 then
    (s.modSeq fun q => { q with lc := q.lc.set n 0, loops := q.loops.set n { q.loops[n] with active := false } }).jump
      (s.afterBody e)
  else
    let hm := s.side = .xs && s.g.handler.isSome
    let s := s.modSeq fun q =>
      { q with
        lc := q.lc.set n c, loopOrder := q.loopOrder + 1
        loops := q.loops.set n
          { start := q.pc, stop := e, total := c, kernel := kernel, rv := rv, rp := rp, active := true, order := q.loopOrder,
            handler := hm } }
    let s := if rv then s.modG fun g => { g with vrb := 0 } else s
    if rp then
      s.modSeq fun q =>
        { q with prb := 0, p := q.p.mapFinIdx fun k b _ => if k < 32 then b else k == 32 }
    else s

/-- LOOP (R140). -/
def execLoop (c : Fin 4) (a : RegNum) (t : BitVec 16) (s : State) : Host.Outcome State Fault Refusal :=
  issue (.loop c a t) s fun s =>
    let n := (s.seq.getX a).setWidth 32
    s.startLoop c n n false false t.toNat

/-- LOOPI (R140). -/
def execLoopi (c : Fin 4) (n : BitVec 10) (t : BitVec 12) (s : State) : Host.Outcome State Fault Refusal :=
  issue (.loopi c n t) s fun s => s.startLoop c (n.setWidth 32) (n.setWidth 32) false false t.toNat

/-- The kernel count and the count of a LOOPR (R142). -/
def looprCounts (v : Word) : BitVec 32 × BitVec 32 :=
  let k := fld v.toNat 0 32
  let d := fld v.toNat 32 6
  let kernel := Nat.min k (2 ^ 32 - 1 - d)
  (BitVec.ofNat 32 kernel, if k = 0 then 0 else BitVec.ofNat 32 (kernel + d))

/-- LOOPR (R142). -/
def execLoopr (c : Fin 4) (a : RegNum) (v p : Bool) (t : BitVec 14) (s : State) : Host.Outcome State Fault Refusal :=
  issue (.loopr c a v p t) s fun s =>
    let n := looprCounts (s.seq.getX a)
    s.startLoop c n.2 n.1 v p t.toNat

/-- Is a word a loop word, which keeps its group's back edge from being taken (R141). -/
def isLoopWord : Instr → Bool
  | .loop .. | .loopi .. | .loopr .. => true
  | _ => false

/-- The most recently started active loop that ends at an offset; in handler mode, of those that the handler started (R141, R343). -/
def endingLoop (q : Seq) (handler : Bool) (off : BitVec 32) : Option (Fin 4) :=
  (List.range 4).foldl (fun (best : Option (Fin 4)) k =>
    let n : Fin 4 := Fin.ofNat 4 k
    let r := q.loops[n]
    if r.active && r.stop = off && (!handler || r.handler) then
      match best with
      | some b => if (q.loops[b]).order < r.order then some n else best
      | none => some n
    else best) none

/-- The back edge of the loops that end at the group in issue (R141), testing at most `fuel` loops. The difference TOTAL − LC, which a WRCR
can make negative, is taken modulo 2^32 (log entry 78; DESIGN CHOICE). -/
def State.backEdge (s : State) : Nat → State
  | 0 => s
  | fuel + 1 =>
    let q := s.seq
    match endingLoop q (s.side = .xs && s.g.handler.isSome) q.grpStart with
    | none => s
    | some n =>
      let r := q.loops[n]
      if 1 < (q.lc[n]).toNat then
        let left := q.lc[n] - 1
        let s := if r.rv && 32 < s.g.desc.vregs then
            s.modG fun g => { g with vrb := Fin.ofNat 32 ((g.vrb.val + (g.desc.vregs - 32) - 1) % (g.desc.vregs - 32)) }
          else s
        s.modSeq fun q =>
          let q := { q with lc := q.lc.set n left, pc := r.start }
          if r.rp then
            let prb : Fin 32 := Fin.ofNat 32 (q.prb.val + 31)
            ({ q with prb := prb }).setPhysP (physP prb 32) ((r.total - left).toNat < r.kernel.toNat)
          else q
      else
        State.backEdge
          (s.modSeq fun q => { q with lc := q.lc.set n 0, loops := q.loops.set n { r with active := false } }) fuel

/-! ## Compares -/

/-- The f32 operand of a compare: flushed on the XS, no modifier (R144). -/
def cmpOperand (fz : Bool) (v : Word) : Val := decodeNum (.flt .f32) fz (fld v.toNat 0 32)

/-- A comparison: its outcome, and IV (R107, R144). -/
def compare (k : Cond) (c : NumCtl) (a b : Word) : Bool × Flags :=
  let u := cmpOperand c.fza a
  let v := cmpOperand c.fzb b
  let sig := flagIf (u.isSig || v.isSig) Flg.iv
  let nan := flagIf (u.isNan || v.isNan) Flg.iv
  match k with
  | .eq => (a == b, Flg.none)
  | .ne => (a != b, Flg.none)
  | .lt => (a.toInt < b.toInt, Flg.none)
  | .ge => (b.toInt ≤ a.toInt, Flg.none)
  | .ltu => (a.toNat < b.toNat, Flg.none)
  | .geu => (b.toNat ≤ a.toNat, Flg.none)
  | .feq => (Val.eqv u v, sig)
  | .flt => (Val.lt u v, nan)
  | .fle => (Val.lt u v || Val.eqv u v, nan)
  | .fun_ => (u.isNan || v.isNan, sig)
  | .tst => ((a &&& b) != 0, Flg.none)

/-- The immediate of CMPI (R107). -/
def cmpImm (k : Cond) (i : BitVec 8) : Word :=
  match k with
  | .eq | .ne | .lt | .ge => i.signExtend 64
  | _ => i.setWidth 64

/-- A compare's result. -/
def State.compareWord (s : State) (k : Cond) (p : RegNum) (a b : Word) : State :=
  let r := compare k s.numCtl a b
  s.pResult 1 p r.1 r.2

/-- CMP (R144). -/
def execCmp (k : Cond) (p a b : RegNum) (s : State) : Host.Outcome State Fault Refusal :=
  issue (.cmp k p a b) s fun s => s.compareWord k p (s.seq.getX a) (s.seq.getX b)

/-- CMPI (R144). -/
def execCmpi (k : Cond) (p a : RegNum) (i : BitVec 8) (s : State) : Host.Outcome State Fault Refusal :=
  issue (.cmpi k p a i) s fun s => s.compareWord k p (s.seq.getX a) (cmpImm k i)

/-- PLOG (R145). -/
def execPlog (d a b : RegNum) (t : BitVec 4) (s : State) : Host.Outcome State Fault Refusal :=
  issue (.plog d a b t) s fun s =>
    let k := (if s.seq.getP a then 2 else 0) + (if s.seq.getP b then 1 else 0)
    s.pResult 1 d (t.getLsbD k) Flg.none

/-- NOP (R146). -/
def execNop (s : State) : Host.Outcome State Fault Refusal := issue .nop s fun s => s

end Sys2Proof.Machine
end

