-- ==== Sys2Proof/Machine/MemOps.lean ====
section
/-! DEFINITION. Class 3 words that move single values (R148 to R154) and the stream and ring words of the AS (R223, R236 to R243,
R252). -/

namespace Sys2Proof.Machine

/-! ## Soft errors (R354) -/

/-- The first address of a range, seen from the core in focus, whose word is poisoned. -/
def State.poisonIn (s : State) (a : Word) (n : Nat) : Option Word :=
  if s.poison.isEmpty then none
  else
    ((List.range n).map fun k => a + BitVec.ofNat 64 k).find? fun x =>
      match s.keyOf s.focus s.g.bank.pd .read x with
      | some key => s.poisoned key 1
      | none => false

/-! ## Loads and stores -/

/-- A value of `n` bytes, extended to 64 bits (R108). -/
def extendBytes (sx : Bool) (n v : Nat) : Word := if sx then BitVec.ofInt 64 (sext (8 * n) v) else BitVec.ofNat 64 v

/-- The byte that the youngest store of the queue issued four or more issue cycles ago wrote at a local offset (R150). -/
def State.forwarded (s : State) (off : Nat) : Option Byte :=
  (s.g.storeQ.filter fun e => e.due ≤ s.g.xs.ic + 8).foldl (fun (acc : Option Byte) e =>
    e.rows.foldl (fun acc r =>
      match localOff s.focus r.1 with
      | some o => if o ≤ off && off < o + r.2.length then r.2[off - o]? else acc
      | none => acc) acc) none

/-- A byte that a local load reads: from the store queue or from memory on the XS, from memory on the AS (R148, R150). DESIGN CHOICE (log
entry 90): a store of the core's own that is still queued is forwarded also where its byte lies in a quarter of another owner (R214). -/
def State.loadByte (s : State) (a : Word) : Byte :=
  let m := s.readAddr s.focus s.g.bank.pd a
  match s.side, localOff s.focus a with
  | .xs, some off => (s.forwarded off).getD m
  | _, _ => m

/-- `n` bytes of a local load, little-endian. -/
def State.loadLE (s : State) (a : Word) : Nat → Nat
  | 0 => 0
  | n + 1 => (s.loadByte a).toNat + 256 * State.loadLE s (a + 1) n

/-- LD (R148, R150), with latency 5. -/
def execLd (d a : RegNum) (z : Size) (x : Bool) (o : BitVec 7) (s : State) : Host.Outcome State Fault Refusal :=
  issue (.ld d a z x o) s fun s =>
    let p := memAddr (s.seq.getX a) o.toInt z
    match s.poisonIn p (sizeBytes z) with
    | some bad => s.softError s.side.eng s.seq.grpStart bad
    | none => (s.countRead s.g.bank.pd p (sizeBytes z)).xResult 5 d (extendBytes x (sizeBytes z) (s.loadLE p (sizeBytes z))) Flg.none

/-- ST (R149): one entry of the store queue. -/
def execSt (b a : RegNum) (z : Size) (o : BitVec 7) (s : State) : Host.Outcome State Fault Refusal :=
  issue (.st b a z o) s fun s =>
    s.queueStore false [[(memAddr (s.seq.getX a) o.toInt z, leBytes (sizeBytes z) (s.seq.getX b).toNat)]]

/-- A read of the AS that fills a queue entry: the entry is reserved at issue (R152, R154, R239). -/
def State.reserveRead (s : State) (q : Fin 16) (addr : Word) (bitOff bits : Nat) (sx : Bool) : State :=
  s.modG fun g =>
    { g.modQueue q fun x => x.push { val := 0, ready := false, born := 0, tag := none, fill := g.readNo } with
      asReads := g.asReads ++ [.queue g.readNo s.cyc s.seq.grpStart g.retired (Fin.ofNat 8 q.val) addr bitOff bits sx
        (s.readPieces s.g.bank.pd addr (elemBytes bitOff bits))], readNo := g.readNo + 1 }

/-- LDQ (R152). -/
def execLdq (q : Fin 16) (a : RegNum) (z : Size) (x : Bool) (o : BitVec 9) (s : State) : Host.Outcome State Fault Refusal :=
  issue (.ldq q a z x o) s fun s => s.reserveRead q (memAddr (s.seq.getX a) o.toInt z) 0 (8 * sizeBytes z) x

/-! ## Queues -/

/-- A budget window closes (R329). -/
def State.closeWindow (s : State) : State := s.modG fun g => { g with win := none, budget := 0 }

/-- A QPOP of Q13 opens a window for the popped entry's record when the node's ROWBUDGET is not 0 (R329). -/
def State.openWindow (s : State) (tag : Option Nat) : State :=
  if s.g.desc.rowBudget = 0 then s
  else match tag with
    | none => s.closeWindow
    | some r => if s.g.win = some r then s else s.modG fun g => { g with win := some r, budget := g.desc.rowBudget }

/-- An accept push: the record's ACCEPT and the row's fixed mark (R332). -/
def State.acceptPush (s : State) (v : Word) : State :=
  let row := fld v.toNat 32 10
  let len := fld v.toNat 0 32
  let s := s.setRowField s.focus row 12 4 len
  s.modG fun g => { g with fixedRows := (row, len) :: g.fixedRows.filter fun e => e.1 != row }

/-- QPUSH (R151); an entry for Q14 closes the window, and may fix a row (R322, R329, R332). -/
def execQpush (q : Fin 16) (a : RegNum) (s : State) : Host.Outcome State Fault Refusal :=
  issue (.qpush q a) s fun s =>
    let v := s.seq.getX a
    let s := if q = 14 && s.side = .xs then (if bit v.toNat 63 then s.acceptPush v else s).closeWindow else s
    s.modG fun g => g.modQueue q fun x => x.push (QEntry.now v s.cyc)

/-- QPOP (R151); a pop of Q13 opens a window (R329). -/
def execQpop (q : Fin 16) (d : RegNum) (s : State) : Host.Outcome State Fault Refusal :=
  issue (.qpop q d) s fun s =>
    let x := s.g.queue q
    let s := s.xResult 1 d x.head Flg.none
    let s := s.modG fun g => g.modQueue q fun x => x.pop s.cyc
    if q = 13 then s.openWindow (x.entries.head?.bind QEntry.tag) else s

/-- QPEEK (R151). -/
def execQpeek (q : Fin 16) (d : RegNum) (s : State) : Host.Outcome State Fault Refusal :=
  issue (.qpeek q d) s fun s => s.xResult 1 d (s.g.queue q).head Flg.none

/-- QCNT (R151). -/
def execQcnt (q : Fin 16) (d : RegNum) (s : State) : Host.Outcome State Fault Refusal :=
  issue (.qcnt q d) s fun s =>
    let r := s.loggedRead s.focus (BitVec.ofNat 64 ((s.g.queue q).count s.cyc))
    r.1.xResult 1 d r.2 Flg.none

/-- QPUSHB (R153). -/
def execQpushb (p : RegNum) (n : Bool) (s : State) : Host.Outcome State Fault Refusal :=
  issue (.qpushb p n) s fun s =>
    let v : Word := if s.seq.getP p != n then 1 else 0
    s.modG fun g => g.modQueue 8 fun x => x.push (QEntry.now v s.cyc)

/-! ## Streams -/

/-- The state with a stream register changed. -/
def State.modAg (s : State) (k : Fin 32) (f : Ag → Ag) : State := s.modG fun g => { g with ags := g.ags.set k (f g.ags[k]) }

/-- A number with the `n` bits from `lo` up replaced. -/
def putField (w : Word) (lo n v : Nat) : Word :=
  BitVec.ofNat 64 (w.toNat - fld w.toNat lo n * 2 ^ lo + v % 2 ^ n * 2 ^ lo)

/-- AGDEF (R236): the register is written when the read returns. -/
def execAgdef (k : Fin 32) (a : RegNum) (s : State) : Host.Outcome State Fault Refusal :=
  issue (.agdef k a) s fun s =>
    s.modG fun g =>
      { g with
        asReads := g.asReads ++ [.stream g.readNo s.cyc s.seq.grpStart g.retired k (s.seq.getX a) (s.readPieces s.g.bank.pd (s.seq.getX a) 128)]
        readNo := g.readNo + 1 }

/-- A descriptor with a FIELD of AGSET written (R237). -/
def agSetField (f : Nat) (v : Word) (d : Ag) : Ag :=
  if f < 15 then d.set (Fin.ofNat 16 f) v
  else if f = 15 then d.set (15 : Fin 16) (BitVec.ofNat 64 (fld v.toNat 0 48))
  else if f < 26 then
    let k : Fin 16 := Fin.ofNat 16 (2 + (f - 16))
    d.set k (putField d[k] 40 24 v.toNat)
  else if f < 42 then
    let k : Fin 16 := Fin.ofNat 16 (2 + (f - 32))
    d.set k (putField d[k] 0 40 v.toNat)
  else d.set (1 : Fin 16) (putField d[(1 : Fin 16)] 20 20 v.toNat)

/-- AGSET (R237). -/
def execAgset (k : Fin 32) (a : RegNum) (f : BitVec 7) (s : State) : Host.Outcome State Fault Refusal :=
  issue (.agset k a f) s fun s => s.modAg k (agSetField f.toNat (s.seq.getX a))

/-- The descriptor moved along a dimension by `n` steps (R238). -/
def agAdvance (dim : Nat) (n : Int) (d : Ag) : Ag :=
  if agWen d && dim = agWdim d then
    d.set (1 : Fin 16) (putField d[(1 : Fin 16)] 20 20 (((agWoff d : Int) + n) % (agWmod d : Int)).toNat)
  else
    let b := n * agStride d dim * (agBits d : Int) / 8
    if spaceOf (agBase d) = 2 then d.set (0 : Fin 16) (putField d[(0 : Fin 16)] 0 16 ((kvOff (agBase d) : Int) + b).toNat)
    else d.set (0 : Fin 16) (d[(0 : Fin 16)] + BitVec.ofInt 64 b)

/-- AGADV (R238). -/
def execAgadv (k : Fin 32) (a : RegNum) (dim : Fin 16) (s : State) : Host.Outcome State Fault Refusal :=
  issue (.agadv k a dim) s fun s => s.modAg k (agAdvance dim.val (s.seq.getX a).toInt)

/-- The read of the element of a stream at a position (R239). -/
def State.readElement (s : State) (q : Fin 16) (d : Ag) (pos : Nat) : State :=
  let p := agPlace d (pos % agTotal d)
  s.reserveRead q p.1 p.2 (agBits d) false

/-- AGLD (R239): the element at POS, which advances. -/
def execAgld (k : Fin 32) (q : Fin 16) (s : State) : Host.Outcome State Fault Refusal :=
  issue (.agld k q) s fun s =>
    let d := s.g.ags[k]
    let s := s.readElement q d (agPos d)
    s.modAg k fun d => d.set (15 : Fin 16) (putField d[(15 : Fin 16)] 0 48 ((agPos d % agTotal d + 1) % agTotal d))

/-- AGGATH (R239): the element at an index. -/
def execAggath (k : Fin 32) (q : Fin 16) (a : RegNum) (s : State) : Host.Outcome State Fault Refusal :=
  issue (.aggath k q a) s fun s => s.readElement q s.g.ags[k] (s.seq.getX a).toNat

/-- PGREF (R223): the reference is resolved when its home die answers (PGREF_RESULT). -/
def execPgref (d a : RegNum) (s : State) : Host.Outcome State Fault Refusal :=
  issue (.pgref d a) s fun s =>
    s.modG fun g =>
      { g with asReads := g.asReads ++ [.pgref g.readNo s.cyc s.seq.grpStart d (s.seq.getX a) none], readNo := g.readNo + 1 }

/-! ## Rings (R241 to R243) -/

/-- The slots that an operand word's resolved references name (R242). -/
def operandSlots (o : OperandWord) : List (Fin 256) :=
  ((o.src.toList ++ o.dst.toList).filter fun a => isResolved (agBase a)).map fun a => kvSlot (agBase a)

/-- The record that an operand word takes (R242). -/
def State.makeRecord (s : State) (r : Ring) (op idx : Nat) (tag : BitVec 16) (o : OperandWord) : OpRecord :=
  let acc : HAcc := if combines r op idx then .atomic else .write
  { tag := tag, src := o.src, dst := o.dst, opt := BitVec.ofNat 8 o.opt
    pieces := o.src.toList.flatMap (s.footPieces .read) ++ o.dst.toList.flatMap (s.footPieces acc), slots := operandSlots o }

/-- The open command of a ring after another word (R241). -/
def RingState.wordWritten (q : RingState) (w : BitVec 32) (rec : List (Fin 64)) : RingState :=
  let q := { q with cursor := q.cursor + 1 }
  match q.openHdr with
  | none => if fld w.toNat 23 3 = 0 then q else { q with openHdr := some w, openArgs := [], openRecs := [] }
  | some h =>
    if fld h.toNat 23 3 ≤ q.openArgs.length + 1 then { q with openHdr := none, openArgs := [], openRecs := [] }
    else { q with openArgs := q.openArgs ++ [w], openRecs := q.openRecs ++ rec }

/-- CMDW (R241, R242). -/
def execCmdw (r : Ring) (a : RegNum) (s : State) : Host.Outcome State Fault Refusal :=
  issue (.cmdw r a) s fun s =>
    let v := s.seq.getX a
    let q := s.g.ringOf r
    let tag := BitVec.setWidth 16 q.cursor
    let out : BitVec 32 × List (Fin 64 × OpRecord) :=
      match cmdwSlot r q, freeRecord q with
      | .operand op idx k, some n =>
        (BitVec.ofNat 32 (tag.toNat * 65536 + n.val), [(n, s.makeRecord r op idx tag (operandWord s.g k v))])
      | _, _ => (v.setWidth 32, [])
    let s := s.writeMem (leCells (ringKey s.focus q q.cursor) 4 out.1.toNat)
    s.modG fun g => g.modRing r fun q =>
      { q.wordWritten out.1 (out.2.map Prod.fst) with
        records := out.2.foldl (fun rs e => rs.set e.1 (some e.2)) q.records }

/-- CMDPUB (R243). -/
def execCmdpub (r : Ring) (s : State) : Host.Outcome State Fault Refusal :=
  issue (.cmdpub r) s fun s => s.modG fun g => g.modRing r fun q => { q with pub := q.cursor }

/-- WPWAIT (R252): the wait is all that it does. -/
def execWpwait (c : Chan) (a : RegNum) (s : State) : Host.Outcome State Fault Refusal := issue (.wpwait c a) s fun s => s

end Sys2Proof.Machine
end

