-- ==== Sys2Proof/Machine/Engine.lean ====
section
/-! DEFINITION. What the ring engines share (R70, R116 to R118, R241 to R244, R246, R250, R261, R262, R282, R288, R293, R300, R333):
fetching a command, its start, its units of work, its completion, and the write pointers; with the reading of streams and the
delivery of their bytes. `State.focus` and `State.ring` name the engine at work. -/

namespace Sys2Proof.Machine

/-! ## Commands -/

/-- The ring of the engine at work. -/
def State.rq (s : State) : RingState := s.g.ringOf s.ring

/-- The state with the ring of the engine at work changed. -/
def State.modRq (s : State) (f : RingState → RingState) : State := s.modG fun g => g.modRing s.ring f

/-- The entries of an engine's queue (R261, R246). -/
def ringDepth (r : Ring) : Nat :=
  match r with
  | .me => 16
  | _ => 4

/-- A termination by the engine at work, naming the ring and the header's ring PC (R262, R352). -/
def State.engineStop (s : State) (cause : Cause) (hdrPc : BitVec 32) (detail : Nat) : State :=
  s.terminate s.focus (termRecord cause.code (ringEng s.ring) false hdrPc (BitVec.ofNat 32 detail))

/-- Flags credited to an instance for a row group of core `c` (R355): to its flag word while it is there, else to the instance's. -/
def State.credit (s : State) (c : CoreId) (inst : BitVec 24) (f : Flags) : State :=
  if f = Flg.none then s
  else if (s.coreAt c).g.run.isSome && (s.coreAt c).g.bank.inst = inst then
    s.modGAt c fun g => { g with flagWord := g.flagWord ||| f }
  else s.modInst inst fun i => { i with flags := i.flags ||| f }

/-- Flags credited to the instance of the engine at work. -/
def State.creditHere (s : State) (f : Flags) : State := s.credit s.focus s.g.bank.inst f

/-! ## Fetch (R70, R118, R244, R262, R333) -/

/-- Do `n` banks from `b` pass A511. -/
def pastBanks (b n : Nat) : Bool := 512 < b + n

/-- Is a value outside the layout of an epilogue register (R275). -/
def epcfgBad (reg v : Nat) : Bool :=
  match reg with
  | 0 => 63 < v
  | 1 => 2 ^ 22 ≤ v
  | 2 => 2 ^ 22 ≤ v
  | 5 => fld v 0 6 != 0
  | 7 => v = 0 || 64 < v
  | _ => false

/-- Does a CSIG or MSIG value word hold a non-zero bit that must be zero (R248). -/
def semWordBad (w : Nat) : Bool := fld w 18 13 != 0 || fld w 6 3 != 0 || (bit w 31 && fld w 9 9 != 0)

/-- The semaphore that a CSIG or MSIG value word names for core `c` (R248). -/
def semWordName (c : CoreId) (w : Nat) : SemName :=
  { core := if bit w 31 then c else Fin.ofNat 512 (fld w 16 2 * 128 + fld w 13 3 * 16 + fld w 9 4), num := Fin.ofNat 64 w,
    span := false }

/-- The value word of a command that breaks its layout, or a bank range that value words alone put past A511 (R262 to R279). -/
def badWord (i : Instr) : Option Lane :=
  let pick : List (Bool × Lane) → Option Lane := fun l => (l.find? Prod.fst).map Prod.snd
  match i with
  | .mma _ a _ _ => pick [(fld a.toNat 0 4 != 0, a)]
  | .mmar _ a _ _ m => pick [(fld a.toNat 0 4 != 0, a), (fld m.toNat 0 6 != 0, m)]
  | .mzero _ a | .accspill _ a _ | .accfill _ a _ =>
    pick [(fld a.toNat 0 14 != 0 || pastBanks (fld a.toNat 23 9) (fld a.toNat 14 9 + 1), a)]
  | .anchor _ a => pick [(fld a.toNat 0 13 != 0, a)]
  | .resolve _ a b =>
    let n := tileBanks (fld a.toNat 17 6 + 1)
    let src := fld a.toNat 23 9
    let dst := fld b.toNat 23 9
    pick [(fld a.toNat 0 15 != 0 || fld a.toNat 15 2 = 3 || pastBanks src n, a),
      (fld b.toNat 0 23 != 0 || pastBanks dst n || (src != dst && src < dst + n && dst < src + n), b)]
  | .topk _ a _ => pick [(fld a.toNat 0 24 != 0, a)]
  | .acccmp _ a _ =>
    let n := tileBanks (fld a.toNat 8 6 + 1)
    pick [(fld a.toNat 0 4 != 0 || pastBanks (fld a.toNat 23 9) n || (!bit a.toNat 4 && pastBanks (fld a.toNat 14 9) n), a)]
  | .accmov _ a b =>
    let n := fld a.toNat 5 9 + 1
    pick [(fld a.toNat 0 5 != 0 || pastBanks (fld a.toNat 23 9) n || pastBanks (fld a.toNat 14 9) n, a), (1 < b.toNat, b)]
  | .accadd _ a b =>
    let n := tileBanks (fld a.toNat 8 6 + 1)
    pick [(fld a.toNat 0 8 != 0 || pastBanks (fld a.toNat 23 9) n || pastBanks (fld a.toNat 14 9) n, a),
      (fld b.toNat 0 27 != 0, b)]
  | .epcfg _ a b => pick [(7 < a.toNat, a), (epcfgBad a.toNat b.toNat, b)]
  | .msig _ a => pick [(semWordBad a.toNat, a)]
  | .csig _ a => pick [(semWordBad a.toNat, a)]
  | _ => none

/-- The records that a command's operand words name, with the first word that names none under its tag (R244): the words are
numbered from the ring position after the header. -/
def RingState.operandRecs (q : RingState) (r : Ring) (op : Nat) (args : List Lane) : List (Fin 64) × Option Lane :=
  ((List.range args.length).zip (args.zip (argKinds r op))).foldl (fun acc e =>
    match e.2.2 with
    | .value => acc
    | _ =>
      let w := e.2.1.toNat
      let n : Fin 64 := Fin.ofNat 64 w
      let pos := (q.pc + BitVec.ofNat 32 (e.1 + 1)).setWidth 16
      let ok := match q.records[n] with
        | some o => o.tag = BitVec.ofNat 16 (w / 65536) && o.tag = pos
        | none => false
      (acc.1 ++ [n], if acc.2.isSome || ok then acc.2 else some e.2.1)) ([], none)

/-- The element width in bytes, rounded up. -/
def agBytes (a : Ag) : Nat := (agTotal a * agBits a + 7) / 8

/-- The bytes of a row's bitmap and scale area, as a channel counts them (R250). -/
def agSideBytes (a : Ag) : Nat := if agScm a = 0 then 0 else agBitmapBytes a + agScaleBytes a

/-- The counts that a command owns (R250), from its records in order. -/
def cmdCount (i : Instr) (recs : List OpRecord) : Nat :=
  let dst : Nat → Option Ag := fun k => (recs[k]?).bind OpRecord.dst
  match i with
  | .copy .. | .gather .. | .scatter .. =>
    ((dst 0).map fun d =>
      match i with
      | .scatter .. =>
        (match (recs[0]?).bind OpRecord.src with
         | some s => agBytes s + agTotal s / agCount d 0 * agSideBytes d
         | none => 0)
      | _ => agBytes d + agTotal d / agCount d 0 * agSideBytes d).getD 0
  | .fill .. | .accw .. => ((dst 0).map agBytes).getD 0
  | .fetchop .. | .cas .. => ((dst 1).map agBytes).getD 0
  | _ => 0

/-- The lineage word of a command: its ROW and DEPTH (R333). -/
def lineageOf (h : CmdHdr) : Nat × Nat := (fld h.linw.toNat 22 10, fld h.linw.toNat 0 22)

/-- Does a fetched command rest on tokens beyond a fixed row's accepted length (R333). -/
def State.squashes (s : State) (h : CmdHdr) : Bool :=
  let l := lineageOf h
  h.lin && (s.g.fixedRows.lookup l.1).isSome && s.rowAccept s.focus l.1 < s.rowLineage s.focus l.1 + l.2

/-- Free records of a ring, which drops their slots' use counts (R244). -/
def RingState.freeRecs (q : RingState) (recs : List (Fin 64)) : RingState :=
  { q with records := recs.foldl (fun (rs : Vector (Option OpRecord) 64) (n : Fin 64) => rs.set n none) q.records }

/-- Free records of a ring of a row group: its engine is the last that used their slots (R244, R385). -/
def Group.freeRecs (g : Group) (r : Ring) (recs : List (Fin 64)) : Group :=
  let used := (recs.filterMap fun n => (g.ringOf r).records[n]).flatMap OpRecord.slots
  (used.foldl (fun g k => g.setSlot k { g.slot k with user := ringEng r }) g).modRing r fun q => q.freeRecs recs

/-- The argument words of the command whose header stands at a ring's PC. -/
def State.ringArgs (s : State) (n : Nat) : List Lane :=
  (List.range n).map fun k => BitVec.ofNat 32 (readLE s.mem (ringKey s.focus s.rq (s.rq.pc + BitVec.ofNat 32 (k + 1))) 4)

/-- Put a fetched command into the engine's queue (R70, R244, R250, R333). -/
def State.enqueue (s : State) (i : Instr) (recs : List (Fin 64)) (words : Nat) : State :=
  let q := s.rq
  let m := cmdCount i (recs.filterMap fun n => q.records[n])
  let squash := s.squashes (cmdHdr i)
  let cmd : Cmd :=
    { instr := i, hdrPc := q.pc, recs := if squash then [] else recs, squashed := squash, phase := .queued, progress := 0, units := 0,
      first := q.owned, total := m, waited := 0, waitFrom := 0, waitKind := 0, waitObj := 0, added := false, migrated := false,
      posts := [], row := none, skip := 0, cycles := 0, left := 0 }
  let s := s.modRq fun q =>
    { q with pc := q.pc + BitVec.ofNat 32 words, queue := q.queue ++ [cmd], owned := q.owned + m }
  if squash then s.modG fun g => g.freeRecs s.ring recs else s

/-- Fetch the next whole command of the engine at work, if its words lie below the publish count and the queue has room (R70). A
command that may not be fetched terminates the row group (R118, R244, R262, R333). -/
def State.fetchCommand (s : State) : State :=
  let q := s.rq
  let avail := (q.pub - q.pc).toNat
  if !s.cur.runs || ringDepth s.ring ≤ q.queue.length || avail = 0 then s
  else
    let key := ringKey s.focus q q.pc
    let w := readLE s.mem key 4
    let n := fld w 23 3
    let bad := ((List.range (n + 1)).map fun k => ringKey s.focus q (q.pc + BitVec.ofNat 32 k)).find? fun k => s.poisoned k 4
    if avail < n + 1 then s
    else match bad with
    | some bad => s.engineStop .softError q.pc bad
    | none =>
      let args := s.ringArgs n
      match decodeCommand (ringStep s.ring) w args with
      | .error _ => s.engineStop .engineIllegal q.pc w
      | .ok i =>
        let r := q.operandRecs s.ring (cmdOp i) (cmdArgs i)
        let h := cmdHdr i
        let lin := if h.lin && s.g.rowCount ≤ (lineageOf h).1 then some h.linw else none
        match (r.2.orElse fun _ => lin).orElse fun _ => badWord i with
        | some bad => s.engineStop .engineIllegal q.pc bad.toNat
        | none => s.enqueue i r.1 (n + 1)

/-! ## Start (R116, R246, R261, R287, R293, R300) -/

/-- Is a command a CSIG or MSIG, which acts once every earlier command has completed (R248, R279). -/
def isSig : Instr → Bool
  | .csig .. => true
  | .msig .. => true
  | _ => false

/-- The cycles that step `k` of a command takes: its time of R282 spread over its units. -/
def Cmd.stepTime (c : Cmd) (k : Nat) : Nat :=
  if c.units = 0 then (if k = 0 then c.cycles else 0)
  else if k < c.units then c.cycles * (k + 1) / c.units - c.cycles * k / c.units else 0

/-- Has a running command made every unit of its work and taken its cycles; an MSIG's work is its add (R261, R279). -/
def Cmd.worked (c : Cmd) : Bool :=
  c.units ≤ c.progress && c.left = 0 &&
    (match c.instr with
     | .msig .. => c.added || c.squashed
     | _ => true)

/-- The command at work: the first of the queue that has not done all its work and has not moved to a guest (R246, R261, R280). -/
def workIndex : Nat → List Cmd → Option (Nat × Cmd)
  | _, [] => none
  | k, c :: rest =>
    match c.phase with
    | .running => if c.migrated || c.worked then workIndex (k + 1) rest else some (k, c)
    | .queued => some (k, c)
    | .starting => some (k, c)
    | .done => workIndex (k + 1) rest

/-- The command at work on the engine. -/
def State.atWork (s : State) : Option (Nat × Cmd) := workIndex 0 s.rq.queue

/-- The state with the k-th command of the engine's queue replaced. -/
def State.setCmd (s : State) (k : Nat) (c : Cmd) : State := s.modRq fun q => { q with queue := q.queue.set k c }

/-- Is the await of a command satisfied (R116, R287). -/
def State.awaitOk (s : State) (h : CmdHdr) : Bool :=
  let v := (s.g.sems[h.await]).sample s.cyc
  match h.amode with
  | .none => true
  | .ge => semAtLeast v h.thr
  | .lt => semBelow v h.thr

/-- Are the tokens that a command pops present (R116, R293). -/
def State.tokensOk (s : State) (h : CmdHdr) : Bool :=
  let e := ringEng s.ring
  (!h.popL || (s.g.fifos[popFifo e .left]).canPop s.cyc) && (!h.popR || (s.g.fifos[popFifo e .right]).canPop s.cyc)

/-- The bit of a ring's path in a mask (R111, R295). -/
def ringBit (r : Ring) : Nat :=
  match r with
  | .me => 3
  | .ch0 => 4
  | .ch1 => 5

/-- The publish count that a FENCE took of a ring (R295). -/
def Before.pub (b : Before) (r : Ring) : BitVec 32 :=
  match r with
  | .me => b.me
  | .ch0 => b.ch0
  | .ch1 => b.ch1

/-- Does a FENCE hold a command back (R300): a command that the FENCE counts as before it is not held. -/
def State.fenceHolds (s : State) (cmd : Cmd) : Bool :=
  s.g.fences.any fun f =>
    let behind := (f.before.pub s.ring - cmd.hdrPc).toNat
    f.after.getLsbD (ringBit s.ring) && !(f.before.mask.getLsbD (ringBit s.ring) && behind != 0 && behind ≤ 2147483648)
      && !s.performed s.focus f.before []

/-- Does a command name a bank that is lent to a guest (R280). -/
def State.lentBank (s : State) (cmd : Cmd) : Bool :=
  (queuedBanks s.focus s.rq cmd).any fun r => (List.range r.2).any fun k => (Tab.get Bank.free s.g.banks (r.1 + k)).lent

/-- Do the engines of the core in focus go on: its row group runs, and no halt has been asked for (R356). -/
def State.enginesGo (s : State) : Bool := s.cur.runs && s.cur.haltReq.isNone

/-- Is there room for the tokens that a command pushes (R293). -/
def State.pushRoom (s : State) (h : CmdHdr) : Bool :=
  let e := ringEng s.ring
  (!h.pushL || (s.g.fifos[pushFifo e .left]).hasRoom s.cyc) && (!h.pushR || (s.g.fifos[pushFifo e .right]).hasRoom s.cyc)

/-- Has a command done all its work, its bytes being delivered and its add made (R246, R261, R278, R280). -/
def State.workDone (s : State) (cmd : Cmd) : Bool :=
  cmd.phase = .running && cmd.worked && !cmd.migrated && (cmd.squashed || cmd.first + cmd.total ≤ s.rq.wp)
    && (!isSig cmd.instr || cmd.squashed || cmd.added)

/-- Could the head of the engine's queue complete now. -/
def State.headCompletes (s : State) : Bool :=
  match s.rq.queue with
  | [] => false
  | cmd :: _ => s.workDone cmd && s.pushRoom (cmdHdr cmd.instr)

/-- Could the k-th command start but for its await and its tokens (R246, R261, R280, R300). The ME completes what can complete first, and
starts nothing in that cycle, so a command's await sees the raises of all that have finished before it (R261). -/
def State.headReady (s : State) (k : Nat) (cmd : Cmd) : Bool :=
  s.enginesGo && !s.fenceHolds cmd && (!isSig cmd.instr || cmd.squashed || k = 0) &&
    (match s.ring with
     | .me => s.rq.doneAt ≤ s.cyc && !s.headCompletes && (cmd.squashed || !s.lentBank cmd)
     | _ => true)

/-- May the k-th command start. -/
def State.mayStart (s : State) (k : Nat) (cmd : Cmd) : Bool :=
  s.headReady k cmd && s.awaitOk (cmdHdr cmd.instr) && s.tokensOk (cmdHdr cmd.instr)

/-! ## The records of an engine's waits (R383 to R385) -/

/-- The neighbour of an engine in the token ring CH0, ME, XS, CH1 (R76, R291). -/
def neighbour (e : Eng) (d : Side) : Eng :=
  match (tokenPlace e + (match d with
    | .left => 3
    | .right => 1)) % 4 with
  | 0 => .ch0
  | 1 => .me
  | 2 => .xs
  | _ => .ch1

/-- The setter of a command's wait that has ended: the issuer of the semaphore step for an await, the neighbour for a token, and the
XS, which pops Q13, for a hold of the epilogue (R385). -/
def State.cmdSetter (s : State) (cmd : Cmd) : Nat × CoreId :=
  match cmd.waitKind with
  | 0 =>
    let h := cmdHdr cmd.instr
    let m := (s.g.sems[h.await]).setter s.cyc fun v => match h.amode with
      | .lt => semBelow v h.thr
      | _ => semAtLeast v h.thr
    (m.1.code, m.2)
  | 1 => ((neighbour (ringEng s.ring) (if cmd.waitObj = 0 then .left else .right)).code, s.focus)
  | _ => (Eng.xs.code, s.focus)

/-- The record of a command's wait that has ended (R383). -/
def State.cmdRecord (s : State) (cmd : Cmd) (setter : Nat × CoreId) : State :=
  s.traceWait s.focus cmd.waitKind (ringEng s.ring) false cmd.waitObj cmd.hdrPc (cmd.waited - cmd.waitFrom) setter.1 setter.2

/-- A command whose wait is over. -/
def Cmd.calm (c : Cmd) : Cmd := { c with waited := 0, waitFrom := 0 }

/-- A wait of the k-th command is over: its record is written (R383). -/
def State.cmdCalm (s : State) (k : Nat) (cmd : Cmd) : State :=
  if cmd.waited = 0 then s else (s.cmdRecord cmd (s.cmdSetter cmd)).setCmd k cmd.calm

/-- A cycle in which the k-th command waits. A wait for something else that it had before is over, and its count starts anew (log entry
96; DEDUCED); a count beyond WAITMAX terminates the row group (R288). -/
def State.cmdTick (s : State) (k : Nat) (cmd : Cmd) (w : WaitKind × Nat) : State :=
  let other := cmd.waited != 0 && (cmd.waitKind != w.1.code || cmd.waitObj != w.2)
  let s := if other then s.cmdRecord cmd (s.cmdSetter cmd) else s
  let cmd := { (if other then cmd.calm else cmd) with waitKind := w.1.code, waitObj := w.2 }
  if s.g.waitMax < cmd.waited + 1 then ((s.cmdRecord cmd (6, 0)).setCmd k cmd.calm).engineStop .waitTimeout cmd.hdrPc w.1.code
  else s.setCmd k { cmd with waited := cmd.waited + 1 }

/-- What a command waits for at its start, its await before its tokens (R116). -/
def State.startWait (s : State) (h : CmdHdr) : Option (WaitKind × Nat) :=
  let e := ringEng s.ring
  if !s.awaitOk h then some (.sem, h.await.val)
  else if h.popL && !(s.g.fifos[popFifo e .left]).canPop s.cyc then some (.token, sideCode .left)
  else if h.popR && !(s.g.fifos[popFifo e .right]).canPop s.cyc then some (.token, sideCode .right)
  else none

/-- The push that keeps a command from completing (R293). -/
def State.pushWait (s : State) (h : CmdHdr) : WaitKind × Nat :=
  if h.pushL && !(s.g.fifos[pushFifo (ringEng s.ring) .left]).hasRoom s.cyc then (.token, sideCode .left)
  else (.token, sideCode .right)

/-- Does a full Q13 hold a command: a TOPK at its next record (R278). -/
def State.postHolds (s : State) (cmd : Cmd) : Bool :=
  match cmd.instr with
  | .topk _ a _ =>
    cmd.phase = .running && cmd.left = 0 && cmd.progress < cmd.units && bit a.toNat 25 && !(s.g.queue 13).hasRoom (queueDepth 13) s.cyc
  | _ => false

/-- A cycle of the waits of an engine's commands: of the head for room for its pushes at its completion, and of the command at work for its
await, its tokens or Q13; one that waits no more has its record (R288, R383). -/
def State.commandWait (s : State) : State :=
  if !s.enginesGo then s
  else
    let s := match s.rq.queue with
      | [] => s
      | cmd :: _ =>
        let h := cmdHdr cmd.instr
        if s.workDone cmd then (if s.pushRoom h then s.cmdCalm 0 cmd else s.cmdTick 0 cmd (s.pushWait h)) else s
    if !s.enginesGo then s
    else match s.atWork with
      | none => s
      | some (k, c) =>
        if s.postHolds c then s.cmdTick k c (.queue, 13)
        else if c.phase = .running then s.cmdCalm k c
        else if c.phase != .queued || !s.headReady k c then s
        else match s.startWait (cmdHdr c.instr) with
          | some w => s.cmdTick k c w
          | none => s.cmdCalm k c

/-! ## Units of work (R246, R257, R261, R262, R282) -/

/-- The pops that a command makes at its start (R116, R293). -/
def State.takePops (s : State) (h : CmdHdr) : State :=
  let e := ringEng s.ring
  let s := if h.popL then s.modG fun g => g.modFifo (popFifo e .left) fun f => f.pop s.cyc else s
  if h.popR then s.modG fun g => g.modFifo (popFifo e .right) fun f => f.pop s.cyc else s

/-- The k-th operand record of the command that names these records. -/
def State.rec? (s : State) (args : List Lane) (k : Nat) : Option OpRecord :=
  (args[k]?).bind fun w => s.rq.records[Fin.ofNat 64 w.toNat]

/-- What a command is to do once it has started: its units of work, its time of R282, and the records of a TOPK. -/
structure Plan where
  units : Nat
  cycles : Nat
  posts : List QEntry
  deriving DecidableEq, Repr

/-- A command's work: its plan and its start checks, both taken as it starts; its move to a guest, where it is to move; whether a
unit may be made; and the effect of a unit. -/
structure Work where
  plan : State → Plan
  fault : State → Option (Cause × Nat) := fun _ => none
  move : State → Nat → State := fun s _ => s
  ready : State → Cmd → Bool := fun _ _ => true
  eff : State → Cmd → State

/-- A plan of some units that take no time of their own. -/
def unitsOnly (n : Nat) : Plan := { units := n, cycles := 0, posts := [] }

/-- The time of a squashed command: that of MNOP on the ME, none on a channel (R333). -/
def squashedCycles (r : Ring) : Nat :=
  match r with
  | .me => 2
  | _ => 0

/-- The k-th command with its plan. -/
def Cmd.begin (c : Cmd) (p : Plan) : Cmd :=
  let c := { c with phase := .running, units := p.units, cycles := p.cycles, posts := p.posts }
  { c with left := c.stepTime 0 }

/-- The k-th command starts: the failure of its checks ends the row group, and a squashed command has no work of its own (R262, R333). -/
def State.beginCmd (s : State) (k : Nat) (cmd : Cmd) (w : Work) : State :=
  if cmd.squashed then s.setCmd k (cmd.begin { units := 0, cycles := squashedCycles s.ring, posts := [] })
  else match w.fault s with
    | some (ca, d) => s.engineStop ca cmd.hdrPc d
    | none => s.setCmd k (cmd.begin (w.plan s))

/-- How many units of a command lie between its step boundaries (R282): a TOPK stops after each row only. -/
def State.stepUnits (s : State) (cmd : Cmd) : Nat :=
  match cmd.instr with
  | .topk _ _ b => (((s.rq.records[Fin.ofNat 64 b.toNat]).bind OpRecord.dst).map fun d => agCount d 0).getD 1
  | _ => 1

/-- Is a running command of the ME at a step boundary, with no step begun (R282, R356): between its steps, at a record that Q13
holds, or with its work over. -/
def State.atBoundary (s : State) (cmd : Cmd) : Bool :=
  if cmd.units ≤ cmd.progress then cmd.left = 0
  else s.postHolds cmd || (cmd.progress != 0 && cmd.left = cmd.stepTime cmd.progress && cmd.progress % s.stepUnits cmd = 0)

/-- Does an engine go on with a running command: a halt lets the ME finish the step that it has begun, and lets a channel start no further
element (R356). -/
def State.unitGoes (s : State) (cmd : Cmd) : Bool :=
  s.cur.haltReq.isNone || (s.ring = .me && !s.atBoundary cmd)

/-- One unit of a running command's work, once the cycles of its step are over. -/
def State.runUnit (s : State) (k : Nat) (cmd : Cmd) (w : Work) : State :=
  if cmd.units ≤ cmd.progress || cmd.left != 0 || s.postHolds cmd || !w.ready s cmd then s
  else
    let s := if cmd.waited = 0 then s else s.cmdRecord cmd (s.cmdSetter cmd)
    let c := { cmd.calm with progress := cmd.progress + 1 }
    w.eff (s.setCmd k { c with left := c.stepTime c.progress }) cmd

/-- The turn of an engine at the command `i`: nothing unless it is the one at work. A queued command takes its await and pops where it may
start; on a channel it then starts at once, and on the ME its start checks follow after the XS group of that cycle (R258). A running command
makes one unit of its work (R116, R246, R257, R261, R262). -/
def State.runCmd (s : State) (i : Instr) (w : Work) : State :=
  match s.atWork with
  | none => s
  | some (k, cmd) =>
    if cmd.instr ≠ i || !s.cur.runs then s
    else match cmd.phase with
      | .queued =>
        if !s.mayStart k cmd then s
        else
          let s := (if cmd.waited = 0 then s else s.cmdRecord cmd (s.cmdSetter cmd)).takePops (cmdHdr i)
          (match s.ring with
           | .me => s.setCmd k { cmd.calm with phase := .starting, migrated := s.mig }
           | _ => s.beginCmd k cmd.calm w)
      | .starting =>
        let t := s.beginCmd k { cmd with migrated := false } w
        if cmd.migrated && !cmd.squashed && t.cur.runs then w.move t k else t
      | .running => if s.unitGoes cmd then s.runUnit k cmd w else s
      | .done => s

/-- A command's outcome. -/
def command (i : Instr) (s : State) (w : Work) : Host.Outcome State Fault Refusal := .next (s.runCmd i w)

/-- A cycle of the ME's commands in hand: each that runs takes a cycle of its step; a halt stops it at a step boundary (R282, R356). -/
def State.tickMe (s : State) : State :=
  let s := { s with ring := .me }
  s.modG fun g => g.modRing .me fun q =>
    { q with queue := q.queue.map fun c =>
        if c.phase = .running && !c.migrated && s.unitGoes c then { c with left := c.left - 1 } else c }

/-- The add of a CSIG or MSIG (R248, R279): made at once at home, and sent elsewhere. -/
def State.sigAdd (s : State) (w : Lane) (cmd : Cmd) : State :=
  let n := semWordName s.focus w.toNat
  if n.core = s.focus then
    let s := s.semApply s.focus n.num s.focus (ringEng s.ring) (.add 1)
    s.modRq fun q => { q with queue := q.queue.map fun x => if x.hdrPc = cmd.hdrPc then { x with added := true } else x }
  else s.send (s.flightOf s.focus (ringPath s.ring) (some n.core) (.csig n))

/-! ## Completion (R116, R246, R250, R261, R288, R293) -/

/-- Advance a write pointer over what has been delivered (R250): an interval that begins at or below it moves it to the interval's
end. -/
def advanceWp : Nat → Nat → List (Nat × Nat) → Nat × List (Nat × Nat)
  | 0, wp, l => (wp, l)
  | fuel + 1, wp, l =>
    match l.find? fun e => e.1 ≤ wp with
    | none => (wp, l)
    | some e => advanceWp fuel (max wp (e.1 + e.2)) (l.erase e)

/-- Counted bytes of a ring have been delivered (R250). -/
def RingState.land (q : RingState) (lo len : Nat) : RingState :=
  let r := advanceWp (q.landed.length + 1) q.wp (q.landed ++ [(lo, len)])
  { q with wp := r.1, landed := r.2 }

/-- The pushes and the raise of a command at its completion, all in one cycle (R116, R293, R296). -/
def State.finishHdr (s : State) (h : CmdHdr) : State :=
  let e := ringEng s.ring
  let push : Side → State → State := fun d s => s.modG fun g => g.modFifo (pushFifo e d) fun f => f.push (.ready s.cyc)
  let s := if h.pushL then push .left s else s
  let s := if h.pushR then push .right s else s
  if h.re then s.semApply s.focus h.raise s.focus e (.add 1) else s

/-- The head command of the engine at work completes: its records are freed, a squashed command's bytes count as delivered, and its
pushes and its raise are made (R116, R244, R250, R261, R293, R333). -/
def State.finishHead (s : State) : State :=
  match s.rq.queue with
  | [] => s
  | cmd :: rest =>
    let s := if cmd.waited = 0 then s else s.cmdRecord cmd (s.cmdSetter cmd)
    let s := s.modG fun g => g.freeRecs s.ring cmd.recs
    let s := s.modRq fun q =>
      let q := { q with queue := rest, doneAt := s.cyc + 1 }
      if cmd.squashed then q.land cmd.first cmd.total else q
    let s := s.finishHdr (cmdHdr cmd.instr)
    s.modG fun g => g.perform (ringEng s.ring)

/-- Complete the head command of the engine at work, if it has done its work and its pushes find room (R246, R261, R293). -/
def State.completeCommand (s : State) : State := if s.cur.runs && s.headCompletes then s.finishHead else s

/-! ## Reading streams (R163, R166, R217, R224, R234) -/

/-- A byte that an engine reads at an address of a stream, through its record's translation (R213, R214, R242). A dropped
reference reads as zero. -/
def State.pieceByte (s : State) (ps : List Piece) (a : Word) : Byte :=
  match spaceOf a with
  | 0 => s.globalByte s.g.bank.pd a
  | _ =>
    match pieceKey ps a with
    | some key => readByte s.mem key
    | none => 0

/-- `n` bytes of a stream from an address up, little-endian. -/
def State.pieceLE (s : State) (ps : List Piece) (a : Word) : Nat → Nat
  | 0 => 0
  | n + 1 => (s.pieceByte ps a).toNat + 256 * State.pieceLE s ps (a + 1) n

/-- `w` bits of a stream from a bit of an address. -/
def State.pieceBits (s : State) (ps : List Piece) (a : Word) (off w : Nat) : Nat :=
  fld (s.pieceLE ps (a + BitVec.ofNat 64 (off / 8)) (elemBytes (off % 8) w)) (off % 8) w

/-- The code of the element at a sequence position. -/
def State.streamCode (s : State) (ps : List Piece) (a : Ag) (p : Nat) : Nat :=
  let pl := agPlace a p
  s.pieceBits ps pl.1 pl.2 (agBits a)

/-- The scale of an element of a row under SCM 1: the blocks that its bitmap marks; bit 0 reads as 1 (R166). -/
def State.bitmapBlock (s : State) (ps : List Piece) (a : Ag) (row e : Nat) : Nat :=
  ((List.range e).filter fun k => s.pieceBits ps (agBitmapArea a row) (k + 1) 1 = 1).length

/-- The value of an element's scale (R164, R166, R234); 1 where the stream has none. -/
def State.streamScale (s : State) (ps : List Piece) (a : Ag) (p : Nat) : Val :=
  let e := p % agCount a 0
  let row := agRowOf a p
  let area := agScaleArea a row
  match agScm a with
  | 0 => .ofInt 1
  | 1 => s9Val (s.pieceBits ps area (9 * s.bitmapBlock ps a row e) 9)
  | 2 => s9Val (s.pieceBits ps area (9 * (e / agBlk a)) 9)
  | _ => s9Val (s9OfE8m0 (s.pieceBits ps area (8 * (e / agBlk a)) 8))

/-- The memory key of an address of a stream, through its record's translation; none where no read is made (R217, R224, R242). -/
def State.pieceAt (s : State) (ps : List Piece) (a : Word) : Option Nat :=
  match spaceOf a with
  | 0 => if layoutOk a then some a.toNat else none
  | 3 => some (sramKey s.focus (a.toNat % 2 ^ 22))
  | _ => pieceKey ps a

/-- A read of `n` bytes of a stream at an address, through its record's translation. -/
structure StreamRead where
  ps : List Piece
  a : Word
  n : Nat
  deriving DecidableEq, Repr

/-- The addresses of a read's bytes. -/
def StreamRead.addrs (r : StreamRead) : List Word := (List.range r.n).map fun k => r.a + BitVec.ofNat 64 k

/-- The reads of a stream's elements, scales and bitmaps by a command, each area as one access (R214). -/
def footReads (o : OpRecord) (a : Ag) : List StreamRead := (agFoot a).map fun f => { ps := o.pieces, a := f.1, n := f.2 }

/-- The read of the element at a sequence position. -/
def elemRead (o : OpRecord) (a : Ag) (p : Nat) : StreamRead := { ps := o.pieces, a := (agElem a p).1, n := (agElem a p).2 }

/-- The keys of the bytes of some reads. -/
def State.readKeys (s : State) (l : List StreamRead) : List Nat := l.flatMap fun r => r.addrs.filterMap (s.pieceAt r.ps)

/-- The address of the first byte of some reads that lies in a poisoned word (R352, R354). -/
def State.readPoison (s : State) (l : List StreamRead) : Option Word :=
  if s.poison.isEmpty then none
  else l.findSome? fun r => r.addrs.find? fun a =>
    match s.pieceAt r.ps a with
    | some key => s.poisoned key 1
    | none => false

/-- Reads of the engine at work, each counted where it meets a quarter of another owner (R214). -/
def State.countAll (s : State) (l : List StreamRead) : State := l.foldl (fun s r => s.countRead s.g.bank.pd r.a r.n) s

/-- Do reads of the engine's command, unless one meets an uncorrectable error, which ends the row group (R214, R352, R354). -/
def State.reading (s : State) (cmd : Cmd) (l : List StreamRead) (act : State → State) : State :=
  match s.readPoison l with
  | some a => s.engineStop .softError cmd.hdrPc (a.toNat % 2 ^ 32)
  | none => act (s.countAll l)

/-! ## The times of reads (R91, R215, R419) -/

/-- The least time of a read by core `c` of a scratchpad of core `d` (R215). -/
def coreTime (c d : CoreId) : Nat :=
  if d = c then 6 else if clusterOf d = clusterOf c then 24 else if dieOf d = dieOf c then 48 else 160

/-- The least time of a read of a memory by core `c` (R215): the KV frames of level SRAM as far as their staging core is. -/
def keyTime (c : CoreId) (key : Nat) : Nat :=
  match key / spaceSize with
  | 0 => coreTime c (Fin.ofNat 512 (key / 4194304))
  | 1 => 330
  | 2 => 1800
  | _ => 3300

/-- A fixed time in cycles of core `c`: it counts fewer cycles on a die that swallows some (R419). -/
def State.fixedCount (s : State) (c : CoreId) (n : Nat) : Nat := n * (64 - s.rates[dieOf c]) / 64

/-- A least time in cycles of core `c`: a fixed time, or, within the die, a core count (R419). -/
def State.coreCount (s : State) (c : CoreId) (n : Nat) : Nat := if n ≤ 48 then n else s.fixedCount c n

/-- The least time of an engine's read at an address of a stream; a dropped reference takes none, and a KV frame's is a fixed time wherever
the frame lies (R215, R419). -/
def State.pieceTime (s : State) (ps : List Piece) (a : Word) : Nat :=
  match s.pieceAt ps a with
  | some key => (if spaceOf a = 2 then s.fixedCount else s.coreCount) s.focus (keyTime s.focus key)
  | none => 0

/-- The least time of some reads made together. -/
def State.readTime (s : State) (l : List StreamRead) : Nat := (l.map fun r => s.pieceTime r.ps r.a).foldl max 0

/-! ## Delivering bytes (R213, R214, R224, R250) -/

/-- Where a byte of a destination stream goes: none for a dropped reference, whose writes are discarded (R224). -/
def State.spot (s : State) (o : OpRecord) (base a : Word) : Option Spot :=
  match spaceOf a with
  | 0 => if layoutOk a then some { addr := a, dst := some (globalCore a), global := true, key := a.toNat, kv := none } else none
  | 3 => some { addr := a, dst := some s.focus, global := false, key := sramKey s.focus (a.toNat % 2 ^ 22), kv := none }
  | 2 =>
    if isResolved base then
      (pieceKey o.pieces a).map fun key =>
        { addr := pageForm s.g a, dst := none, global := false, key := key,
          kv := some (kvRow base, kvSlot base, Fin.ofNat 256 (kvGen base), (kvOff a + 64) / 64) }
    else none
  | _ => (pieceKey o.pieces a).map fun key => { addr := a, dst := none, global := false, key := key, kv := none }

/-- Runs of bytes for one port and one aligned 8-byte unit (R301); a byte with no place stands alone. -/
def cutSpots : List (Option Spot × Byte) → List (List (Option Spot × Byte))
  | [] => []
  | x :: rest =>
    match cutSpots rest, x.1 with
    | (y :: ys) :: more, some p =>
      (match y.1 with
       | some q => if p.dst = q.dst && p.key / 8 = q.key / 8 && p.kv.isSome = q.kv.isSome then (x :: y :: ys) :: more
          else [x] :: (y :: ys) :: more
       | none => [x] :: (y :: ys) :: more)
    | m, _ => [x] :: m

/-- The greatest high mark that a run of bytes brings to its slot. -/
def runKv (l : List (Option Spot × Byte)) : Option (Nat × Fin 256 × Fin 256 × Nat) :=
  l.foldl (fun acc x =>
    match acc, x.1.bind Spot.kv with
    | some a, some b => some (a.1, a.2.1, a.2.2.1, max a.2.2.2 b.2.2.2)
    | none, k => k
    | a, none => a) none

/-- Send counted bytes of a channel of core `c` to their places, from count `lo` on: each run is one message, and a run with no
place writes nothing and counts as delivered once its source read has returned (R224, R246, R250). -/
def State.sendRuns (s : State) (f : Flight) (r : Ring) : Nat → List (List (Option Spot × Byte)) → State
  | _, [] => s
  | lo, run :: rest =>
    let ps := run.filterMap Prod.fst
    let s := match ps with
      | [] =>
        if f.after ≤ (s.coreAt f.src).cycle then s.modGAt f.src fun g => g.modRing r fun q => q.land lo run.length
        else s.send { f with dst := none, global := false, lo := lo, len := run.length, addrs := [], kv := none, cargo := .bytes [] }
      | p :: _ =>
        s.send { f with
          dst := p.dst, global := p.global, lo := lo, len := run.length, addrs := ps.map Spot.addr, kv := runKv run
          cargo := .bytes (run.filterMap fun x => x.1.map fun p => (p.key, x.2)) }
    State.sendRuns s f r (lo + run.length) rest

/-- Deliver bytes at addresses of a destination stream of the engine at work, from count `lo` on: none sooner than its source read,
which takes `time` cycles, returns, and none below `skip`, where a restored command goes on (R246, R250, R358). -/
def State.deliver (s : State) (o : OpRecord) (base : Word) (lo skip time : Nat) (bytes : List (Word × Byte)) : State :=
  let f := { s.flightOf s.focus (ringPath s.ring) none (.bytes []) with after := s.cyc + time }
  s.sendRuns f s.ring (max lo skip) (cutSpots ((bytes.drop (skip - lo)).map fun b => (s.spot o base b.1, b.2)))

/-- The keys that a message is to write: those that its combining step returns a value to included (R247). -/
def Flight.keys (f : Flight) : List Nat :=
  match f.cargo with
  | .bytes cells => cells.map Prod.fst
  | .combine key n _ _ _ _ ret => (List.range n).map (key + ·) ++ ret.filterMap fun x => x.map Spot.key
  | .cas key n _ _ ret => (List.range n).map (key + ·) ++ ret.filterMap fun x => x.map Spot.key
  | _ => []

/-- The keys to which a message's combining step is to return a value (R247). -/
def Flight.returnKeys (f : Flight) : List Nat :=
  match f.cargo with
  | .combine _ _ _ _ _ _ ret | .cas _ _ _ _ ret => ret.filterMap fun x => x.map Spot.key
  | _ => []

/-- May a unit of a channel's command be made that reads and writes some keys: no earlier command of the channel has bytes under way
to what it reads, or a value to be returned to what it writes (R246). -/
def State.unitClear (s : State) (cmd : Cmd) (reads writes : List Nat) : Bool :=
  s.net.all fun f => !(s.ownFlight s.focus f && f.path = ringPath s.ring && f.lo < cmd.first) ||
    !((f.keys.any reads.contains) || f.returnKeys.any writes.contains)

/-- Bytes of a number at successive addresses. -/
def addrBytes (a : Word) (n v : Nat) : List (Word × Byte) :=
  ((List.range n).zip (leBytes n v)).map fun e => (a + BitVec.ofNat 64 e.1, e.2)

/-- Write the bits of a local element at its port (R276): the other bits of the bytes it touches stay. -/
def State.putLocal (s : State) (o : OpRecord) (a : Ag) (p code : Nat) : State :=
  let pl := agPlace a p
  let w := agBits a
  let n := elemBytes pl.2 w
  let old := s.pieceLE o.pieces pl.1 n
  let new := old - fld old pl.2 w * 2 ^ pl.2 + code % 2 ^ w * 2 ^ pl.2
  let cells := (addrBytes pl.1 n new).filterMap fun b => (s.spot o (agBase a) b.1).map fun x => (x.key, b.2)
  s.portWrite s.focus (spaceOf (agBase a) = 0) s.g.bank.pd cells

end Sys2Proof.Machine
end

