-- ==== Sys2Proof/Machine/Copy.lean ====
section
/-! DEFINITION. The copy channels (10): the copy commands (R245, R246), the combining commands with their steps at the destination
port (R247, R251), CSIG (R248). A channel starts one element, or one byte-sized bundle of narrow elements, in each turn; its bytes leave once
the source read has returned. -/

namespace Sys2Proof.Machine

/-! ## Units -/

/-- The units of a stream. -/
def agUnits (a : Ag) : Nat := agTotal a / bundle (agBits a)

/-- The bits of a bundle of elements from a sequence position up. -/
def State.bundleBits (s : State) (ps : List Piece) (a : Ag) (p : Nat) : Nat :=
  let w := agBits a
  (List.range (bundle w)).foldr (fun k acc => s.streamCode ps a (p + k) + acc * 2 ^ w) 0

/-- The bytes of a bundle of a destination stream at their addresses. -/
def bundleBytes (a : Ag) (p v : Nat) : List (Word × Byte) := addrBytes (agPlace a p).1 (bundle (agBits a) * agBits a / 8) v

/-- Where the counts of a unit begin within its command, with the rows that have ended before it (R250). -/
def unitCount (d : Ag) (per n : Nat) : Nat :=
  n * (bundle (agBits d) * agBits d / 8) + n * bundle (agBits d) / per * agSideBytes d

/-- The scale area of a destination row, from that of a source row (R246): S9 scales made of E8M0 where the modes differ. -/
def State.sideScales (s : State) (ps : List Piece) (a d : Ag) (row : Nat) : Nat :=
  if agScm a = 3 && agScm d = 2 then
    let n := (agCount a 0 + agBlk a - 1) / agBlk a
    (List.range n).foldr (fun k acc => s9OfE8m0 (s.pieceBits ps (agScaleArea a row) (8 * k) 8) + acc * 512) 0
  else s.pieceLE ps (agScaleArea a row) (agScaleBytes d)

/-- A row's bitmap and scale area, delivered after the row's elements (R246). -/
def State.sideBytes (s : State) (ps : List Piece) (a d : Ag) (srow drow : Nat) : List (Word × Byte) :=
  if agScm d = 0 then []
  else addrBytes (agBitmapArea d drow) (agBitmapBytes d) (s.pieceLE ps (agBitmapArea a srow) (agBitmapBytes d))
    ++ addrBytes (agScaleArea d drow) (agScaleBytes d) (s.sideScales ps a d srow)

/-! ## COPY, GATHER, SCATTER, FILL (R246) -/

/-- The bytes that one unit of a stream takes from `p` on, with the row's bitmap and scale area where it ends a row of `per` elements. -/
def unitRanges (a : Ag) (p row : Nat) (ends : Bool) : List (Word × Nat) :=
  ((agPlace a p).1, bundle (agBits a) * agBits a / 8) ::
    (if ends && agScm a != 0 then [(agBitmapArea a row, agBitmapBytes a), (agScaleArea a row, agScaleBytes a)] else [])

/-- What a channel does in one unit: what it reads, the keys that it writes, and its effect, given the time of its reads. -/
structure ChannelUnit where
  reads : List StreamRead
  writes : List Nat
  act : State → Nat → State

/-- The keys of the bytes of some ranges of a stream. -/
def State.rangeKeys (s : State) (o : OpRecord) (l : List (Word × Nat)) : List Nat :=
  s.readKeys (l.map fun r => { ps := o.pieces, a := r.1, n := r.2 })

/-- The unit of a copy: the source bundle at `sp` goes to the destination bundle at `dp`; where it ends a row of `per` elements, the
row's bitmap and scales follow. -/
def State.copyUnit (s : State) (cmd : Cmd) (o : OpRecord) (a d : Ag) (sp dp per : Nat) (index : List StreamRead) (keep : State → State) : ChannelUnit :=
  let ends := decide ((dp + bundle (agBits d)) % per = 0)
  let srow := agRowOf a sp
  let drow := agRowOf d dp
  { reads := index ++ (unitRanges a sp srow ends).map fun r => { ps := o.pieces, a := r.1, n := r.2 }
    writes := s.rangeKeys o (unitRanges d dp drow ends)
    act := fun s time =>
      let body := bundleBytes d dp (s.bundleBits o.pieces a sp)
      let side := if ends then s.sideBytes o.pieces a d srow drow else []
      (keep s).deliver o (agBase d) (cmd.first + unitCount d per cmd.progress) cmd.skip time (body ++ side) }

/-- The work of a channel's command by its units: a unit waits while an earlier command's bytes that meet it are under way (R246). -/
def channelWork (plan : State → Plan) (unit : State → Cmd → Option ChannelUnit) : Work :=
  { plan := plan
    ready := fun s cmd => (unit s cmd).all fun u => s.unitClear cmd (s.readKeys u.reads) u.writes
    eff := fun s cmd =>
      match unit s cmd with
      | none => s
      | some u => s.reading cmd u.reads fun t => u.act t (s.readTime u.reads) }

/-- The units of a command whose first operand word names streams, counted on its destination. -/
def State.dstUnits (s : State) (args : List Lane) : Nat := (((s.rec? args 0).bind OpRecord.dst).map agUnits).getD 0

/-- The units of a command, counted on its source. -/
def State.srcUnits (s : State) (args : List Lane) : Nat := (((s.rec? args 0).bind OpRecord.src).map agUnits).getD 0

/-- The record of a command's first operand word with its two streams. -/
def State.streams (s : State) (args : List Lane) : Option (OpRecord × Ag × Ag) :=
  (s.rec? args 0).bind fun o =>
    match o.src, o.dst with
    | some a, some d => some (o, a, d)
    | _, _ => none

/-- CNOP (R245): only its header acts. -/
def execCnop (h : CmdHdr) (s : State) : Host.Outcome State Fault Refusal :=
  command (.cnop h) s { plan := fun _ => unitsOnly 0, eff := fun s _ => s }

/-- COPY (R246). -/
def execCopy (h : CmdHdr) (a0 : Lane) (s : State) : Host.Outcome State Fault Refusal :=
  command (.copy h a0) s (channelWork (fun s => unitsOnly (s.dstUnits [a0])) fun s cmd =>
    (s.streams [a0]).map fun (o, a, d) =>
      let p := cmd.progress * bundle (agBits d)
      s.copyUnit cmd o a d p p (agCount d 0) [] id)

/-- The state with the row that an index chose kept for the command with this header (R246). -/
def State.keepRow (s : State) (cmd : Cmd) (r : Nat) : State :=
  s.modRq fun q => { q with queue := q.queue.map fun x => if x.hdrPc = cmd.hdrPc then { x with row := some r } else x }

/-- The row that a GATHER or SCATTER works on, of `rows`, with the read that it makes for it: chosen by the `q`-th index element at
the row's first unit and then kept; a restored command reads it again (R246, R358). -/
def State.indexRow (s : State) (args : List Lane) (cmd : Cmd) (q first rows : Nat) : Nat × List StreamRead :=
  match (if first = 0 then none else cmd.row), s.rec? args 1 with
  | some r, _ => (r, [])
  | none, some o =>
    (match o.src with
     | some x => (s.streamCode o.pieces x q % rows, [elemRead o x q])
     | none => (0, []))
  | none, none => (0, [])

/-- GATHER (R246). -/
def execGather (h : CmdHdr) (a0 a1 : Lane) (s : State) : Host.Outcome State Fault Refusal :=
  command (.gather h a0 a1) s (channelWork (fun s => unitsOnly (s.dstUnits [a0])) fun s cmd =>
    (s.streams [a0]).map fun (o, a, d) =>
      let p := cmd.progress * bundle (agBits d)
      let c := agCount a 0
      let u := s.indexRow [a0, a1] cmd (p / c) (p % c) (agTotal a / c)
      s.copyUnit cmd o a d (u.1 * c + p % c) p c u.2 fun s => s.keepRow cmd u.1)

/-- SCATTER (R246): counted in the order of delivery. -/
def execScatter (h : CmdHdr) (a0 a1 : Lane) (s : State) : Host.Outcome State Fault Refusal :=
  command (.scatter h a0 a1) s (channelWork (fun s => unitsOnly (s.srcUnits [a0])) fun s cmd =>
    (s.streams [a0]).map fun (o, a, d) =>
      let p := cmd.progress * bundle (agBits d)
      let c := agCount d 0
      let u := s.indexRow [a0, a1] cmd (p / c) (p % c) (agTotal d / c)
      s.copyUnit cmd o a d p (u.1 * c + p % c) c u.2 fun s => s.keepRow cmd u.1)

/-- The pattern of a FILL in an element (R246). -/
def fillCode (w pattern : Nat) : Nat := if w ≤ 32 then pattern % 2 ^ w else pattern + pattern * 2 ^ 32

/-- FILL (R246). -/
def execFill (h : CmdHdr) (a0 a1 : Lane) (s : State) : Host.Outcome State Fault Refusal :=
  command (.fill h a0 a1) s (channelWork (fun s => unitsOnly (s.dstUnits [a0])) fun s cmd =>
    (s.rec? [a0] 0).bind fun o => o.dst.map fun d =>
      let w := agBits d
      let p := cmd.progress * bundle w
      let v := (List.range (bundle w)).foldl (fun acc _ => acc * 2 ^ w + fillCode w a1.toNat) 0
      { reads := []
        writes := s.rangeKeys o (unitRanges d p 0 false)
        act := fun s time =>
          s.deliver o (agBase d) (cmd.first + unitCount d (agCount d 0) cmd.progress) cmd.skip time (bundleBytes d p v) })

/-! ## ACCW, FETCHOP, CAS (R247, R251) -/

/-- The type of a combining TYPE code (R247). -/
def combineType (ty : Nat) : NumTy :=
  match ty with
  | 0 => .int true 32
  | 1 => .int false 32
  | 2 => .flt .f32
  | 3 => .int true 16
  | 4 => .int false 16
  | 5 => .flt .bf16
  | 6 => .flt .f16
  | 7 => .int true 8
  | 8 => .int false 8
  | 9 => .int true 64
  | _ => .int false 64

/-- Combine (R247): the new value of the element and the flags. -/
def combineValue (ty op : Nat) (sat : Bool) (d v : Nat) : Nat × Flags :=
  let t := combineType ty
  let w := 8 * (combineWidth ty / 8)
  let x := decodeNum t false d
  let y := decodeNum t false v
  let ctl : NumCtl := { NumCtl.plain with mod := { OpMod.plain with sat := sat } }
  let pick : Bool → Nat × Flags := fun less => (if less then d else v, Flg.none)
  let minmax : (Val → Val → Val) → Nat × Flags := fun f =>
    let r := finishNum ctl t.isFlt t (f x y)
    (r.1, r.2 ||| flagIf (x.isSig || y.isSig) Flg.iv)
  match op with
  | 0 =>
    let r := finishNum ctl t.isFlt t (Val.add .rne x y)
    (r.1, r.2 ||| flagIf (t.isFlt && addInvalid x y) Flg.iv)
  | 1 => if t.isFlt then minmax Val.minNum else pick (valInt x < valInt y)
  | 2 => if t.isFlt then minmax Val.maxNum else pick (valInt y < valInt x)
  | 3 => (d &&& v, Flg.none)
  | 4 => (d ||| v, Flg.none)
  | 5 => (d ^^^ v, Flg.none)
  | _ => (v % 2 ^ w, Flg.none)

/-- The cycle before which no step of a combining command that is made now is sent: its steps leave in order, each once its source read
has returned (R246, R250). -/
def State.stepAfter (s : State) (opRec : Option (Fin 64)) (time : Nat) : Nat :=
  (s.net.filter fun f => s.ownFlight s.focus f && f.path = ringPath s.ring && f.isStep && f.opRec = opRec).foldl (fun n f => max n f.after)
    (s.cyc + time)

/-- A combining step sent to the port of an element of the destination, once its source read has returned (R246, R251). -/
def State.sendStep (s : State) (o : OpRecord) (d : Ag) (p : Nat) (opRec : Option (Fin 64)) (lo len time : Nat) (cargo : Nat → Cargo) :
    State :=
  let a := (agPlace d p).1
  match s.spot o (agBase d) a with
  | none => s
  | some x =>
    s.send { s.flightOf s.focus (ringPath s.ring) x.dst (cargo x.key) with
      global := x.global, lo := lo, len := len, after := s.stepAfter opRec time, opRec := opRec, stepNo := p
      addrs := (List.range (agBits d / 8)).map fun k => x.addr + BitVec.ofNat 64 k }

/-- The places of a return element's bytes. -/
def State.returnSpots (s : State) (o : OpRecord) (r : Ag) (p : Nat) : List (Option Spot) :=
  let a := (agPlace r p).1
  (List.range (agBits r / 8)).map fun k => s.spot o (agBase r) (a + BitVec.ofNat 64 k)

/-- The unit of a combining command: element `p` of the destination takes a step with the source elements from `sp` on, and its old
value comes back to the return stream, where there is one (R247). -/
def State.stepUnit (s : State) (cmd : Cmd) (o : OpRecord) (a d : Ag) (sps : List Nat) (ret : Option (OpRecord × Ag))
    (cargo : State → List (Option Spot) → Nat → Cargo) : ChannelUnit :=
  let p := cmd.progress
  let n := agBits d / 8
  let back : State → List (Option Spot) := fun s => (ret.map fun r => s.returnSpots r.1 r.2 p).getD []
  { reads := sps.map (elemRead o a)
    writes := s.rangeKeys o [agElem d p] ++ (back s).filterMap fun x => x.map Spot.key
    act := fun s time => s.sendStep o d p cmd.recs.head? (cmd.first + p * n) n time (cargo s (back s)) }

/-- The record and stream to which a FETCHOP or CAS returns values. -/
def State.returnStream (s : State) (args : List Lane) : Option (OpRecord × Ag) := (s.rec? args 1).bind fun o => o.dst.map fun r => (o, r)

/-- The cargo of a combining step of a record's OPT with the source element at `p` (R247). -/
def combineCargo (o : OpRecord) (a d : Ag) (p : Nat) (s : State) (ret : List (Option Spot)) (key : Nat) : Cargo :=
  let opt := o.opt.toNat
  .combine key (agBits d / 8) (fld opt 0 4) (fld opt 4 3) (bit opt 7) (BitVec.ofNat 64 (s.streamCode o.pieces a p)) ret

/-- ACCW (R247). -/
def execAccw (h : CmdHdr) (a0 : Lane) (s : State) : Host.Outcome State Fault Refusal :=
  command (.accw h a0) s (channelWork (fun s => unitsOnly (s.dstUnits [a0])) fun s cmd =>
    (s.streams [a0]).map fun (o, a, d) => s.stepUnit cmd o a d [cmd.progress] none (combineCargo o a d cmd.progress))

/-- FETCHOP (R247): the old values come back to the return stream. -/
def execFetchop (h : CmdHdr) (a0 a1 : Lane) (s : State) : Host.Outcome State Fault Refusal :=
  command (.fetchop h a0 a1) s (channelWork (fun s => unitsOnly (s.dstUnits [a0])) fun s cmd =>
    (s.streams [a0]).map fun (o, a, d) =>
      s.stepUnit cmd o a d [cmd.progress] (s.returnStream [a0, a1]) (combineCargo o a d cmd.progress))

/-- CAS (R247). -/
def execCas (h : CmdHdr) (a0 a1 : Lane) (s : State) : Host.Outcome State Fault Refusal :=
  command (.cas h a0 a1) s (channelWork (fun s => unitsOnly (s.dstUnits [a0])) fun s cmd =>
    (s.streams [a0]).map fun (o, a, d) =>
      let p := 2 * cmd.progress
      s.stepUnit cmd o a d [p, p + 1] (s.returnStream [a0, a1]) fun s ret key =>
        .cas key (agBits d / 8) (BitVec.ofNat 64 (s.streamCode o.pieces a p)) (BitVec.ofNat 64 (s.streamCode o.pieces a (p + 1))) ret)

/-- CSIG (R248). -/
def execCsig (h : CmdHdr) (a0 : Lane) (s : State) : Host.Outcome State Fault Refusal :=
  command (.csig h a0) s { plan := fun _ => unitsOnly 1, eff := fun s cmd => s.sigAdd a0 cmd }

end Sys2Proof.Machine
end

