-- ==== Sys2Proof/Machine/Sync.lean ====
section
/-! DEFINITION. Class 6 words: semaphores, tokens, fences, acquires and releases (R290 to R300), SDRAIN (R351), ABALLOC and ABFREE
(R258, R259), and the row's random stream (R325 to R328). -/

namespace Sys2Proof.Machine

/-! ## Semaphores -/

/-- A semaphore of the core in focus. -/
def State.localName (s : State) (n : Fin 64) : SemName := { core := s.focus, num := n, span := false }

/-- SEMSIG: a release for XST on the XS, and for no path on the AS (R290, R296). -/
def State.semSig (s : State) (o : SemName) (v : BitVec 32) : State :=
  s.release s.focus o s.side.eng (match s.side with
    | .xs => 1
    | .as => 0) (.add v)

/-- SEMSET: ordered only behind the same issuer's earlier updates (R285, R290). -/
def State.semSet (s : State) (o : SemName) (v : BitVec 32) : State := s.release s.focus o s.side.eng 0 (.set v)

/-- An effect on the semaphore that a sync-object register names (R286). -/
def State.onName (s : State) (b : RegNum) (f : State → SemName → State) : State :=
  match s.syncName s.focus (s.seq.getX b) with
  | some o => f s o
  | none => s

/-- SEMWAIT (R290): the wait is all that it does. -/
def execSemwait (t : RegNum) (n : Fin 64) (s : State) : Host.Outcome State Fault Refusal := issue (.semwait t n) s fun s => s

/-- SEMWAITB (R290). -/
def execSemwaitb (t : RegNum) (n : Fin 64) (s : State) : Host.Outcome State Fault Refusal := issue (.semwaitb t n) s fun s => s

/-- SEMSIG of a local semaphore (R290). -/
def execSemsigLocal (a : RegNum) (n : Fin 64) (s : State) : Host.Outcome State Fault Refusal :=
  issue (.semsigLocal a n) s fun s => s.semSig (s.localName n) ((s.seq.getX a).setWidth 32)

/-- SEMSIG of a named semaphore (R290). -/
def execSemsigRemote (a b : RegNum) (s : State) : Host.Outcome State Fault Refusal :=
  issue (.semsigRemote a b) s fun s => s.onName b fun s o => s.semSig o ((s.seq.getX a).setWidth 32)

/-- SEMSET of a local semaphore (R290). -/
def execSemsetLocal (a : RegNum) (n : Fin 64) (s : State) : Host.Outcome State Fault Refusal :=
  issue (.semsetLocal a n) s fun s => s.semSet (s.localName n) ((s.seq.getX a).setWidth 32)

/-- SEMSET of a named semaphore (R290). -/
def execSemsetRemote (a b : RegNum) (s : State) : Host.Outcome State Fault Refusal :=
  issue (.semsetRemote a b) s fun s => s.onName b fun s o => s.semSet o ((s.seq.getX a).setWidth 32)

/-- SEMRD of a local semaphore (R290), with latency 1. -/
def execSemrdLocal (d : RegNum) (n : Fin 64) (s : State) : Host.Outcome State Fault Refusal :=
  issue (.semrdLocal d n) s fun s => s.xResult 1 d ((s.localSem n).setWidth 64) Flg.none

/-- SEMRD of a named semaphore (R290): the value sampled at the home, or a local one where the name is this core's. -/
def execSemrdRemote (d b : RegNum) (s : State) : Host.Outcome State Fault Refusal :=
  issue (.semrdRemote d b) s fun s => s.onName b fun s o =>
    if o.isLocal s.focus then s.xResult 1 d ((s.localSem o.num).setWidth 64) Flg.none
    else
      let v : BitVec 32 := match s.seq.remote with
        | .answered v => v
        | _ => 0
      let r := s.loggedRead s.focus (v.setWidth 64)
      (r.1.modSeq fun q => { q with remote := .idle }).xResult 1 d r.2 Flg.none

/-! ## Tokens -/

/-- TOKPOP (R292). -/
def execTokpop (d : Side) (s : State) : Host.Outcome State Fault Refusal :=
  issue (.tokpop d) s fun s => s.modG fun g => g.modFifo (popFifo .xs d) fun f => f.pop s.cyc

/-- TOKPUSH (R292): a place is reserved until the stores issued before are performed. -/
def execTokpush (d : Side) (s : State) : Host.Outcome State Fault Refusal :=
  issue (.tokpush d) s fun s => s.modG fun g => g.modFifo (pushFifo .xs d) fun f => f.push (.reserved g.storeNo)

/-! ## Fences, acquires, releases -/

/-- FENCE (R300): one whose AFTER names only engine paths holds back their later commands. -/
def execFence (b a : BitVec 9) (s : State) : Host.Outcome State Fault Refusal :=
  issue (.fence b a) s fun s =>
    if fenceStops s.side a then s
    else s.modG fun g => { g with fences := g.fences ++ [{ before := s.beforeNow s.focus b, after := a }] }

/-- ACQ (R298): the wait is all that it does. -/
def execAcq (m : BitVec 9) (t b : RegNum) (s : State) : Host.Outcome State Fault Refusal :=
  issue (.acq m t b) s fun s => s.modSeq fun q => { q with remote := .idle }

/-- REL (R298). -/
def execRel (m : BitVec 9) (a b : RegNum) (s : State) : Host.Outcome State Fault Refusal :=
  issue (.rel m a b) s fun s => s.onName b fun s o => s.release s.focus o s.side.eng m (.add ((s.seq.getX a).setWidth 32))

/-- BIND (R299). -/
def execBind (k : Fin 32) (a : RegNum) (s : State) : Host.Outcome State Fault Refusal :=
  issue (.bind k a) s fun s => s.onName a fun s o => s.modG fun g => { g with binds := Tab.set none g.binds k.val (some o) }

/-- SDRAIN (R351): the hold is all that it does. -/
def execSdrain (s : State) : Host.Outcome State Fault Refusal := issue .sdrain s fun s => s

/-! ## Banks (R258, R259) -/

/-- The least run of `n` free banks (R258). -/
def freeRun (g : Group) (n : Nat) : Option Nat :=
  (List.range (513 - n)).find? fun b => (List.range n).all fun k => (Tab.get Bank.free g.banks (b + k)).status = .free

/-- The group with a range of banks given a content: every element zero. -/
def Group.setBanks (g : Group) (b n : Nat) (x : Bank) : Group :=
  { g with
    banks := (List.range n).foldl (fun t k => Tab.set Bank.free t (b + k) x) g.banks
    acc := g.acc.filter fun e => e.1 < b * 128 || (b + n) * 128 ≤ e.1 }

/-- A bank as ABALLOC and MZERO leave it (R256, R258, R269). -/
def Bank.zeroed : Bank := { status := .redundant 0, tile := TileState.zero, written := false, lent := false }

/-- ABALLOC (R258), with latency 1. -/
def execAballoc (d : RegNum) (n : BitVec 9) (s : State) : Host.Outcome State Fault Refusal :=
  issue (.aballoc d n) s fun s =>
    let n := n.toNat + 1
    match (if s.g.desc.banks < s.g.held + n then none else freeRun s.g n) with
    | none => s.xResult 1 d 0xFFFFFFFFFFFFFFFF#64 Flg.none
    | some b =>
      (s.modG fun g => { g.setBanks b n Bank.zeroed with held := g.held + n }).xResult 1 d (BitVec.ofNat 64 b) Flg.none

/-- ABFREE (R259): a bank of the range that is FREE or does not exist terminates the row group. -/
def execAbfree (a : RegNum) (n : BitVec 9) (s : State) : Host.Outcome State Fault Refusal :=
  issue (.abfree a n) s fun s =>
    let b := (s.seq.getX a).toNat
    let n := n.toNat + 1
    match s.abfreeBad b n with
    | some k =>
      s.countIssued.terminate s.focus
        (termRecord Cause.bankState.code .xs s.g.handler.isSome s.seq.grpStart (BitVec.ofNat 32 k))
    | none => s.modG fun g => { g.setBanks b n Bank.free with held := g.held - n }

/-! ## The random stream (R325 to R328) -/

/-- A rotation left of a 64-bit word. -/
def rotl64 (w : Word) (n : Nat) : Word := (w <<< n) ||| (w >>> (64 - n))

/-- Step (R325). -/
def RngState.step (s : RngState) : RngState :=
  let t := s.s1 <<< 17
  let s2 := s.s2 ^^^ s.s0
  let s3 := s.s3 ^^^ s.s1
  { s0 := s.s0 ^^^ s3, s1 := s.s1 ^^^ s2, s2 := s2 ^^^ t, s3 := rotl64 s3 45 }

/-- Draw (R325). -/
def RngState.draw (s : RngState) : Word := rotl64 (s.s1 * 5) 7 * 9

/-- A stream's state as one number of 256 bits. -/
def RngState.toBits (s : RngState) : Nat :=
  s.s0.toNat + s.s1.toNat * 2 ^ 64 + s.s2.toNat * 2 ^ 128 + s.s3.toNat * 2 ^ 192

/-- A stream's state from its 256 bits. -/
def RngState.ofBits (n : Nat) : RngState :=
  { s0 := BitVec.ofNat 64 n, s1 := BitVec.ofNat 64 (n / 2 ^ 64), s2 := BitVec.ofNat 64 (n / 2 ^ 128)
    s3 := BitVec.ofNat 64 (n / 2 ^ 192) }

/-- A matrix over GF(2), as its columns. -/
abbrev Gf2 := List Nat

/-- A matrix times a vector. -/
def Gf2.apply : Gf2 → Nat → Nat
  | [], _ => 0
  | c :: rest, v => (if v % 2 = 1 then c else 0) ^^^ Gf2.apply rest (v / 2)

/-- The square of a matrix. -/
def Gf2.square (m : Gf2) : Gf2 := m.map m.apply

/-- The matrix of Step (R327). -/
def stepMatrix : Gf2 := (List.range 256).map fun k => (RngState.ofBits (2 ^ k)).step.toBits

/-- `n` steps: J_k for each set bit k of n, k rising (R327). -/
def skipBits : Nat → Gf2 → Nat → Nat → Nat
  | 0, _, _, v => v
  | fuel + 1, m, n, v => if n = 0 then v else skipBits fuel m.square (n / 2) (if n % 2 = 1 then m.apply v else v)

/-- The stream of a row as every earlier word left it: a pending write's, the latest, or the record's (R328). -/
def State.streamOf (s : State) (row : Nat) : RngState × Word :=
  match (s.seq.pend.filter fun p => p.rngRow = some row).getLast? with
  | some { dest := .rng _ st n, .. } => (st, n)
  | _ => (s.rowRng s.focus row, s.rowCount64 s.focus row)

/-- A poisoned byte of a row's RNGSTATE and RNGCOUNT, where a word reads them from the record: no earlier word's write is pending (R328,
R354). -/
def State.rngPoison (s : State) (row : Nat) : Option Word :=
  if s.seq.pend.any fun p => p.rngRow = some row then none
  else (s.poisonAt (s.rowKey s.focus row 32) 40).map fun k => aliasAddr (k % 4194304)

/-- A word that reads a row's stream: an uncorrectable error in the row record ends the row group (R354). -/
def State.readStream (s : State) (row : Nat) (act : RngState × Word → State) : State :=
  match s.rngPoison row with
  | some bad => s.softError .xs s.seq.grpStart bad
  | none => act (s.streamOf row)

/-- One draw from a row's stream (R326). -/
def State.drawWord (s : State) (d row : RegNum) (f : Word → Word) : State :=
  let r := (s.seq.getX row).toNat
  s.readStream r fun st =>
    (s.xResult 4 d (f st.1.draw) Flg.none).result 4 (.rng r st.1.step (st.2 + 1)) 0 Flg.none

/-- RNGDRAW.RAW (R326). -/
def execRngdrawRaw (d a : RegNum) (s : State) : Host.Outcome State Fault Refusal :=
  issue (.rngdrawRaw d a) s fun s => s.drawWord d a fun v => v

/-- RNGDRAW.UNIT (R326): the f32 of (v >> 40) × 2^−24, which is exact. -/
def execRngdrawUnit (d a : RegNum) (s : State) : Host.Outcome State Fault Refusal :=
  issue (.rngdrawUnit d a) s fun s => s.drawWord d a fun v =>
    BitVec.ofNat 64 (floatFinish NumCtl.plain .f32 (.fin false (v.toNat / 2 ^ 40) (-24) false)).1

/-- RNGSKIP (R327). -/
def execRngskip (a b : RegNum) (s : State) : Host.Outcome State Fault Refusal :=
  issue (.rngskip a b) s fun s =>
    let r := (s.seq.getX a).toNat
    let n := s.seq.getX b
    if n = 0 then s
    else
      s.readStream r fun st =>
      s.result 8 (.rng r (RngState.ofBits (skipBits 64 stepMatrix n.toNat st.1.toBits)) (st.2 + n)) 0 Flg.none

end Sys2Proof.Machine
end

