-- ==== Sys2Proof/Machine/Matrix.lean ====
section
/-! DEFINITION. The matrix engine (11): products and sums in accumulator memory (R172 to R177, R265 to R267), its housekeeping
commands (R269 to R272), resolving and comparing (R273, R274), the epilogue and its heaps (R275 to R278), MNOP and MSIG (R279),
and migration (R280, R281). A command does one step of its work in each turn of the engine (R282). -/

namespace Sys2Proof.Machine

/-! ## Elements (R172 to R176, R256) -/

/-- The sum word of an element. -/
def accS (e : AccElem) : BitVec 64 := e.extractLsb' 0 64

/-- Twice the carry word of an element. -/
def accC2 (e : AccElem) : BitVec 64 := (e.extractLsb' 64 63 ++ 0#1)

/-- The discard sticky of an element. -/
def accD (e : AccElem) : Bool := e.getLsbD 127

/-- An element from its parts; the carry vector's bit 0 is dropped. -/
def accOf (d : Bool) (carry sum : BitVec 64) : AccElem := BitVec.ofBool d ++ (carry.extractLsb' 1 63 ++ sum)

/-- CarrySaveAdd (R174). -/
def carrySaveAdd (e : AccElem) (q : BitVec 64) : AccElem :=
  let c2 := accC2 e
  let k := ((accS e &&& c2) ||| (accS e &&& q) ||| (c2 &&& q)) <<< 1
  accOf (accD e) k (accS e ^^^ c2 ^^^ q)

/-- The value of an element in window units: (S + 2C) mod 2^64, signed (R172). -/
def accValue (e : AccElem) : Int := (accS e + accC2 e).toInt

/-- The element with its discard sticky set. -/
def stick (e : AccElem) : AccElem := e ||| (1#128 <<< 127)

/-- The window units of a product, and whether it has bits below the anchor (R174). -/
def windowUnits (anchor : Int) (v : Val) : Int × Bool :=
  match v with
  | .fin n m e _ =>
    let k := e - anchor
    let i := Val.signed n m
    (scaleInt i k, k < 0 && i % 2 ^ (-k).toNat != 0)
  | _ => (0, false)

/-- AddProduct of R174 on valid operands: the element, and whether the product was saturated. -/
def addProduct (anchor : Int) (acc : AccElem × Bool) (ab : Val × Val) : AccElem × Bool :=
  let u := windowUnits anchor (Val.mul ab.1 ab.2)
  let e := if u.2 then stick acc.1 else acc.1
  let top : Int := 2 ^ 47 - 1
  let q := if top < u.1 then top else if u.1 < -(2 ^ 47) then -(2 ^ 47) else u.1
  (carrySaveAdd e (BitVec.ofInt 64 q), acc.2 || q != u.1)

/-- The key of element x of a tile in the accumulator (R256). -/
def accKey (lead x : Nat) : Nat := lead * 128 + x

/-- An element of the accumulator. -/
def Group.accAt (g : Group) (key : Nat) : AccElem := Tab.get 0 g.acc key

/-- The group with elements of the accumulator written. -/
def Group.putAcc (g : Group) (l : List (Nat × AccElem)) : Group :=
  { g with acc := l.foldl (fun a e => Tab.set 0 a e.1 e.2) g.acc }

/-- A bank (R255). -/
def Group.bankAt (g : Group) (k : Nat) : Bank := Tab.get Bank.free g.banks k

/-- The group with a bank changed. -/
def Group.modBank (g : Group) (k : Nat) (f : Bank → Bank) : Group := { g with banks := Tab.set Bank.free g.banks k (f (g.bankAt k)) }

/-- The group with each of `n` banks from `b` changed. -/
def Group.modBanks (g : Group) (b n : Nat) (f : Bank → Bank) : Group :=
  (List.range n).foldl (fun g k => g.modBank (b + k) f) g

/-- The OR of two tile states' marks (R271). -/
def TileState.orMarks (d s : TileState) : TileState :=
  { d with rowInv := d.rowInv ||| s.rowInv, colInv := d.colInv ||| s.colInv, aovf := d.aovf || s.aovf }

/-- The destination's tile state after ACCADD (R271). -/
def TileState.added (d s : TileState) : TileState :=
  let t := d.orMarks s
  if d.aset then t else { t with anchor := s.anchor, aset := s.aset }

/-- Do two tiles have anchors that differ (R271). -/
def anchorsClash (d s : TileState) : Bool := d.aset && s.aset && d.anchor != s.anchor

/-- Is a tile fresh (R256). -/
def Group.fresh? (g : Group) (lead rows : Nat) : Bool := (List.range (tileBanks rows)).all fun k => !(g.bankAt (lead + k)).written

/-! ## Statuses at start (R257, R262) -/

/-- What a command accepts of a bank (R257). -/
inductive Accepts where
  | redundant | held
  deriving DecidableEq, Repr

/-- Is a bank in a state that a command accepts. -/
def bankFits (a : Accepts) (b : Bank) : Bool :=
  match a, b.status with
  | _, .free => false
  | _, .redundant _ => true
  | .redundant, .canonical _ => false
  | .held, .canonical _ => true

/-- The BANK_STATE of the first of `n` banks from `b` that a command does not accept. -/
def Group.bankFault (g : Group) (a : Accepts) (b n : Nat) : Option (Cause × Nat) :=
  (((List.range n).map (b + ·)).find? fun k => !bankFits a (g.bankAt k)).map fun k => (.bankState, k)

/-! ## MMA and MMAR (R265 to R268) -/

/-- An operand element: its value times its scale, or none where it is invalid (R166, R174). -/
def State.operandElem (s : State) (o : OpRecord) (a : Ag) (t : NumTy) (neg : Bool) (p : Nat) : Option Val :=
  let v := decodeNum t false (s.streamCode o.pieces a p)
  let sc := s.streamScale o.pieces a p
  if v.isSpecial || sc.isNan then none else some (Val.mul (if neg then v.neg else v) sc)

/-- The elements with indices `k0` to `k0 + n - 1` along K of a stream's first `rows` rows. -/
def State.operandRows (s : State) (o : OpRecord) (a : Ag) (t : NumTy) (neg : Bool) (rows k0 n : Nat) : List (List (Option Val)) :=
  let k := agCount a 0
  (List.range rows).map fun i => (List.range (min n (k - k0))).map fun j => s.operandElem o a t neg (i * k + k0 + j)

/-- The greatest exponent of the valid non-zero elements of an operand (R267). -/
def maxExp (rows : List (List (Option Val))) : Option Int :=
  rows.foldl (fun acc r => r.foldl (fun acc v =>
    match v with
    | some (.fin _ m e _) => if m = 0 then acc else some (match acc with
        | some x => max x (Val.floorLog m e)
        | none => Val.floorLog m e)
    | _ => acc) acc) none

/-- The tile state with its anchor, derived from the operands where it is not set (R267). -/
def deriveAnchor (t : TileState) (a b : List (List (Option Val))) : TileState :=
  if t.aset then t
  else match maxExp a, maxExp b with
    | some ea, some eb => { t with anchor := min (max (ea + eb - 40) (-512)) 511, aset := true }
    | _, _ => t

/-- What an MMA gives: the elements by their index in the tile, the tile state, and its flags. -/
structure MmaOut where
  elems : List (Nat × AccElem)
  tile : TileState
  flags : Flags
  deriving DecidableEq, Repr

/-- The marks of the rows, or columns, that hold an invalid element. -/
def invalidMarks (n : Nat) (rows : List (List (Option Val))) : BitVec n :=
  BitVec.ofNat n (((List.range rows.length).zip rows).foldl (fun acc r => acc + (if r.2.any Option.isNone then 2 ^ r.1 else 0)) 0)

/-- The products of one step of an MMA added, its operands having been read (R174, R267): products enter an element in increasing k. -/
def mmaCompute (t : TileState) (old : Nat → AccElem) (a b : List (List (Option Val))) : MmaOut :=
  let ri : BitVec 64 := if b.isEmpty then 0 else invalidMarks 64 a
  let ci : BitVec 48 := if a.isEmpty then 0 else invalidMarks 48 b
  let outs := ((List.range a.length).zip a).flatMap fun ra => ((List.range b.length).zip b).map fun rb =>
    let pairs := (ra.2.zip rb.2).filterMap fun p =>
      match p with
      | (some x, some y) => some (x, y)
      | _ => none
    let x := 48 * ra.1 + rb.1
    (x, pairs.foldl (addProduct t.anchor) (old x, false))
  let ov := outs.any fun e => e.2.2
  { elems := outs.map fun e => (e.1, e.2.1)
    tile := { t with rowInv := t.rowInv ||| ri, colInv := t.colInv ||| ci, aovf := t.aovf || ov }
    flags := flagIf (ri != 0 || ci != 0) Flg.iv ||| flagIf ov Flg.aovf }

/-- The lead bank of MMA's CTRL (R265). -/
def mmaBank (ctrl : Lane) : Nat := fld ctrl.toNat 23 9

/-- The rows of A that an MMA names. -/
def State.mmaRows (s : State) (args : List Lane) : Nat :=
  (((s.rec? args 1).bind OpRecord.src).map fun a => agCount a 1).getD 0

/-- The start checks of MMA and MMAR (R257, R262). -/
def State.mmaFault (s : State) (ctrl : Lane) (args : List Lane) : Option (Cause × Nat) :=
  s.g.bankFault .redundant (mmaBank ctrl) (tileBanks (s.mmaRows args))

/-- The operands of an MMA: the records of A and B with their streams and types, from its arguments. -/
structure MmaIn where
  ra : OpRecord
  a : Ag
  ta : NumTy
  neg : Bool
  rb : OpRecord
  b : Ag
  tb : NumTy

/-- The operands that an MMA's arguments name (R265). -/
def State.mmaIn (s : State) (ctrl : Lane) (args : List Lane) : Option MmaIn :=
  match s.rec? args 1, s.rec? args 2 with
  | some ra, some rb =>
    (match ra.src, rb.src, tdType (fld ctrl.toNat 14 9), tdType (fld ctrl.toNat 5 9) with
     | some a, some b, some ta, some tb => some { ra := ra, a := a, ta := ta, neg := bit ctrl.toNat 4, rb := rb, b := b, tb := tb }
     | _, _, _, _ => none)
  | _, _ => none

/-- The values of both operands over some of K, A's for `rows` rows. -/
def State.mmaVals (s : State) (x : MmaIn) (rows k0 n : Nat) : List (List (Option Val)) × List (List (Option Val)) :=
  (s.operandRows x.ra x.a x.ta x.neg rows k0 n, s.operandRows x.rb x.b x.tb false (agCount x.b 1) k0 n)

/-- The tile state with the anchor that the whole operands give it (R267). -/
def State.mmaAnchor (s : State) (x : MmaIn) (rows : Nat) (t : TileState) : TileState :=
  if t.aset then t
  else
    let v := s.mmaVals x rows 0 (agCount x.a 0)
    deriveAnchor t v.1 v.2

/-- The steps over K of an MMA (R267). -/
def MmaIn.chunks (x : MmaIn) : Nat := ceilDiv (agCount x.a 0) kStep

/-- The first value of k of a step of an MMA of `units` steps: a command that derives its anchor reads all of K once before it adds
(R282). -/
def MmaIn.stepK (x : MmaIn) (units u : Nat) : Nat := kStep * (if u < units - x.chunks then u else u - (units - x.chunks))

/-- What one step of an MMA gives, on `rows` rows of A, from a tile state and its elements. -/
def State.mmaStep (s : State) (x : MmaIn) (rows units u : Nat) (tile : TileState) (old : Nat → AccElem) : MmaOut :=
  if u < units - x.chunks then { elems := [], tile := tile, flags := Flg.none }
  else
    let t := if u = units - x.chunks then s.mmaAnchor x rows tile else tile
    let v := s.mmaVals x rows (x.stepK units u) kStep
    mmaCompute t old v.1 v.2

/-- The reads of one operand in a step of an MMA: the elements from `k0` on, and the scale areas and bitmaps, of its first `rows`
rows (R266). -/
def chunkReads (o : OpRecord) (a : Ag) (rows k0 : Nat) : List StreamRead :=
  let k := agCount a 0
  (List.range rows).flatMap fun i =>
    ((List.range (min kStep (k - k0))).map fun j => elemRead o a (i * k + k0 + j)) ++
      (if agScm a = 0 then []
       else
         let row := agRowOf a (i * k)
         [{ ps := o.pieces, a := agScaleArea a row, n := agScaleBytes a }, { ps := o.pieces, a := agBitmapArea a row, n := agBitmapBytes a }])

/-- The address of the first poisoned byte that a step of an MMA reads (R354). -/
def State.mmaPoison (s : State) (x : MmaIn) (rows k0 : Nat) : Option Word :=
  if s.poison.isEmpty then none
  else s.readPoison (chunkReads x.ra x.a rows k0 ++ chunkReads x.rb x.b (agCount x.b 1) k0)

/-- The lowest-numbered core of the cluster that can take guest work (R280): it runs nothing, has no shadow bank and no guest
work, and is not a staging core. -/
def State.guestCore (s : State) : Option CoreId :=
  ((List.range 16).map fun k => (Fin.ofNat 512 (s.focus.val / 16 * 16 + k) : CoreId)).find? fun c =>
    let k := s.coreAt c
    k.g.run.isNone && !k.shadow.valid && k.guest.isNone && k.owner[0] != .staging

/-- The control word and the arguments of an MMA or MMAR. -/
def mmaParts : Instr → Option (Lane × List Lane)
  | .mma _ a b c => some (a, [a, b, c])
  | .mmar _ a b c d => some (a, [a, b, c, d])
  | _ => none

/-- The rows that an MMA or MMAR computes: those present in the ragged walk for MMAR (R266). -/
def State.mmaLive (s : State) (i : Instr) : Nat :=
  match i with
  | .mma _ a b c => s.mmaRows [a, b, c]
  | .mmar _ a b c d => s.rowsPresent s.focus (fld d.toNat 22 10) (fld d.toNat 6 16) (s.mmaRows [a, b, c, d])
  | _ => 0

/-- Eighths of a cycle that each value of k takes an MMA, by the width of the wider operand (R282). -/
def mmaEighths (w : Nat) : Nat := if w ≤ 6 then 1 else if w ≤ 8 then 2 else if w ≤ 16 then 4 else 16

/-- The least time of an ME command that reads streams, with their scale and bitmap areas: it cannot be over before the bytes of another
scratchpad arrive (R215, R282). -/
def State.withReads (s : State) (l : List (OpRecord × Ag)) (n : Nat) : Nat :=
  let far := l.any fun e => (footReads e.1 e.2).any fun r => r.addrs.any fun a =>
    (s.pieceAt r.ps a).any fun key => key / 4194304 != s.focus.val
  if far then max n 24 else n

/-- The cycles of an MMA that does not derive its anchor (R282). -/
def State.mmaCycles (s : State) (x : MmaIn) : Nat :=
  s.withReads [(x.ra, x.a), (x.rb, x.b)] (16 + ceilDiv (agCount x.a 0 * mmaEighths (max (agBits x.a) (agBits x.b))) 8)

/-- The plan of MMA and MMAR: its steps over K, and twice the time and the steps where it derives its anchor (R267, R282). -/
def State.mmaPlan (s : State) (i : Instr) (ctrl : Lane) (args : List Lane) : Plan :=
  match s.mmaIn ctrl args with
  | none => unitsOnly 0
  | some x =>
    let t := (s.g.bankAt (mmaBank ctrl)).tile
    let m := if !t.aset && (s.mmaAnchor x (s.mmaLive i) t).aset then 2 else 1
    { units := m * x.chunks, cycles := m * s.mmaCycles x, posts := [] }

/-- A stream with only its first `n` indices of dimension 1. -/
def agFirst (a : Ag) (n : Nat) : Ag := a.set 3 (putField a[3] 40 24 n)

/-- The reads of both operands of an MMA, A's for `rows` rows, counted at its first step (R214, R266). -/
def State.countOperands (s : State) (x : MmaIn) (rows : Nat) : State :=
  s.countAll ((if rows = 0 then [] else footReads x.ra (agFirst x.a rows)) ++ footReads x.rb x.b)

/-- A step of MMA or MMAR at home (R267). -/
def State.mmaWork (s : State) (i : Instr) (ctrl : Lane) (args : List Lane) (cmd : Cmd) : State :=
  match s.mmaIn ctrl args with
  | none => s
  | some x =>
    let rows := s.mmaLive i
    let lead := mmaBank ctrl
    match s.mmaPoison x rows (x.stepK cmd.units cmd.progress) with
    | some bad => s.engineStop .softError cmd.hdrPc (bad.toNat % 2 ^ 32)
    | none =>
      let s := if cmd.progress = 0 then s.countOperands x rows else s
      let r := s.mmaStep x rows cmd.units cmd.progress (s.g.bankAt lead).tile fun k => s.g.accAt (accKey lead k)
      let s := s.modG fun g =>
        let g := g.putAcc (r.elems.map fun e => (accKey lead e.1, e.2))
        let g := g.modBanks lead (tileBanks (s.mmaRows args)) fun b => { b with written := true }
        g.modBank lead fun b => { b with tile := r.tile }
      s.creditHere r.flags

/-! ## Migration (R280, R281) -/

/-- The k-th command moves to a guest where it may (R280): the guest computes into zeroed banks of its own, and the home tile is
lent to it. -/
def State.mmaMove (s : State) (i : Instr) (ctrl : Lane) (args : List Lane) (k : Nat) : State :=
  let lead := mmaBank ctrl
  let n := tileBanks (s.mmaRows args)
  match (if (cmdHdr i).mig && s.g.fresh? lead (s.mmaRows args) then s.guestCore else none), s.rq.queue[k]? with
  | some c, some cmd =>
    let cmd := { cmd with migrated := true, cycles := max cmd.cycles 24 }
    let w : Guest :=
      { home := s.focus, hdrPc := cmd.hdrPc, lead := lead, nbanks := n, acc := [], tile := (s.g.bankAt lead).tile, flags := Flg.none
        progress := 0, left := cmd.stepTime 0 }
    let s := s.setCoreAt c { s.coreAt c with guest := some w }
    (s.modG fun g => g.modBanks lead n fun b => { b with lent := true }).setCmd k cmd
  | _, _ => s

/-- The command that a guest works on, in its home's queue. -/
def State.guestCmd (s : State) (w : Guest) : Option Cmd := (s.coreAt w.home).g.me.queue.find? fun c => c.hdrPc = w.hdrPc && c.migrated

/-- Is a guest at a step boundary (R281, R282). -/
def Guest.atBoundary (w : Guest) (cmd : Cmd) : Bool :=
  if cmd.units ≤ w.progress then w.left = 0 else w.progress != 0 && w.left = cmd.stepTime w.progress

/-- Does a guest go on with its work: its home does not stand, and a halt there lets it finish its step (R281, R356). -/
def State.guestGoes (s : State) (w : Guest) (cmd : Cmd) : Bool :=
  (s.coreAt w.home).runs && ((s.coreAt w.home).haltReq.isNone || !w.atBoundary cmd)

/-- A cycle of the guest work on core `c`. -/
def State.tickGuest (s : State) (c : CoreId) : State :=
  match (s.coreAt c).guest with
  | none => s
  | some w =>
    if (s.guestCmd w).any (s.guestGoes w) then s.setCoreAt c { s.coreAt c with guest := some { w with left := w.left - 1 } } else s

/-- A step of the guest work on core `c`, once its cycles are over: it reads the operands as the home instance would (R280). -/
def State.guestStep (s : State) (c : CoreId) : State :=
  match (s.coreAt c).guest with
  | none => s
  | some w =>
    let h := { s.onCore w.home with ring := .me }
    match h.guestCmd w with
    | none => s
    | some cmd =>
      match (mmaParts cmd.instr).bind fun e => h.mmaIn e.1 e.2 with
      | none => s
      | some x =>
        let rows := h.mmaLive cmd.instr
        if cmd.units ≤ w.progress || w.left != 0 || !h.guestGoes w cmd then s
        else match h.mmaPoison x rows (x.stepK cmd.units w.progress) with
          | some bad => h.engineStop .softError cmd.hdrPc (bad.toNat % 2 ^ 32)
          | none =>
            let s := if w.progress = 0 then h.countOperands x rows else h
            let r := s.mmaStep x rows cmd.units w.progress w.tile fun k => Tab.get 0 w.acc k
            s.setCoreAt c
              { s.coreAt c with
                guest := some
                  { w with
                    acc := r.elems.foldl (fun a e => Tab.set 0 a e.1 e.2) w.acc, tile := r.tile, flags := w.flags ||| r.flags
                    progress := w.progress + 1, left := cmd.stepTime (w.progress + 1) } }

/-- A guest that has done its work, or has come to a step boundary while its home is asked to halt, returns its tile with its
progress; the home engine adds it into the lent banks as ACCADD does, and a command that is not over goes on at home (R280, R281).
-/
def State.guestReturn (s : State) (c : CoreId) : State :=
  match (s.coreAt c).guest with
  | none => s
  | some w =>
    match s.guestCmd w with
    | none => s
    | some cmd =>
      let home := s.coreAt w.home
      if !home.runs || !w.atBoundary cmd || (w.progress < cmd.units && home.haltReq.isNone) then s
      else
        let s := s.setCoreAt c { s.coreAt c with guest := none }
        let s := s.modGAt w.home fun g =>
          let g := g.putAcc (w.acc.map fun e =>
            let d := g.accAt (accKey w.lead e.1)
            let q := carrySaveAdd d (accS e.2 + accC2 e.2)
            (accKey w.lead e.1, if accD e.2 then stick q else q))
          let g := g.modBanks w.lead w.nbanks fun b => { b with lent := false, written := true }
          let g := g.modBank w.lead fun b => { b with tile := b.tile.added w.tile }
          { g with me := { g.me with queue := g.me.queue.map fun x =>
              if x.hdrPc = w.hdrPc then { x with migrated := false, progress := w.progress, left := x.stepTime w.progress } else x } }
        s.credit w.home (s.coreAt w.home).g.bank.inst w.flags

/-- The work of MMA and MMAR. -/
def mmaJob (i : Instr) (ctrl : Lane) (args : List Lane) : Work :=
  { plan := fun s => s.mmaPlan i ctrl args
    fault := fun s => s.mmaFault ctrl args
    move := fun s k => s.mmaMove i ctrl args k
    eff := fun s cmd => s.mmaWork i ctrl args cmd }

/-- MMA (R265, R267). -/
def execMma (h : CmdHdr) (a0 a1 a2 : Lane) (s : State) : Host.Outcome State Fault Refusal :=
  command (.mma h a0 a1 a2) s (mmaJob (.mma h a0 a1 a2) a0 [a0, a1, a2])

/-- MMAR (R266, R267): only the rows present in the ragged walk. -/
def execMmar (h : CmdHdr) (a0 a1 a2 a3 : Lane) (s : State) : Host.Outcome State Fault Refusal :=
  command (.mmar h a0 a1 a2 a3) s (mmaJob (.mmar h a0 a1 a2 a3) a0 [a0, a1, a2, a3])

/-! ## Housekeeping (R269 to R272, R279) -/

/-- The elements of `n` banks from `b`, written as zero. -/
def Group.zeroElems (g : Group) (b n : Nat) : Group :=
  { g with acc := g.acc.filter fun e => e.1 < b * 128 || (b + n) * 128 ≤ e.1 }

/-- MZERO on `n` banks from `b` (R269). -/
def Group.zeroBanks (g : Group) (b n : Nat) : Group :=
  (g.zeroElems b n).modBanks b n fun x => { Bank.zeroed with lent := x.lent }

/-- The work of a command that takes a bank in each unit, `n` in all, and `cycles` in all. -/
def bankWork (n cycles : Nat) (fault : State → Option (Cause × Nat)) (eff : State → Cmd → State) : Work :=
  { plan := fun _ => { units := n, cycles := cycles, posts := [] }, fault := fault, eff := eff }

/-- MZERO (R269). -/
def execMzero (h : CmdHdr) (a0 : Lane) (s : State) : Host.Outcome State Fault Refusal :=
  let b := fld a0.toNat 23 9
  let n := fld a0.toNat 14 9 + 1
  command (.mzero h a0) s (bankWork n (2 + n) (fun s => s.g.bankFault .held b n) fun s cmd =>
    s.modG fun g => g.zeroBanks (b + cmd.progress) 1)

/-- ANCHOR (R269). -/
def execAnchor (h : CmdHdr) (a0 : Lane) (s : State) : Host.Outcome State Fault Refusal :=
  let b := fld a0.toNat 23 9
  command (.anchor h a0) s (bankWork 1 2 (fun s => s.g.bankFault .redundant b 1) fun s _ =>
    s.modG fun g => g.modBank b fun x => { x with tile := { x.tile with anchor := sext 10 (fld a0.toNat 13 10), aset := true } })

/-- The u-th bank that an ACCMOV of `n` banks moves: from the first up, or from the last down where it moves them up, so that every
source bank is read before it is written (R270). -/
def moveOrder (src dst n u : Nat) : Nat := if dst ≤ src then u else n - 1 - u

/-- One bank of ACCMOV: the source bank is then zeroed where Z asks for it and it lies outside the destination range (R270). -/
def Group.moveBank (g : Group) (src dst n k : Nat) (z : Bool) : Group :=
  let b := g.bankAt (src + k)
  let elems := (List.range 128).map fun j => ((dst + k) * 128 + j, g.accAt ((src + k) * 128 + j))
  let g := (g.putAcc elems).modBank (dst + k) fun x => { status := b.status, tile := b.tile, written := true, lent := x.lent }
  if z && !(dst ≤ src + k && src + k < dst + n) then g.zeroBanks (src + k) 1 else g

/-- ACCMOV (R270). -/
def execAccmov (h : CmdHdr) (a0 a1 : Lane) (s : State) : Host.Outcome State Fault Refusal :=
  let src := fld a0.toNat 23 9
  let dst := fld a0.toNat 14 9
  let n := fld a0.toNat 5 9 + 1
  command (.accmov h a0 a1) s
    (bankWork n (2 + 4 * n) (fun s => (s.g.bankFault .held src n).orElse fun _ => s.g.bankFault .held dst n) fun s cmd =>
      s.modG fun g => g.moveBank src dst n (moveOrder src dst n cmd.progress) (bit a1.toNat 0))

/-- The core whose banks an ACCADD reads (R271). -/
def State.addSource (s : State) (a1 : Lane) : CoreId :=
  if bit a1.toNat 31 then Fin.ofNat 512 (s.focus.val / 16 * 16 + fld a1.toNat 27 4) else s.focus

/-- The start checks of ACCADD (R257, R262, R271). -/
def State.accaddFault (s : State) (a0 a1 : Lane) : Option (Cause × Nat) :=
  let c := s.addSource a1
  let src := fld a0.toNat 23 9
  let dst := fld a0.toNat 14 9
  let n := tileBanks (fld a0.toNat 8 6 + 1)
  let sg := (s.coreAt c).g
  if c ≠ s.focus && !(sg.run.isSome && sg.bank.inst = s.g.bank.inst) then some (.bankState, src)
  else ((sg.bankFault .redundant src n).orElse fun _ => s.g.bankFault .redundant dst n).orElse fun _ =>
    if anchorsClash (s.g.bankAt dst).tile (sg.bankAt src).tile then some (.bankState, dst) else none

/-- One bank of ACCADD of a source group's tile into the group's own; the tile state follows with the first (R271). Banks are added in rising
order, also where the two tiles overlap in part (log entry 104; DESIGN CHOICE). -/
def Group.addBank (g sg : Group) (src dst k : Nat) : Group :=
  let elems := (List.range 128).map fun j =>
    let e := sg.accAt ((src + k) * 128 + j)
    let q := carrySaveAdd (g.accAt ((dst + k) * 128 + j)) (accS e + accC2 e)
    ((dst + k) * 128 + j, if accD e then stick q else q)
  let g := (g.putAcc elems).modBank (dst + k) fun x => { x with written := true }
  if k = 0 then g.modBank dst fun x => { x with tile := x.tile.added (sg.bankAt src).tile } else g

/-- ACCADD (R271). -/
def execAccadd (h : CmdHdr) (a0 a1 : Lane) (s : State) : Host.Outcome State Fault Refusal :=
  let n := tileBanks (fld a0.toNat 8 6 + 1)
  command (.accadd h a0 a1) s
    { plan := fun s => { units := n, cycles := 4 + (if ownAccadd s.focus a1 then 4 else 16) * n, posts := [] }
      fault := fun s => s.accaddFault a0 a1
      eff := fun s cmd => s.modG fun g => g.addBank (s.coreAt (s.addSource a1)).g (fld a0.toNat 23 9) (fld a0.toNat 14 9) cmd.progress }

/-- The u-th bank of an ACCSPILL: its image of 2,080 bytes, as 260 elements of the stream (R272). -/
def State.spillBank (s : State) (o : OpRecord) (d : Ag) (b u : Nat) : State :=
  let image := bankImage s.g (b + u)
  (List.range 260).foldl (fun s p =>
    s.putLocal o d (260 * u + p) (((image.drop (8 * p)).take 8).foldr (fun x acc => x.toNat + 256 * acc) 0)) s

/-- The record with the destination stream that an operand word names. -/
def State.dest (s : State) (a : Lane) : Option (OpRecord × Ag) := (s.rec? [a] 0).bind fun o => o.dst.map fun d => (o, d)

/-- ACCSPILL (R272). -/
def execAccspill (h : CmdHdr) (a0 a1 : Lane) (s : State) : Host.Outcome State Fault Refusal :=
  let b := fld a0.toNat 23 9
  let n := fld a0.toNat 14 9 + 1
  command (.accspill h a0 a1) s (bankWork n (4 + 33 * n) (fun s => s.g.bankFault .held b n) fun s cmd =>
    match s.dest a1 with
    | none => s
    | some (o, d) => s.spillBank o d b cmd.progress)

/-- A bank of an ACCFILL image: its state word, its status word, its reserved word and its elements (R272). -/
def State.fillWords (s : State) (o : OpRecord) (a : Ag) (k : Nat) : List Nat :=
  (List.range 260).map fun j => s.streamCode o.pieces a (260 * k + j)

/-- The status that an image gives; none for a STATE other than 1 or 2, a CTYPE of 3, or a non-zero reserved bit (R272). -/
def imageStatus (w2 w3 : Nat) : Option BankStatus :=
  if 15 < w2 || w3 != 0 || fld w2 2 2 = 3 then none
  else match fld w2 0 2 with
    | 1 => some (.redundant (Fin.ofNat 3 (fld w2 2 2)))
    | 2 => some (.canonical (Fin.ofNat 3 (fld w2 2 2)))
    | _ => none

/-- One bank filled from its image (R272). -/
def Group.fillBank (g : Group) (k : Nat) (ws : List Nat) (st : BankStatus) : Group :=
  let elems := (List.range 128).map fun j =>
    (k * 128 + j, BitVec.ofNat 128 (ws.getD (4 + 2 * j) 0 + ws.getD (5 + 2 * j) 0 * 2 ^ 64))
  (g.putAcc elems).modBank k fun x =>
    { status := st, tile := TileState.ofBits (ws.getD 0 0 + ws.getD 1 0 * 2 ^ 64), written := true, lent := x.lent }

/-- The u-th bank of an ACCFILL from its image; a bad image ends the row group with BANK_STATE (R272). -/
def State.fillOne (s : State) (cmd : Cmd) (o : OpRecord) (a : Ag) (b u : Nat) : State :=
  s.reading cmd ((List.range 260).map fun j => elemRead o a (260 * u + j)) fun s =>
    let ws := s.fillWords o a u
    match imageStatus (ws.getD 2 0) (ws.getD 3 0) with
    | none => s.engineStop .bankState cmd.hdrPc (b + u)
    | some st => s.modG fun g => g.fillBank (b + u) ws st

/-- The record with the source stream that an operand word names. -/
def State.source (s : State) (a : Lane) : Option (OpRecord × Ag) := (s.rec? [a] 0).bind fun o => o.src.map fun x => (o, x)

/-- ACCFILL (R272). -/
def execAccfill (h : CmdHdr) (a0 a1 : Lane) (s : State) : Host.Outcome State Fault Refusal :=
  let b := fld a0.toNat 23 9
  let n := fld a0.toNat 14 9 + 1
  command (.accfill h a0 a1) s
    { plan := fun s => { units := n, cycles := s.withReads (s.source a1).toList (4 + 33 * n), posts := [] }
      fault := fun s => s.g.bankFault .held b n
      eff := fun s cmd =>
        match s.source a1 with
        | none => s
        | some (o, a) => s.fillOne cmd o a b cmd.progress }

/-- MNOP (R279): only its header acts. -/
def execMnop (h : CmdHdr) (s : State) : Host.Outcome State Fault Refusal :=
  command (.mnop h) s (bankWork 0 2 (fun _ => none) fun s _ => s)

/-- MSIG (R279). -/
def execMsig (h : CmdHdr) (a0 : Lane) (s : State) : Host.Outcome State Fault Refusal :=
  command (.msig h a0) s { plan := fun _ => unitsOnly 1, eff := fun s cmd => s.sigAdd a0 cmd }

/-! ## RESOLVE and ACCCMP (R273, R274) -/

/-- The exact value of a redundant element whose row and column are valid: V units of the anchor, and for D = 1 a little more
(R176). The little is 2^(−1800) whatever the anchor: below any unit of the window and of every target, an anchor being −512 or more. -/
def redundantVal (anchor : Int) (e : AccElem) : Val :=
  if accD e then Val.scaled (accValue e * 2 ^ (anchor + 1800).toNat + 1) (-1800) else Val.scaled (accValue e) anchor

/-- Does an invalid operand mark an element (R174, R176). -/
def TileState.marks (t : TileState) (i j : Nat) : Bool := t.rowInv.getLsbD i || t.colInv.getLsbD j

/-- The value of an element of a tile and the flags of reading it (R176, R274, R276). -/
def Group.elemVal (g : Group) (lead x : Nat) : Val × Flags :=
  let b := g.bankAt (lead + x / 128)
  let t := (g.bankAt lead).tile
  let e := g.accAt (accKey lead x)
  match b.status with
  | .canonical ct =>
    (match ct.val with
     | 0 => decodeFlt .f32 (fld e.toNat 0 32)
     | 1 => decodeFlt .bf16 (fld e.toNat 0 16)
     | _ => .ofInt (sext 32 (fld e.toNat 0 32)), Flg.none)
  | _ =>
    if t.marks (x / 48) (x % 48) then (.nan false, Flg.iv)
    else (redundantVal t.anchor e, flagIf (accD e) Flg.astk)

/-- ResolveElement (R176): the stored code and the flags. -/
def resolveElem (v : Val × Flags) (tt : Nat) : Nat × Flags :=
  match tt with
  | 2 =>
    (match v.1 with
     | .nan _ => (0, v.2)
     | x =>
       let r := floatToInt NumCtl.plain true 32 x
       (wrapInt 32 r.1, v.2 ||| r.2 ||| flagIf (r.2 &&& Flg.iv != Flg.none) Flg.nx))
  | _ =>
    let r := floatFinish NumCtl.plain (if tt = 0 then .f32 else .bf16) v.1
    (r.1, v.2 ||| r.2)

/-- One bank of RESOLVE into its destination with the flags; the tile state follows with the first (R273). -/
def State.resolveBank (s : State) (src dst tt k : Nat) : State :=
  let outs := (List.range 128).map fun j => (128 * k + j, resolveElem (s.g.elemVal src (128 * k + j)) tt)
  let tile := (s.g.bankAt src).tile
  let s := s.modG fun g =>
    let g := g.putAcc (outs.map fun e => (accKey dst e.1, BitVec.ofNat 128 e.2.1))
    let g := g.modBank (dst + k) fun x => { x with status := .canonical (Fin.ofNat 3 tt), written := true }
    if k = 0 then g.modBank dst fun x => { x with tile := tile } else g
  s.creditHere (outs.foldl (fun f e => f ||| e.2.2) 0)

/-- RESOLVE (R273). -/
def execResolve (h : CmdHdr) (a0 a1 : Lane) (s : State) : Host.Outcome State Fault Refusal :=
  let src := fld a0.toNat 23 9
  let n := tileBanks (fld a0.toNat 17 6 + 1)
  let dst := fld a1.toNat 23 9
  command (.resolve h a0 a1) s
    (bankWork n (4 + 4 * n) (fun s => (s.g.bankFault .redundant src n).orElse fun _ => s.g.bankFault .held dst n) fun s cmd =>
      s.resolveBank src dst (fld a0.toNat 15 2) cmd.progress)

/-- The comparisons of ACCCMP (R274); a NaN makes every one false but NE. -/
def accCompare (cond : Nat) (a b : Val) : Bool :=
  match cond with
  | 0 => Val.eqv a b
  | 1 => !Val.eqv a b
  | 2 => Val.lt a b
  | 3 => Val.lt a b || Val.eqv a b
  | 4 => Val.lt b a
  | _ => Val.lt b a || Val.eqv a b

/-- What ACCCMP writes: one bit for each element of `n` banks (R274). -/
def State.compareBanks (s : State) (o : OpRecord) (d : Ag) (cond a b n : Nat) (zb : Bool) : State :=
  let g := s.g
  let test : Nat → Bool := fun x => accCompare cond (g.elemVal a x).1 (if zb then .zero false else (g.elemVal b x).1)
  (List.range (16 * n)).foldl (fun s p =>
    s.putLocal o d p ((List.range 8).foldl (fun acc k => acc + (if test (8 * p + k) then 2 ^ k else 0)) 0)) s

/-- ACCCMP (R274). -/
def execAcccmp (h : CmdHdr) (a0 a1 : Lane) (s : State) : Host.Outcome State Fault Refusal :=
  let a := fld a0.toNat 23 9
  let b := fld a0.toNat 14 9
  let n := tileBanks (fld a0.toNat 8 6 + 1)
  let zb := bit a0.toNat 4
  command (.acccmp h a0 a1) s
    (bankWork 1 (4 + n) (fun s => (s.g.bankFault .held a n).orElse fun _ => if zb then none else s.g.bankFault .held b n) fun s _ =>
      match s.dest a1 with
      | none => s
      | some (o, d) => s.compareBanks o d (fld a0.toNat 5 3) a b n zb)

/-! ## The epilogue (R275 to R278) -/

/-- Does candidate c rank above d (R277): −0 counts as +0. -/
def ranksAbove (c d : Lane × Lane) : Bool :=
  let x := decodeFlt .f32 c.1.toNat
  let y := decodeFlt .f32 d.1.toNat
  Val.lt y x || (Val.eqv x y && c.2.toNat < d.2.toNat)

/-- A candidate put in its place in a heap. -/
def insertCandidate (c : Lane × Lane) : List (Lane × Lane) → List (Lane × Lane)
  | [] => [c]
  | d :: rest => if ranksAbove c d then c :: d :: rest else d :: insertCandidate c rest

/-- HeapInsert (R277): the best TKCAP candidates are kept. -/
def Epilogue.insert (e : Epilogue) (row : Nat) (c : Lane × Lane) : Epilogue :=
  { e with heaps := Tab.set [] e.heaps row ((insertCandidate c (Tab.get [] e.heaps row)).take e.tkCap) }

/-- EPCFG (R275). -/
def execEpcfg (h : CmdHdr) (a0 a1 : Lane) (s : State) : Host.Outcome State Fault Refusal :=
  command (.epcfg h a0 a1) s (bankWork 1 2 (fun _ => none) fun s _ => s.modG fun g => { g with epi := g.epi.configure a0.toNat a1 })

/-- The start checks of DRAIN's epilogue arrays, those in use (R262, R275): the region, then the alignment. -/
def State.epilogueFault (s : State) (epi : Bool) : Option (Cause × Nat) :=
  let arrays := epilogueArrays s.g.epi epi
  let bad := arrays.find? fun a =>
    !(checkRegion s.g s.focus (aliasAddr a.1) a.2 .read || inRowArea s.g s.focus (aliasAddr a.1) a.2)
  match bad with
  | some a => some (.regionUndeclared, a.1)
  | none => (arrays.find? fun a => a.1 % 4 != 0).map fun a => (.align, a.1)

/-- What DRAIN reads of the epilogue's arrays for row `i` of `cols` columns (R275, R276). -/
def epilogueReads (e : Epilogue) (epi : Bool) (i cols : Nat) : List StreamRead :=
  (if epi && e.ctl.getLsbD 0 then [{ ps := [], a := aliasAddr (e.rsAddr + i), n := 1 }] else [])
    ++ (if epi && e.ctl.getLsbD 1 then [{ ps := [], a := aliasAddr e.biasAddr, n := 4 * cols }] else [])

/-- What DRAIN reads of the epilogue: the row's scale, the column's bias (R275). -/
def State.rowScale (s : State) (i : Nat) : Int := sext 8 (readByte s.mem (sramKey s.focus (s.g.epi.rsAddr + i))).toNat

/-- The bias of a column. -/
def State.colBias (s : State) (j : Nat) : Val :=
  decodeFlt .f32 (readLE s.mem (sramKey s.focus (s.g.epi.biasAddr + 4 * j)) 4)

/-- The working value of an element after the epilogue's steps (R276). DESIGN CHOICE (log entry 103): the clamp takes −0 and +0 as equal, and
an infinite element with a bias of the opposite infinity gives NaN and raises no flag in the addition. -/
def State.epilogueVal (s : State) (epi : Bool) (i j : Nat) (v : Val) : Val :=
  let e := s.g.epi
  let v := if epi && e.ctl.getLsbD 0 then v.scale (s.rowScale i) else v
  let v := if epi && e.ctl.getLsbD 1 then Val.add .rne v (s.colBias j) else v
  if epi && e.ctl.getLsbD 2 then
    let lo := decodeFlt .f32 e.clampLo.toNat
    let hi := decodeFlt .f32 e.clampHi.toNat
    let v := if Val.lt v lo then lo else v
    if Val.lt hi v then hi else v
  else v

/-- Cast of DrainElement (R276): rounded once with RNE. A REDUNDANT element that is resolved to i32 sets NX wherever its value changes,
at a bound of the range too (R176). -/
def drainCast (t : NumTy) (sat resolves : Bool) (v : Val) : Nat × Flags :=
  let r := finishNum { NumCtl.plain with mod := { OpMod.plain with sat := sat } } true t v
  (r.1, r.2 ||| flagIf (resolves && t == .int true 32 && !v.isNan && r.2 &&& Flg.iv != Flg.none) Flg.nx)

/-- Is a bank CANONICAL (R255). -/
def Group.isCanonical (g : Group) (b : Nat) : Bool :=
  match (g.bankAt b).status with
  | .canonical _ => true
  | _ => false

/-- Is the record of a drained row LIVE, where the engine knows it (R23, R276). -/
def State.drainRowLive (s : State) (rag : Bool) (i : Nat) : Bool :=
  !rag || (match s.walkRecord s.focus s.g.epi.row0 s.g.epi.tok0 i with
    | some r => s.rowLive s.focus r
    | none => false)

/-- DrainElement (R276). -/
def State.drainElem (s : State) (o : OpRecord) (d : Ag) (lead : Nat) (t : NumTy) (epi live : Bool) (i j : Nat) : State :=
  let e := s.g.epi
  let x := s.g.elemVal lead (48 * i + j)
  let v := s.epilogueVal epi i j x.1
  let tke := epi && e.ctl.getLsbD 3
  let s := s.creditHere x.2
  let s := if tke && !v.isNan then
      let key : Lane := BitVec.ofNat 32 (floatFinish NumCtl.plain .f32 v).1
      s.modG fun g => { g with epi := g.epi.insert i (key, e.idBase + BitVec.ofNat 32 j) }
    else s
  if tke && e.ctl.getLsbD 4 then s
  else
    let c := drainCast t (e.ctl.getLsbD 5) (!s.g.isCanonical (lead + (48 * i + j) / 128)) v
    let s := s.creditHere c.2
    if live then s.putLocal o d (i * agCount d 0 + j) c.1 else s

/-- The rows that a DRAIN drains: those of the ragged walk with RAG (R266, R276). -/
def State.drainRows (s : State) (a0 : Lane) : Nat :=
  let rows := fld a0.toNat 17 6 + 1
  if bit a0.toNat 1 then s.rowsPresent s.focus s.g.epi.row0 s.g.epi.tok0 rows else rows

/-- The plan of a DRAIN: a step for each row, and the cycles of R282. -/
def State.drainPlan (s : State) (a0 a1 : Lane) : Plan :=
  let rows := s.drainRows a0
  let e := s.g.epi
  let n := rows * (fld a0.toNat 11 6 + 1)
  let bits := ((s.dest a1).map fun e => agBits e.2).getD 0
  let bytes := if bit a0.toNat 0 && e.ctl.getLsbD 3 && e.ctl.getLsbD 4 then 0 else ceilDiv (n * bits) 8
  let rate := match (s.g.bankAt (fld a0.toNat 23 9)).status with
    | .canonical _ => 64
    | _ => 32
  { units := max 1 rows, cycles := 8 + max (ceilDiv n rate) (ceilDiv bytes 128), posts := [] }

/-- One row of a DRAIN; with its last, IDBASE moves on where the heaps took part (R276). -/
def State.drainRow (s : State) (a0 a1 : Lane) (cmd : Cmd) : State :=
  let i := cmd.progress
  let cols := fld a0.toNat 11 6 + 1
  let rag := bit a0.toNat 1
  let epi := bit a0.toNat 0
  let row : State → State := fun s =>
    match s.dest a1, tdType (fld a0.toNat 2 9) with
    | some (o, d), some t =>
      let live := s.drainRowLive rag i
      (List.range cols).foldl (fun s j => s.drainElem o d (fld a0.toNat 23 9) t epi live i j) s
    | _, _ => s
  let close : State → State := fun s =>
    if epi && s.g.epi.ctl.getLsbD 3 && cmd.progress + 1 = cmd.units then
      s.modG fun g => { g with epi := { g.epi with idBase := g.epi.idBase + BitVec.ofNat 32 cols } }
    else s
  if i < s.drainRows a0 then s.reading cmd (epilogueReads s.g.epi epi i cols) fun s => close (row s) else close s

/-- DRAIN (R276). -/
def execDrain (h : CmdHdr) (a0 a1 : Lane) (s : State) : Host.Outcome State Fault Refusal :=
  command (.drain h a0 a1) s
    { plan := fun s => s.drainPlan a0 a1
      fault := fun s =>
        (s.g.bankFault .held (fld a0.toNat 23 9) (tileBanks (fld a0.toNat 17 6 + 1))).orElse fun _ => s.epilogueFault (bit a0.toNat 0)
      eff := fun s cmd => s.drainRow a0 a1 cmd }

/-- The record of a tile row of TOPK: by the walk of R266 with RAG, ROW0 + i without (R278, R324). -/
def State.topkRecord (s : State) (rag : Bool) (rows i : Nat) : Option Nat :=
  let e := s.g.epi
  if rag then
    if i < s.rowsPresent s.focus e.row0 e.tok0 rows then s.walkRecord s.focus e.row0 e.tok0 i else none
  else if e.row0 + i < s.g.rowCount then some (e.row0 + i) else none

/-- The padding record (R278). -/
def padRecord : Word := 0xFFFFFFFFFF800000#64

/-- The records of one row of TOPK with their hidden tags; a padding record carries none (R278, R324). -/
def State.topkRow (s : State) (rag : Bool) (rows c i : Nat) : List (Word × Option Nat) :=
  let r := (s.topkRecord rag rows i).bind fun r => if s.rowLive s.focus r then some r else none
  let heap := if r.isSome then (Tab.get [] s.g.epi.heaps i).take c else []
  heap.map (fun e => (e.2 ++ e.1, r)) ++ List.replicate (c - heap.length) (padRecord, none)

/-- The plan of a TOPK: its records in order, a unit for each, and the cycles of R282. -/
def State.topkPlan (s : State) (a0 a1 : Lane) : Plan :=
  match s.dest a1 with
  | none => unitsOnly 0
  | some (_, d) =>
    let rows := fld a0.toNat 26 6 + 1
    let out := (List.range rows).flatMap fun i => s.topkRow (bit a0.toNat 24) rows (agCount d 0) i
    { units := out.length, cycles := 4 + ceilDiv out.length 8, posts := out.map fun e => { QEntry.now e.1 0 with tag := e.2 } }

/-- One record of a TOPK, written and, with POST, pushed to Q13; the last clears the heaps (R278). -/
def State.topkRecordOut (s : State) (a0 a1 : Lane) (cmd : Cmd) : State :=
  match s.dest a1, cmd.posts[cmd.progress]? with
  | some (o, d), some e =>
    let s := s.putLocal o d cmd.progress e.val.toNat
    let s := if bit a0.toNat 25 then s.modG fun g => g.modQueue 13 fun q => q.push { e with born := s.cyc } else s
    if cmd.progress + 1 = cmd.units then s.modG fun g => { g with epi := { g.epi with heaps := [] } } else s
  | _, _ => s

/-- TOPK (R278). -/
def execTopk (h : CmdHdr) (a0 a1 : Lane) (s : State) : Host.Outcome State Fault Refusal :=
  command (.topk h a0 a1) s { plan := fun s => s.topkPlan a0 a1, eff := fun s cmd => s.topkRecordOut a0 a1 cmd }

end Sys2Proof.Machine
end

