-- ==== Sys2Proof/Machine/Words.lean ====
section
/-! DEFINITION. A group as it stands in the window: its words, the checks of the whole group in the order of R101, its holds and waits (R84,
R127), and whether it freezes its XS. -/

namespace Sys2Proof.Machine

/-! ## The words of a group -/

/-- A word of a group: its 32 bits, its instruction where it has one, and the modifier word just before it (R114). -/
structure GWord where
  raw : Nat
  instr : Option Instr
  mod : Option Modifier
  deriving DecidableEq, Repr

/-- The instruction of a sequencer word. -/
def wordInstr (w : Nat) : Option Instr :=
  match decodeWord w with
  | .ok i => some i
  | .error _ => none

/-- The words of a group, the modifier before the first being `m`. -/
def groupWords : Option Modifier → List Nat → List GWord
  | _, [] => []
  | m, w :: rest =>
    let i := wordInstr w
    { raw := w, instr := i, mod := m } ::
      groupWords (match i with
        | some (.modifier n) => some n
        | _ => none) rest

/-- The instructions of a group. -/
def groupInstrs (ws : List GWord) : List Instr := ws.filterMap GWord.instr

/-- The state with a word of the group at work: its modifier, its bits and its index. -/
def State.atWord (s : State) (k : Nat) (w : GWord) : State :=
  s.modSeq fun q => { q with mod := w.mod, raw := BitVec.ofNat 32 w.raw, idx := k }

/-! ## The checks of a group (R101) -/

/-- A sequencer word with nothing but what names its operation: its class, its op, and a sub-op or the operation of a reduction
(R103 to R112). -/
def opOnly (w : Nat) : Nat :=
  match fld w 28 3 with
  | 0 => fld w 22 6 * 2 ^ 22 + (if fld w 22 6 = 0x26 then 2 ^ 8 else 0)
  | 5 =>
    5 * 2 ^ 28 + fld w 24 4 * 2 ^ 24 +
      (match fld w 24 4 with
       | 4 => fld w 0 8
       | 5 | 6 => fld w 3 3 * 8
       | _ => 0)
  | 7 => 7 * 2 ^ 28 + fld w 21 7 * 2 ^ 21
  | c => c * 2 ^ 28 + fld w 23 5 * 2 ^ 23

/-- Does a word that follows a modifier word, and has no instruction of its own because some other field of it is not allowed,
refuse a field of the modifier by its operation alone (R114). -/
def refusesRaw (m : Modifier) (w : Nat) : Bool :=
  let i := wordInstr (opOnly w)
  let arith := m.sat || m.clamp != 0 || m.negA || m.absA || m.scale != 0
  (arith && !i.any acceptsArith) || ((m.negB || m.absB) && !i.any acceptsB) || (m.rnd != .keep && !i.any acceptsRnd)
    || ((m.gp != 0 || m.gn) && fld w 28 3 = 0 && fld w 22 6 != 0x15 && fld w 0 4 != 0)

/-- Does a modifier word break a rule of R114: it ends the group, precedes another modifier word, or its target does not accept it. -/
def modifierFault (m : Modifier) (w : Nat) (next : Option GWord) : Bool :=
  bit w 31 ||
    (match next with
     | some n =>
       fld n.raw 28 3 = 7 && fld n.raw 26 2 = 0 ||
         (match n.instr with
          | some i => !modFits m i
          | none => refusesRaw m n.raw)
     | none => false)

/-- Is the k-th word of a group illegal (R100, R114, R119): step 2 of R101, first half. -/
def State.wordIllegal (s : State) (ws : List GWord) (k : Nat) (w : GWord) : Bool :=
  let hasC2 := (groupInstrs ws).any fun i => i.cls = some .c2
  match w.instr with
  | none => true
  | some i =>
    s.illegalWord hasC2 i || pipeClash (ws.map GWord.instr) = some k ||
      (match i with
       | .modifier m => modifierFault m w.raw ws[k + 1]?
       | _ => false)

/-- Does the k-th word of a group raise ILLEGAL_OPERAND (R87, R151): step 2 of R101, second half. -/
def State.wordOperand (s : State) (ws : List GWord) (k : Nat) (w : GWord) : Bool :=
  let is := ws.map GWord.instr
  (match w.instr with
   | some i => s.illegalOperand i
   | none => false)
    || destClash [] 0 is = some k || popClash [] 0 is = some k

/-- The exception of a word with a true guard that raises one by itself: step 5 of R101, BKPT before TRAP. -/
def State.softTrap (s : State) (bkpt : Bool) (w : GWord) : Option (Cause × BitVec 32) :=
  match w.instr with
  | some (.bkpt n) => if bkpt && s.guardTrue (.bkpt n) then some (.breakpoint, n.setWidth 32) else none
  | some (.trap n) => if !bkpt && s.guardTrue (.trap n) then some (.software, n.setWidth 32) else none
  | _ => none

/-- The exception that a group whose shape is allowed raises at issue (R101, steps 2 to 5). -/
def State.groupTrap (s : State) (ws : List GWord) : Option Trap :=
  let l := numbered ws
  let mk : Nat → Cause → BitVec 32 → Trap := fun k c d => { cause := c, pc := s.seq.grpStart, word := k, detail := d, shape := false }
  let step2 : Option Trap := l.findSome? fun e =>
    let s := s.atWord e.1 e.2
    if s.wordIllegal ws e.1 e.2 then some (mk e.1 .illegalOpcode (BitVec.ofNat 32 e.2.raw))
    else if s.wordOperand ws e.1 e.2 then some (mk e.1 .illegalOperand (BitVec.ofNat 32 e.2.raw))
    else none
  match step2 with
  | some t => some t
  | none =>
    if portsFault (groupInstrs ws) then some (mk 0 .portOversub (BitVec.ofNat 32 (ws.headD ⟨0, none, none⟩).raw))
    else
      let step4 : Option Trap := l.findSome? fun e =>
        (e.2.instr.bind (s.atWord e.1 e.2).memFault).map fun f => mk e.1 f.1 (BitVec.setWidth 32 f.2)
      match step4 with
      | some t => some t
      | none =>
        let soft : Bool → Option Trap := fun b => l.findSome? fun e =>
          ((s.atWord e.1 e.2).softTrap b e.2).map fun f => mk e.1 f.1 f.2
        match soft true with
        | some t => some t
        | none => soft false

/-- The exception of a group that cannot be fetched or whose shape is not allowed (R69, R97 to R99). -/
def State.shapeTrap (s : State) : Trap :=
  let pc := s.seq.pc
  let w := if pc.toNat + 4 ≤ 65536 then s.windowWord s.side pc.toNat else 0
  { cause := .illegalOpcode, pc := pc, word := 0, detail := BitVec.ofNat 32 w, shape := true }

/-! ## Holds and waits (R84, R127) -/

/-- The words whose guard is true. -/
def State.guarded (s : State) (ws : List GWord) : List (Nat × GWord × Instr) :=
  (numbered ws).filterMap fun e => e.2.instr.bind fun i =>
    if (s.atWord e.1 e.2).guardTrue i then some (e.1, e.2, i) else none

/-- Does a group hold (R84). -/
def State.groupHolds (s : State) (ws : List GWord) : Bool :=
  (s.side = .xs && s.pipeHold (groupInstrs ws)) || (s.guarded ws).any fun e => s.wordHold e.2.2

/-- The first word of a group that waits, with its wait (R84, R287): every cycle looks at all the group's waits afresh (log entry 106; DESIGN
CHOICE). -/
def State.groupWait (s : State) (ws : List GWord) : Option (Nat × GWord × Instr × (WaitKind × Nat)) :=
  (s.guarded ws).findSome? fun e => (s.waitOf e.2.2).map fun w => (e.1, e.2.1, e.2.2, w)

/-- The stream registers that an AS word names (R236, R242). -/
def State.agNames (s : State) (i : Instr) : List (Fin 32) :=
  match i with
  | .agdef k _ | .agset k _ _ | .agadv k _ _ | .agld k _ | .aggath k _ _ => [k]
  | .cmdw r a =>
    let v := (s.seq.getX a).toNat
    match cmdwSlot r (s.g.ringOf r) with
    | .operand _ _ .t => [Fin.ofNat 32 v, Fin.ofNat 32 (fld v 8 5)]
    | .operand _ _ .d => [Fin.ofNat 32 (fld v 8 5)]
    | .operand _ _ _ => [Fin.ofNat 32 v]
    | _ => []
  | _ => []

/-- Is a result that an AS word reads still pending: of an X or P register, of a stream register that an AGDEF loads, or of a PGREF
(R85, R127, R223, R236). -/
def State.interlocked (s : State) (i : Instr) : Bool :=
  let q := s.seq
  let x : RegNum → Bool := fun r => r != 0 &&
    ((q.pend.any fun p => p.dest = .x r) || s.g.asReads.any fun a => match a with
      | .pgref _ _ _ d _ _ => d = r
      | _ => false)
  let p : RegNum → Bool := fun r => q.pend.any fun o => o.dest = .p (physP q.prb r)
  (xReads i).any x || (pReads i).any p || p (guardField i) ||
    (s.agNames i).any fun k => s.g.asReads.any fun a => match a with
      | .stream _ _ _ _ j _ _ => j = k
      | _ => false

/-! ## The group at the PC -/

/-- A fetched group, or the exception of its shape (R97 to R99). -/
def State.fetchGroup (s : State) : Trap ⊕ List Nat :=
  match s.groupAt s.side 6 s.seq.pc.toNat with
  | none => .inl s.shapeTrap
  | some ws => if shapeOk s.side ws then .inr ws else .inl s.shapeTrap

/-- The words of the fetched group: none where the fetch is an exception. -/
def State.readyWords (s : State) : List GWord :=
  match s.fetchGroup with
  | .inl _ => []
  | .inr raw => groupWords none raw

/-- Does the XS's ready group wait still, in a hold cycle of a wait that it had begun (R84, R292). -/
def State.heldWait (s : State) : Bool :=
  s.seq.waited != 0 && s.ownStoresDue &&
    match s.fetchGroup with
    | .inl _ => false
    | .inr raw =>
      let s := s.modSeq fun q => { q with grpStart := q.pc }
      (s.groupTrap (groupWords none raw)).isNone && (s.groupWait (groupWords none raw)).isSome

/-- The wait of the XS's ready group on something outside it, where nothing inside the XS keeps it back (R84). -/
def State.frozenXs (s : State) : Option (Nat × GWord × Instr × (WaitKind × Nat)) :=
  if s.seq.exited || s.seq.bubble ≠ 0 then none
  else match s.fetchGroup with
    | .inl _ => none
    | .inr raw =>
      let ws := groupWords none raw
      let s := s.modSeq fun q => { q with grpStart := q.pc }
      if (s.groupTrap ws).isSome || s.groupHolds ws then none else s.groupWait ws

end Sys2Proof.Machine
end

