-- ==== Sys2Proof/Machine/Landing.lean ====
section
/-! DEFINITION. What lands in a core after its engines have issued it: results and store checks (R85, R232), reads of the AS (R152,
R154, R223, R236), budgets (R330), releases and tokens (R292, R298), and the messages that reach a destination port or a semaphore's home
(R213, R224, R250, R251, R289). -/

namespace Sys2Proof.Machine

/-! ## Results and store checks -/

/-- May anything land in the XS of the core in focus now: its row group runs on, no halt has been asked for, and what is due leaves
the XS in an issue cycle, not frozen (R84, R357). -/
def State.mayLand (s : State) : Bool :=
  s.cur.runs && s.cur.haltReq.isNone && (s.writeResults.1.checkStores.1.frozenXs).isNone

/-- RESULT_WRITE (R85). Where the results would raise an exception, the core's cycle writes them and takes it in its place among the
cycle's causes (R342, R343). -/
def execResultWrite (c : CoreId) (xs : Bool) (s : State) : Host.Outcome State Fault Refusal :=
  .next
    (if xs then
      let t := s.onSeq c .xs
      if t.mayLand && t.writeResults.2.isNone then t.writeResults.1 else s
    else if (s.coreAt c).runs && (s.coreAt c).haltReq.isNone then (s.onSeq c .as).writeResults.1 else s)

/-- STORE_CHECK (R232). Where a check would raise an exception, the core's cycle makes it and takes the exception in its place among
the cycle's causes (R342, R343). -/
def execStoreCheck (c : CoreId) (s : State) : Host.Outcome State Fault Refusal :=
  .next (if (s.onSeq c .xs).mayLand && (s.onSeq c .xs).checkStores.2.isNone then (s.onSeq c .xs).checkStores.1 else s)

/-- VTAP_DECISION (R317): the decisions that are due, in issue order. -/
def execVtapDecision (c : CoreId) (s : State) : Host.Outcome State Fault Refusal :=
  .next
    (if (s.onSeq c .xs).mayLand then
      let s := s.onSeq c .xs
      let due := s.seq.pend.filter fun p => p.due ≤ s.seq.ic && p.isDecide
      due.foldl State.putResult (s.modSeq fun q => { q with pend := q.pend.filter fun p => !(p.due ≤ q.ic && p.isDecide) })
    else s)

/-! ## Budgets (R329, R330) -/

/-- A window whose budget has come to 0 closes, with a row trap of cause BUDGET (R330). -/
def State.budgetOut (s : State) : State :=
  match s.g.win with
  | some r =>
    if s.g.budget = 0 then s.closeWindow.rowTrap s.focus r Cause.budget.code 0 0 (s.rowLen s.focus r - 1) 0 else s
  | none => s

/-- An issue cycle of an open window (R329). -/
def State.tickBudget (s : State) : State :=
  if s.g.win.isSome then (s.modG fun g => { g with budget := g.budget - 1 }).budgetOut else s

/-- BUDGET_EXHAUSTED (R330). -/
def execBudgetExhausted (c : CoreId) (s : State) : Host.Outcome State Fault Refusal :=
  .next (if (s.coreAt c).runs then (s.onSeq c .xs).budgetOut else s)

/-! ## Releases and tokens -/

/-- RELEASE_UPDATE (R298). -/
def execReleaseUpdate (c : CoreId) (s : State) : Host.Outcome State Fault Refusal :=
  .next (if (s.coreAt c).runs then s.makeReleases c (s.coreAt c).g.releases.length else s)

/-- TOKEN_READY (R292). -/
def execTokenReady (c : CoreId) (s : State) : Host.Outcome State Fault Refusal :=
  .next (if (s.coreAt c).runs then s.readyTokens c else s)

/-! ## Waits that end in WAIT_TIMEOUT (R288) -/

/-- The kind of a wait by its code (R345). -/
def waitKindOf (n : Nat) : WaitKind :=
  match n with
  | 0 => .sem
  | 1 => .token
  | 2 => .queue
  | 3 => .wp
  | 4 => .abfree
  | 5 => .acqFence
  | 6 => .staging
  | 7 => .semrd
  | 8 => .ring
  | _ => .slotUse

/-- A sequencer whose wait has lasted WAITMAX cycles meets WAIT_TIMEOUT at the waiting group; no wait lasts in a halt (R357). The cycle that
follows is that of the handler's entry (R343). -/
def State.seqTimeout (s : State) : State :=
  if s.seq.waited = 0 || !s.waitOver || s.cur.haltReq.isSome then s
  else
    let s := s.modSeq fun q => { q with grpStart := q.pc }
    let n := match s.groupAt s.side 6 s.seq.pc.toNat with
      | some ws => 4 * ws.length
      | none => 0
    let w := (waitKindOf s.seq.waitKind, s.seq.waitObj)
    let t := (s.modSeq fun q => { q with pc := q.pc + BitVec.ofNat 32 n }).timeOut w
    if s.g.handler.isNone && t.g.handler.isSome then t.modSeq fun q => { q with bubble := 2 } else t

/-- WAIT_TIMEOUT (R288): of a sequencer, or of the command at an engine's head. -/
def execWaitTimeout (c : CoreId) (e : Waiter) (s : State) : Host.Outcome State Fault Refusal :=
  .next
    (if !(s.coreAt c).runs then s
    else match e with
      | .as => (s.onSeq c .as).seqTimeout
      | .xs => (s.onSeq c .xs).seqTimeout
      | .ring r =>
        let s := { s.onCore c with ring := r }
        if (s.coreAt c).haltReq.isNone && s.rq.queue.any fun cmd => s.g.waitMax < cmd.waited + 1 then s.commandWait else s)

/-! ## Reads of the AS -/

/-- The number of a read. -/
def AsRead.no : AsRead → Nat
  | .queue no .. => no
  | .stream no .. => no
  | .pgref no .. => no

/-- A read issued one cycle later (R391). -/
def AsRead.later (r : AsRead) : AsRead :=
  match r with
  | .queue no b pc rt q a o n x ps => .queue no (b + 1) pc rt q a o n x ps
  | .stream no b pc rt k a ps => .stream no (b + 1) pc rt k a ps
  | .pgref no b pc d a h => .pgref no (b + 1) pc d a h

/-- The state without a read of the core in focus. -/
def State.dropRead (s : State) (no : Nat) : State := s.modG fun g => { g with asReads := g.asReads.filter fun r => r.no != no }

/-- A descriptor as a stream register takes it: the reserved bits above POS are ignored (R233, R236). -/
def agOf (word : Nat → Word) : Ag :=
  Vector.ofFn fun (j : Fin 16) => if j.val = 15 then BitVec.ofNat 64 (fld (word 15).toNat 0 48) else word j.val

/-- The AS's path is the last on which an access was performed (R385). -/
def State.performedAs (s : State) : State := s.modG fun g => g.perform .as

/-- The address and the cycle of issue of a read that is no PGREF. -/
def AsRead.from? : AsRead → Option (Word × Nat)
  | .queue _ b _ _ _ a _ _ _ _ => some (a, b)
  | .stream _ b _ _ _ a _ => some (a, b)
  | .pgref .. => none

/-- The bytes of a read that is no PGREF. -/
def AsRead.range : AsRead → Word × Nat
  | .queue _ _ _ _ _ a off bits _ _ => (a, elemBytes off bits)
  | .stream _ _ _ _ _ a _ => (a, 128)
  | .pgref .. => (0, 0)

/-- The translation that a read took at its issue (R218). -/
def AsRead.pieces : AsRead → List Piece
  | .queue _ _ _ _ _ _ _ _ _ ps => ps
  | .stream _ _ _ _ _ _ ps => ps
  | .pgref .. => []

/-- The memory key of an address of a read of core `c`: through a handle, as it was translated at the read's issue (R218). -/
def State.asKey (s : State) (c : CoreId) (r : AsRead) (a : Word) : Option Nat :=
  if spaceOf a = 1 then pieceKey r.pieces a else s.keyOf c (s.coreAt c).g.bank.pd .read a

/-- The memory keys of a read of core `c`. -/
def State.asKeys (s : State) (c : CoreId) (r : AsRead) : List Nat :=
  (List.range r.range.2).filterMap fun k => s.asKey c r (r.range.1 + BitVec.ofNat 64 k)

/-- `n` bytes that a read of core `c` reads at an address, as a little-endian number (R214, R218). -/
def State.asLE (s : State) (c : CoreId) (r : AsRead) (a : Word) : Nat → Nat
  | 0 => 0
  | n + 1 =>
    (if spaceOf a = 1 then (pieceKey r.pieces a).elim 0 (readByte s.mem) else s.readAddr c (s.coreAt c).g.bank.pd a).toNat
      + 256 * State.asLE s c r (a + 1) n

/-- The first address of a read of core `c` whose word is poisoned (R354). -/
def State.poisonRead (s : State) (c : CoreId) (r : AsRead) : Option Word :=
  if s.poison.isEmpty then none
  else ((List.range r.range.2).map fun k => r.range.1 + BitVec.ofNat 64 k).find? fun x => (s.asKey c r x).any (s.poisoned · 1)

/-- The least time of a read of the AS by where its address lies (R215, R419). -/
def State.readBound (s : State) (c : CoreId) (r : AsRead) : Nat :=
  match s.asKey c r r.range.1 with
  | some key => s.coreCount c (keyTime c key)
  | none => 6

/-- A read of the AS returns: it fills its queue entry or its stream register (R152, R154, R236, R239). A word left poisoned
ends the row group (R354). -/
def State.returnRead (s : State) (r : AsRead) : State :=
  let pd := s.g.bank.pd
  match r with
  | .queue no _ pc _ q a off bits sx _ =>
    let n := elemBytes off bits
    (match s.poisonRead s.focus r with
     | some bad => s.softError .as pc bad
     | none =>
       let v := fld (s.asLE s.focus r a n) off bits
       let w : Word := if sx then BitVec.ofInt 64 (sext bits v) else BitVec.ofNat 64 v
       (((s.countRead pd a n).dropRead no).performedAs).modG fun g => g.modQueue (Fin.ofNat 16 q.val) fun x =>
         { x with
           entries := x.entries.map fun e => if !e.ready && e.fill = no then { e with val := w, ready := true, born := s.cyc } else e })
  | .stream no _ pc _ k a _ =>
    (match s.poisonRead s.focus r with
     | some bad => s.softError .as pc bad
     | none =>
       let d := agOf fun j => BitVec.ofNat 64 (s.asLE s.focus r (a + BitVec.ofNat 64 (8 * j)) 8)
       (((s.countRead pd a 128).dropRead no).performedAs).modG fun g => { g with ags := g.ags.set k d })
  | .pgref .. => s

/-- Does a read of core `c` wait for an earlier one on its path: both go to one core's scratchpad (R213), or both have bytes of one aligned
8-byte unit, which one write may cover (R295, R301). -/
def State.readBehind (s : State) (c : CoreId) (r q : AsRead) : Bool :=
  let x := s.asKeys c r
  let y := s.asKeys c q
  q.no < r.no && ((x.any fun a => y.any fun b => a / 8 = b / 8) ||
    (match x, y with
     | a :: _, b :: _ => a < spaceSize && b < spaceSize && a / 4194304 = b / 4194304
     | _, _ => false))

/-- Is a read one of the core's own scratchpad, which takes exactly six cycles (R215). -/
def AsRead.isLocal (c : CoreId) (r : AsRead) : Bool :=
  match r.from? with
  | some (a, _) => (localOff c a).isSome
  | none => false

/-- The local reads of the core in focus whose six cycles are over return, in order. -/
def State.returnLocal (s : State) : State :=
  (s.g.asReads.filter fun r => r.isLocal s.focus &&
      (match r.from? with
       | some (_, b) => b + 5 ≤ s.cyc
       | none => false)).foldl State.returnRead s

/-- The first byte of a read that no memory of the package has. -/
def State.readMissing (s : State) (c : CoreId) (r : AsRead) : Option Nat := (s.asKeys c r).find? fun key => !keyExists key

/-- AS_READ_RETURN (R154): read `no` of core `c` returns, not sooner than R215 allows, and after the earlier reads of its path to
the same core or the same bytes (R213, R295). A read of an address that no memory has faults. -/
def execAsReadReturn (c : CoreId) (no : Nat) (s : State) : Host.Outcome State Fault Refusal :=
  match (s.coreAt c).g.asReads.find? fun r => r.no = no with
  | none => .next s
  | some r =>
    match r.from? with
    | none => .next s
    | some (_, b) =>
      if !(s.coreAt c).runs || (s.coreAt c).haltReq.isSome || (s.coreAt c).cycle + 1 < b + s.readBound c r
          || (s.coreAt c).g.asReads.any (s.readBehind c r) then .next s
      else match s.readMissing c r with
        | some key => .fault (.noSuchMemory key)
        | none => .next ((s.onSeq c .as).returnRead r)

/-! ## PGREF (R220, R222, R223, R225) -/

/-- A page-directory entry. -/
def State.page (s : State) (gpn : Nat) : DirEntry := Tab.get DirEntry.free s.dir gpn

/-- The state with a page-directory entry set. -/
def State.setPage (s : State) (gpn : Nat) (e : DirEntry) : State := { s with dir := Tab.set DirEntry.free s.dir gpn e }

/-- A dropped reference (R219). -/
def droppedForm (a : Word) : Word := (a &&& 0x3FF8000000000000#64) ||| (a &&& 0xFFFF#64) ||| 0x8006000000000000#64

/-- A resolved reference (R219). -/
def resolvedForm (a : Word) (sram : Bool) (gen : Fin 256) (slot : Fin 256) : Word :=
  BitVec.ofNat 64
    (2 ^ 63 + fld a.toNat 52 10 * 2 ^ 52 + (if sram then 2 ^ 51 else 0) + 2 ^ 50 + gen.val * 2 ^ 24 + slot.val * 2 ^ 16
      + fld a.toNat 0 16)

/-- The commands not yet completed that carry a slot, and the records of commands still to be fetched (R224). -/
def slotUse (g : Group) (k : Fin 256) : Nat :=
  ([g.me, g.ch0, g.ch1].map fun r =>
    (r.records.toList.filter fun o =>
      match o with
      | some x => x.slots.contains k
      | none => false).length).sum

/-- The result of a PGREF is written (R223). -/
def State.pgrefDone (s : State) (no : Nat) (d : RegNum) (v : Word) : State :=
  (s.dropRead no).modG fun g => { g with as_ := g.as_.setX d v }

/-- A PGREF that has hit takes its slot, if no command carries it (R223). -/
def State.takeSlot (s : State) (no : Nat) (d : RegNum) (a : Word) (p : PgHit) : State :=
  let k := p.slot
  if slotUse s.g k != 0 then s
  else
    let old := s.g.slot k
    let s := if old.held then s.unpin old.gpn else s
    let gen : Fin 256 := old.gen + 1
    let new : Slot :=
      { gen := gen, held := true, row := fld a.toNat 52 10, page := fld a.toNat 16 18, gpn := p.gpn, sram := p.sram, loc := p.loc,
        vlen := p.vlen, hm := p.vlen, shared := p.shared, user := .none }
    (s.modG fun g => g.setSlot k new).pgrefDone no d (resolvedForm a p.sram gen k)

/-- What a replay of sync order lets the home-die step of a PGREF be (R396): nothing before its turn; anything, where it is not
forced; a drop; or a hit at a level. -/
inductive PgTurn where
  | held | free | drop
  | hit (sram : Bool)
  deriving DecidableEq, Repr

/-- Is a log entry a PGREF at a home die. -/
def LogEntry.pgrefAt (home : Fin 4) : LogEntry → Bool
  | .pgref h _ _ _ => h = home
  | _ => false

/-- Is a log entry a PGREF of a core at a home die. -/
def LogEntry.pgrefIs (home : Fin 4) (c : CoreId) : LogEntry → Bool
  | .pgref h d _ _ => h = home && d = c
  | _ => false

/-- The turn of a PGREF of the core in focus at a home die: the outcomes of a home die come in the order of the log (R394, R396). -/
def State.pgrefTurn (s : State) (home : Fin 4) : PgTurn :=
  match s.replayFor s.g.bank.pd with
  | .replaySync =>
    match s.replay.next (LogEntry.pgrefAt home) with
    | some (.pgref _ c slot sram) => if c != s.focus then .held else if slot.isSome then .hit sram else .drop
    | _ => .free
  | _ => .free

/-- Does a waiting PGREF that resolved earlier wait for a slot. -/
def Group.slotAwaited (g : Group) (k : Fin 256) : Bool :=
  g.asReads.any fun r => match r with
    | .pgref _ _ _ _ _ (some h) => h.slot = k
    | _ => false

/-- A PGREF hits at its home die: the page is pinned, LASTSLOT advances, and the PGREF takes the slot if it may (R223). -/
def State.pgrefHit (s : State) (no b : Nat) (pc : BitVec 32) (d : RegNum) (a : Word) (lf : Nat × Nat) : State :=
  let e := s.page lf.1
  let slot := s.g.lastSlot + 1
  let s := s.setPage lf.1 { e with pins := e.pins + 1, last := BitVec.ofNat 64 s.now, wantSram := bit a.toNat 51 }
  let h : PgHit :=
    { gpn := lf.1, sram := e.level == Level.sram, loc := e.loc, vlen := lf.2, shared := decide (1 < e.refs), slot := slot, waited := 0,
      from_ := 0 }
  let busy := s.g.slotAwaited slot
  let s := s.modG fun g =>
    { g with lastSlot := slot, asReads := (g.asReads.filter fun r => r.no != no) ++ [.pgref no b pc d a (some h)] }
  if busy then s else s.takeSlot no d a h

/-- The GPN and VLEN of the page that a PGREF of core `c` names: those of no page where its row is not LIVE (R223). -/
def State.pgrefLeaf (s : State) (c : CoreId) (a : Word) : Nat × Nat :=
  let row := fld a.toNat 52 10
  if s.rowLive c row then s.leaf (s.ctxAt (ctxIndex (s.rowCtx c row))).kvroot (fld a.toNat 16 18) else (0, 0)

/-- A poisoned byte of the page-table entries that a PGREF of core `c` reads (R223, R354; log entry 101). -/
def State.pgrefPoison (s : State) (c : CoreId) (a : Word) : Option Nat :=
  let row := fld a.toNat 52 10
  if s.rowLive c row then s.leafPoison (s.ctxAt (ctxIndex (s.rowCtx c row))).kvroot (fld a.toNat 16 18) else none

/-- The die that resolves a PGREF of core `c` (R222, R223). -/
def State.pgrefHome (s : State) (c : CoreId) (a : Word) : Fin 4 :=
  if (s.pgrefLeaf c a).1 = 0 then dieOf c else homeDie (s.pgrefLeaf c a).1

/-- The home-die step of PGREF `no` of the core in focus, with what follows it (R223, R225), logged where it is made (R394). A PGREF
of an unmapped page or of a row that is not LIVE is the core's own die's. -/
def State.resolvePgref (s : State) (no b : Nat) (pc : BitVec 32) (d : RegNum) (a : Word) : State :=
  let c := s.focus
  let row := fld a.toNat 52 10
  let page := fld a.toNat 16 18
  let live := s.rowLive c row
  let lf := s.pgrefLeaf c a
  let home := s.pgrefHome c a
  let level := (s.page lf.1).level
  let found := lf.1 != 0 && (level == Level.sram || (level == Level.hbm && !bit a.toNat 51))
  let turn := s.pgrefTurn home
  let wait := match turn with
    | .held => true
    | .hit sram => !found || sram != (level == Level.sram)
    | _ => false
  if wait then s.holdOutcome (.pgref c no) s.cyc
  else
    let s := s.releaseOutcome (.pgref c no)
    let logged : State → Option (Fin 256) → State := fun s k =>
      s.outcome home s.g.bank.pd (.pgref home c k (k.isSome && level == Level.sram)) (LogEntry.pgrefIs home c)
    if found && turn != .drop then (logged s (some (s.g.lastSlot + 1))).pgrefHit no b pc d a lf
    else if !live then (logged s none).pgrefDone no d (droppedForm a)
    else
      let s := (logged s none).rowDrop c row page (bit a.toNat 51)
      if (s.coreAt c).g.run.isSome && (s.coreAt c).ending.isNone then s.pgrefDone no d (droppedForm a) else s

/-- PGREF_RESULT (R223): PGREF `no` of core `c` takes its home-die step, not sooner than its time. An uncorrectable error in the entries
that it reads ends the row group (R354). -/
def execPgrefResult (c : CoreId) (no : Nat) (s : State) : Host.Outcome State Fault Refusal :=
  .next
    (match (s.coreAt c).g.asReads.find? fun r => r.no = no with
     | some (.pgref _ b pc d a none) =>
       let s := s.onSeq c .as
       let least := s.fixedCount c (if s.pgrefHome c a = dieOf c then 40 else 160)
       if !s.cur.runs || s.cyc < b + least then s
       else match s.pgrefPoison c a with
         | some bad => s.terminate c (termRecord Cause.softError.code .as false pc (BitVec.ofNat 32 bad))
         | none => s.resolvePgref no b pc d a
     | _ => s)

/-- The state in which the wait of a PGREF for its slot has its record. -/
def State.dropHit (s : State) (no : Nat) : State :=
  s.modG fun g =>
    { g with
      asReads := g.asReads.map fun r =>
        match r with
        | .pgref n b pc d a (some h) => if n = no then .pgref n b pc d a (some { h with from_ := h.waited }) else r
        | r => r }

/-- The PGREFs of the core in focus that have hit try for their slots, in the order in which they resolved; one that has waited
beyond WAITMAX ends the row group (R223, R288, R345). A wait's record names the engine that gave the slot up (R385). -/
def State.slotWaits (s : State) : State :=
  s.g.asReads.foldl (fun s r =>
    match r with
    | .pgref no b pc d a (some h) =>
      let record : Nat × CoreId → State := fun by_ =>
        s.traceWait s.focus WaitKind.slotUse.code .as false h.slot.val pc (h.waited - h.from_) by_.1 by_.2
      if !s.cur.runs then s
      else if slotUse s.g h.slot = 0 then (record ((s.g.slot h.slot).user.code, s.focus)).takeSlot no d a h
      else if s.g.waitMax < h.waited + 1 then
        ((record (6, 0)).dropHit no |>.onSeq s.focus .as).takeTrap
          { cause := .waitTimeout, pc := pc, word := 0, detail := BitVec.ofNat 32 WaitKind.slotUse.code, shape := false } s.g.as_.pc
      else s.modG fun g =>
        { g with asReads := g.asReads.map fun x => if x.no = no then .pgref no b pc d a (some { h with waited := h.waited + 1 }) else x }
    | _ => s) s

/-! ## Messages at their destinations -/

/-- The core whose scratchpad a message goes to, a staging core's for a KV frame of level SRAM; none for other memory (R213, R226). -/
def Flight.port (f : Flight) : Option CoreId :=
  match f.dst, f.cargo with
  | some c, _ => some c
  | none, .bytes (e :: _) => if e.1 < spaceSize then some (Fin.ofNat 512 (e.1 / 4194304)) else none
  | none, .combine key .. | none, .cas key .. => if key < spaceSize then some (Fin.ofNat 512 (key / 4194304)) else none
  | none, _ => none

/-- Do two messages travel one way: from one core, on one path, to one core's port or to one memory (R213). One that writes nothing goes
nowhere (R224). -/
def Flight.sameWay (a b : Flight) : Bool :=
  a.src = b.src && a.path = b.path && a.port = b.port && a.cargo ≠ .bytes [] && b.cargo ≠ .bytes []

/-- The k-th message of the network, if no earlier one travels the same way and its source read has returned (R213, R246), with the network
without it. -/
def State.arriving (s : State) (k : Nat) : Option (Flight × State) :=
  match s.net[k]? with
  | none => none
  | some f =>
    if (s.net.take k).any f.sameWay || (s.coreAt f.src).cycle < f.after then none else some (f, { s with net := s.net.eraseIdx k })

/-- The ring of a channel's path. -/
def pathRing : Path → Option Ring
  | .ch0 => some .ch0
  | .ch1 => some .ch1
  | _ => none

/-- The counted bytes of a channel's message are delivered (R250). A row group that is saved keeps its write pointer as it was, and counts
such bytes again after its restore (R358); one that is ending moves it no more (R253, R352). -/
def State.landFlight (s : State) (f : Flight) : State :=
  match (if s.liveFlight f then pathRing f.path else none) with
  | some r => s.modGAt f.src fun g => g.modRing r fun q => q.land f.lo f.len
  | none => s

/-- Is a row of a saved row group LIVE: its record lies in the scratchpad or, where its partition has been evicted, in the frame (R362,
R369). -/
def Saved.rowLive (v : Saved) (m : Memory) (row : Nat) : Bool :=
  let off := v.g.rowBase + 128 * row + 6
  let key := if v.evicted.getLsbD (v.g.rowBase / 0x100000) then devKey (v.addr.toNat + 0x200000 + off) else sramKey v.core off
  readLE m key 2 % 2 == 1

/-- A write through a KV slot raises its high mark; a write whose row is not LIVE is discarded (R224). -/
def State.kvArrives (s : State) (f : Flight) : Option State :=
  match f.kv with
  | none => some s
  | some (row, slot, gen, hm) =>
    let mark : Group → Group := fun g =>
      let sl := g.slot slot
      if sl.held && sl.gen = gen then g.setSlot slot { sl with hm := max sl.hm hm } else g
    if s.ownFlight f.src f then (if s.rowLive f.src row then some (s.modGAt f.src mark) else none)
    else match s.saved.find? fun v => v.core = f.src && v.inst = f.inst with
      | none => some s
      | some v =>
        if v.rowLive s.mem row then
          some { s with saved := s.saved.map fun x => if x.core = f.src && x.inst = f.inst then { x with g := mark x.g } else x }
        else none

/-- The first key of some cells that no memory of the package has. -/
def missingKey (cells : List (Nat × Byte)) : Option Nat := (cells.find? fun e => !keyExists e.1).map Prod.fst

/-- The engine that sent a message, by its path. -/
def pathEng : Path → Eng
  | .xst => .xs
  | .xld => .xs
  | .ald => .as
  | .me => .me
  | .ch0 => .ch0
  | .ch1 => .ch1
  | .tap => .sector
  | _ => .none

/-- After a message has been delivered, its engine is the last that performed an access (R385), and an ending row group may have
nothing left to deliver (R352, R374). -/
def State.afterArrival (s : State) (f : Flight) : State :=
  (if s.liveFlight f then s.modGAt f.src fun g => g.perform (pathEng f.path) else s).finishEnd f.src

/-- WRITE_ARRIVAL (R213, R224, R250): bytes reach their port. -/
def execWriteArrival (k : Nat) (s : State) : Host.Outcome State Fault Refusal :=
  match s.arriving k with
  | none => .next s
  | some (f, s') =>
    match f.cargo with
    | .bytes cells =>
      (match missingKey cells with
       | some key => .fault (.noSuchMemory key)
       | none =>
         match f.dst, s'.kvArrives f with
         | some c, _ => .next (((s'.portWrite c f.global f.pd cells).landFlight f).afterArrival f)
         | none, some s'' => .next (((s''.writeMem cells).landFlight f).afterArrival f)
         | none, none => .next ((s'.landFlight f).afterArrival f))
    | _ => .next s

/-- The old value of an element at a combining step, and whether its write stands: a quarter of another owner reads as zero and takes
no write, and a ring word is read and takes no write (R96, R214, R251). -/
def State.stepOld (s : State) (f : Flight) (key n : Nat) : Nat × Bool :=
  match f.dst with
  | some c =>
    let off := key % 4194304
    (if s.foreign c f.global f.pd off then 0 else readLE s.mem key n, !s.portRefuses c f.global f.pd off)
  | none => (readLE s.mem key n, true)

/-- The new value is written, or the refusal counted, and the step's counts are delivered or its old value sent back (R214, R247,
R250); of a row group that has ended, nothing is sent back (R352). -/
def State.stepNew (s : State) (f : Flight) (key n : Nat) (old : Nat × Bool) (new : Nat) (ret : List (Option Spot)) : State :=
  let s := if old.2 then s.writeMem (leCells key n new) else match f.dst with
    | some c => s.countDiscard c
    | none => s
  if ret.isEmpty then s.landFlight f
  else match (if s.liveFlight f then pathRing f.path else none) with
    | some r => s.sendRuns { f with no := 0, after := 0, cargo := .bytes [] } r f.lo (cutSpots (ret.zip (leBytes n old.1)))
    | none => s

/-- Is a log entry a combining step on an element. -/
def LogEntry.combineAt (key : Nat) : LogEntry → Bool
  | .combine k .. => k = key
  | _ => false

/-- Is a log entry a combining step of an issuer on an element. -/
def LogEntry.combineIs (key : Nat) (c : CoreId) (p : Path) : LogEntry → Bool
  | .combine k c' p' _ _ => k = key && c' = c && p' = p
  | _ => false

/-- The ring PC of the header of the command that a combining step is part of (R352). -/
def State.stepPc (s : State) (f : Flight) : BitVec 32 :=
  match pathRing f.path with
  | some r => ((((s.coreAt f.src).g.ringOf r).queue.find? fun cmd => cmd.recs.head? = f.opRec).map Cmd.hdrPc).getD 0
  | none => 0

/-- COMBINING_STEP (R251): one element is read, combined or compared, and written in one step; a replay may hold it (R396). An
uncorrectable error in the element ends the issuer's row group (R354). -/
def execCombiningStep (k : Nat) (s : State) : Host.Outcome State Fault Refusal :=
  match s.arriving k with
  | none => .next s
  | some (f, s') =>
    let go : Nat → Nat → (State → State) → Host.Outcome State Fault Refusal := fun key n act =>
      if !keyExists key then .fault (.noSuchMemory key)
      else if !s.myTurn f.pd (LogEntry.combineAt key) (LogEntry.combineIs key f.src f.path) then
        .next (s.holdOutcome (.combine f.src f.path f.lo) (s.coreAt f.src).cycle)
      else
        let s' := s'.releaseOutcome (.combine f.src f.path f.lo)
        if s.poisoned key n then
          .next ((if s.liveFlight f then
              s'.terminate f.src
                (termRecord Cause.softError.code (pathEng f.path) false (s'.stepPc f) (((f.addrs.head?).getD 0).setWidth 32))
            else s').afterArrival f)
        else
          .next ((act (s'.outcome (Fin.ofNat 4 (keyDie key)) f.pd (.combine key f.src f.path f.opRec f.stepNo) (LogEntry.combineIs key f.src f.path))).afterArrival f)
    match f.cargo with
    | .combine key n ty op sat v ret =>
      go key n fun s =>
        let old := s.stepOld f key n
        let r := combineValue ty op sat old.1 v.toNat
        let t := s.stepNew f key n old r.1 ret
        if s.liveFlight f then t.credit f.src f.inst r.2 else t
    | .cas key n cmp new ret =>
      go key n fun s =>
        let old := s.stepOld f key n
        s.stepNew f key n old (if old.1 = cmp.toNat % 2 ^ (8 * n) then new.toNat else old.1) ret
    | _ => .next s

/-! ## Semaphore accesses from other cores (R287, R289, R290) -/

/-- Is an access of a message to be held at a home that holds 512 already: its sender keeps it back (R289). -/
def State.homeFull (s : State) (f : Flight) (obj : SemName) : Bool :=
  s.homeFate obj.core f.inst f.pd obj.span = .held && 512 ≤ (s.coreAt obj.core).heldSems.length

/-- SEM_ACCESS_ARRIVAL (R289): an update, a CSIG's or MSIG's add, or a remote SEMRD's request reaches its home. -/
def execSemAccessArrival (k : Nat) (s : State) : Host.Outcome State Fault Refusal :=
  .next
    (match s.arriving k with
     | none => s
     | some (f, s') =>
       match f.cargo with
       | .sem obj upd =>
         if s.homeFull f obj then s else (s'.semArrive obj f.src (pathEng f.path) f.inst f.pd upd).afterArrival f
       | .csig obj =>
         if s.homeFull f obj then s else
         let s' := s'.semArrive obj f.src (pathEng f.path) f.inst f.pd (.add 1)
         let mark : RingState → RingState := fun q =>
           { q with queue := match q.queue with
             | cmd :: rest => { cmd with added := true } :: rest
             | [] => [] }
         (s'.modGAt f.src fun g =>
           match (if s'.ownFlight f.src f then f.path else .host) with
           | .me => { g with me := mark g.me }
           | .ch0 => { g with ch0 := mark g.ch0 }
           | .ch1 => { g with ch1 := mark g.ch1 }
           | _ => g).afterArrival f
       | .semrd obj side ask =>
         if s.homeFull f obj then s else s'.semAsked obj f.src (pathEng f.path) f.inst f.pd side ask
       | _ => s)

/-- REMOTE_SEMRD_REPLY (R290): the answer arrives, and the group that asked for it may issue; an answer that nothing waits for any
more is dropped. -/
def execRemoteSemrdReply (k : Nat) (s : State) : Host.Outcome State Fault Refusal :=
  .next
    (match s.arriving k with
     | none => s
     | some (f, s') =>
       match f.cargo with
       | .reply side ask v =>
         let k := s'.coreAt f.src
         if k.g.run.isSome && k.g.bank.inst = f.inst && (k.g.seq side).remote = .sent ask then
           s'.modGAt f.src fun g => g.modSeq side fun q => { q with remote := .answered v }
         else s'.afterArrival f
       | _ => s)

/-- The ACQ word of the waiting group of the sequencer at work. -/
def State.waitingAcq (s : State) : Option (RegNum × RegNum) :=
  match s.groupAt s.side 6 s.seq.pc.toNat with
  | none => none
  | some ws => ws.findSome? fun w =>
    match decodeWord w with
    | .ok (.acq _ t b) => some (t, b)
    | _ => none

/-- Has a sequencer asked another core for something. -/
def Remote.isSent : Remote → Bool
  | .sent _ => true
  | _ => false

/-- REMOTE_WAIT_SAMPLE (R287, R289): the semaphore of a remote ACQ is sampled at its home, and the answer is the waiter's, with the
issuer of the step that satisfied it (R385). A discarded sample counts as unsatisfied. -/
def execRemoteWaitSample (c : CoreId) (xs : Bool) (s : State) : Host.Outcome State Fault Refusal :=
  .next
    (let s := s.onSeq c (if xs then .xs else .as)
     if !s.cur.runs || !s.seq.remote.isSent then s
     else match s.waitingAcq with
       | none => s
       | some (t, b) =>
         match s.syncName c (s.seq.getX b) with
         | none => s
         | some obj =>
           match s.homeFate obj.core s.g.bank.inst s.g.bank.pd obj.span with
           | .acted =>
             let m := (s.coreAt obj.core).g.sems[obj.num]
             let ok : BitVec 32 → Bool := fun v => semAtLeast v (BitVec.setWidth 32 (s.seq.getX t))
             let by_ := m.setter (s.coreAt obj.core).cycle ok
             if ok (m.sample (s.coreAt obj.core).cycle) then s.modSeq fun q => { q with remote := .satisfied by_.1 by_.2 } else s
           | .held => s
           | .discarded => s.countDiscard obj.core)

/-! ## Other engines of the core -/

/-- RING_FETCH (R70): the engine of a ring fetches its next whole command. -/
def execRingFetch (c : CoreId) (r : Ring) (s : State) : Host.Outcome State Fault Refusal :=
  .next ({ s.onCore c with ring := r }).fetchCommand

/-- COMMAND_COMPLETE (R116): the head command of a ring completes, once its work is done and its pushes find room. -/
def execCommandComplete (c : CoreId) (r : Ring) (s : State) : Host.Outcome State Fault Refusal :=
  .next ({ s.onCore c with ring := r }).completeCommand

/-- MIGRATION_RETURN (R280): the guest core `c` returns its tile. -/
def execMigrationReturn (c : CoreId) (s : State) : Host.Outcome State Fault Refusal := .next (s.guestReturn c)

/-- TAP_CHUNK_STAGED (R312): the next chunk of a site is staged. -/
def execTapChunkStaged (c : CoreId) (site : Fin 8) (s : State) : Host.Outcome State Fault Refusal :=
  .next
    (if (s.coreAt c).runs && site.val < (s.coreAt c).g.desc.ntaps then
      s.modGAt c fun g => { g with sites := g.sites.set site { g.sites[site] with ahead := g.sites[site].ahead + 1 } }
    else s)

end Sys2Proof.Machine
end

