-- ==== Sys2Proof/Machine/Switch.lean ====
section
/-! DEFINITION. What the wicks do (R47, R63, R64, R356 to R374): staging and withdrawing a shadow launch bank, swap-in, the halt of a row
group, its save, its restore, and its retirement. -/

namespace Sys2Proof.Machine

/-! ## The node image (R69, R93, R94) -/

/-- A byte of a node's image in handle space; a byte that does not translate reads as zero. -/
def State.imageByte (s : State) (pd : BitVec 12) (code : Word) (off : Nat) : Byte :=
  match s.translateHere pd .read (code + BitVec.ofNat 64 off) with
  | some key => readByte s.mem key
  | none => 0

/-- `n` bytes of a node's image from an offset, little-endian. -/
def State.imageLE (s : State) (pd : BitVec 12) (code : Word) (off : Nat) : Nat → Nat
  | 0 => 0
  | n + 1 => (s.imageByte pd code off).toNat + 256 * State.imageLE s pd code (off + 1) n

/-- The offset and length of a sequencer's code section (R94). -/
def State.section (s : State) (pd : BitVec 12) (code : Word) (side : Side2) : Nat × Nat :=
  let w := s.imageLE pd code (match side with
    | .as => 0x10
    | .xs => 0x18) 8
  (fld w 32 32, fld w 0 32)

/-- A code window of core `c` filled from a node's image: the bytes of the code section that fall in it, and zero elsewhere (R69, R93). -/
def State.fillWindow (s : State) (c : CoreId) (side : Side2) (which : Bool) (pd : BitVec 12) (code : Word) : State :=
  let e := s.section pd code side
  let cells := (List.range (min e.2 (65536 - e.1))).map fun k => (codeKey c side which (e.1 + k), s.imageByte pd code (e.1 + k))
  let s := (s.clearMem (codeKey c side which 0) 65536).writeMem cells
  s.setCoreAt c
    { s.coreAt c with sections := (s.coreAt c).sections.set (Fin.ofNat 4 ((if which then 2 else 0) + side.eng.code)) e }

/-- The descriptor of the node that a bank names (R62). -/
def State.bankDesc (s : State) (b : LaunchBank) : NodeDesc := ((s.inst b.inst).map Inst.desc).getD NodeDesc.blank

/-- Both shadow windows of core `c` filled for a bank (R69). -/
def State.fillShadow (s : State) (c : CoreId) (b : LaunchBank) : State :=
  let which := !(s.coreAt c).active
  let code := (s.bankDesc b).code
  (s.fillWindow c .as which b.pd code).fillWindow c .xs which b.pd code

/-- The state with the shadow bank of core `c` set. -/
def State.setShadow (s : State) (c : CoreId) (b : LaunchBank) : State := s.setCoreAt c { s.coreAt c with shadow := b }

/-- A wick has consumed the head message of its channel (R48). -/
def State.popDown (s : State) (w : Fin 32) : State := { s with down := s.down.set w (s.down[w]).consume }

/-- An ENDED that answers a bank which is not taken (R63). -/
def State.notTaken (s : State) (c : CoreId) (inst : BitVec 24) (how : EndKind) : State :=
  s.toLantern c (.ended c inst how 0 0xFFFF 0 [])

/-- STAGE (R63): the wick writes the shadow bank, or answers that the row group is not placed. -/
def execStage (w : Fin 32) (s : State) : Host.Outcome State Fault Refusal :=
  .next
    (match (s.down[w]).sent with
     | .stage c b :: _ =>
       let s := s.popDown w
       if (s.coreAt c).shadow.valid then s.notTaken c b.inst .notPlaced
       else (s.fillShadow c b).setShadow c { b with valid := true, resume := false }
     | _ => s)

/-- RESUME (R63): the wick stages a saved row group, or answers that it is not resumed. -/
def execResume (w : Fin 32) (s : State) : Host.Outcome State Fault Refusal :=
  .next
    (match (s.down[w]).sent with
     | .resume c b :: _ =>
       let s := s.popDown w
       if (s.coreAt c).shadow.valid then s.notTaken c b.inst .notResumed
       else
         let addr := ((s.saved.find? fun v => v.core = c && v.inst = b.inst).map Saved.addr).getD 0
         (s.fillShadow c b).setShadow c { b with valid := true, resume := true, saveAddr := addr }
     | _ => s)

/-- WITHDRAW (R63): CLEARED, or TOOLATE where the bank has swapped in. -/
def execWithdraw (w : Fin 32) (s : State) : Host.Outcome State Fault Refusal :=
  .next
    (match (s.down[w]).sent with
     | .withdraw c inst :: _ =>
       let s := s.popDown w
       let b := (s.coreAt c).shadow
       if b.valid && b.inst = inst then (s.setShadow c { b with valid := false }).toLantern c (.wdone c inst true)
       else s.toLantern c (.wdone c inst false)
     | _ => s)

/-! ## The halt (R356 to R358) -/

/-- A halt request reaches a core that runs a row group of an instance; a second one is discarded (R371), and a stop becomes a halt
(R389). -/
def State.askHalt (s : State) (inst : BitVec 24) (c : CoreId) : State :=
  let k := s.coreAt c
  if k.g.run.isSome && k.g.bank.inst = inst && k.ending.isNone && k.halted.isNone && k.haltReq.isNone then
    s.setCoreAt c { k with haltReq := some .preempt, stopHalt := k.dbg.stopped, dbg := { k.dbg with stopped := false } }
  else s

/-- PREEMPT (R356). -/
def execPreempt (w : Fin 32) (s : State) : Host.Outcome State Fault Refusal :=
  .next
    (match (s.down[w]).sent with
     | .preempt cores inst :: _ => cores.foldl (fun s c => s.askHalt inst c) (s.popDown w)
     | _ => s)

/-- Is a read of the AS a PGREF, whose step a halt awaits (R356). -/
def AsRead.isPgref : AsRead → Bool
  | .pgref .. => true
  | _ => false

/-- Has the ME of core `c` come to its halt point (R356): no command is starting, each that runs is at a step boundary, and a guest
that works for it has returned its partial (R281). -/
def State.meHalts (s : State) (c : CoreId) : Bool :=
  let h := { s.onCore c with ring := .me }
  (h.rq.queue.all fun cmd =>
      match cmd.phase with
      | .starting => false
      | .running => cmd.migrated || h.atBoundary cmd
      | _ => true) &&
    !s.cores.toList.any fun x => x.guest.any fun w => w.home = c

/-- Is a message of a channel of core `c` abandoned at the halt: bytes or a step whose source read has not returned, and an add that has not
been made (R358; log entry 97; DEDUCED). -/
def State.abandoned (s : State) (c : CoreId) (r : Ring) (f : Flight) : Bool :=
  s.ownFlight c f && f.path = ringPath r &&
    (match f.cargo with
     | .bytes _ | .combine .. | .cas .. => (s.coreAt c).cycle < f.after
     | .csig _ => true
     | _ => false)

/-- The commands of a channel without the combining steps that are abandoned: their progress is the first of them, since steps leave in
order (R250, R358). -/
def dropSteps (l : List Flight) (cmd : Cmd) : Cmd :=
  l.foldl (fun (cmd : Cmd) (f : Flight) =>
    if f.isStep && cmd.first ≤ f.lo && f.lo < cmd.first + cmd.total then
      { cmd with progress := min cmd.progress ((f.lo - cmd.first) / f.len) }
    else cmd) cmd

/-- Is a command a CSIG that has started and whose add has not been made (R358). -/
def Cmd.unsigned (cmd : Cmd) : Bool := isSig cmd.instr && cmd.phase = .running && !cmd.added && !cmd.squashed

/-- The FIFO with a token back at its head. -/
def Fifo.unpop (f : Fifo) : Fifo := { f with toks := .ready 0 :: f.toks }

/-- The tokens that a command popped are back in their FIFOs. -/
def Group.unpop (g : Group) (e : Eng) (h : CmdHdr) : Group :=
  let g := if h.popL then g.modFifo (popFifo e .left) Fifo.unpop else g
  if h.popR then g.modFifo (popFifo e .right) Fifo.unpop else g

/-- A channel's CSIG whose add has not been made is as it was before its start, its tokens back in their FIFOs (R358; log entry 97;
DEDUCED). -/
def Group.unstart (g : Group) (r : Ring) : Group :=
  match (g.ringOf r).queue.find? Cmd.unsigned with
  | none => g
  | some cmd =>
    (g.unpop (ringEng r) (cmdHdr cmd.instr)).modRing r fun q =>
      { q with queue := q.queue.map fun x => if x.unsigned then { x.calm with phase := .queued, progress := 0, units := 0 } else x }

/-- A channel's source reads that have not returned by the halt are abandoned, with what they were to send, and so is an add that has not
been made (R358). -/
def State.abandonReads (s : State) (c : CoreId) (r : Ring) : State :=
  let l := s.net.filter (s.abandoned c r)
  let s := { s with net := s.net.filter fun f => !s.abandoned c r f }
  s.modGAt c fun g => (g.modRing r fun q => { q with queue := q.queue.map (dropSteps l) }).unstart r

/-- CORE_HALTED (R356, R357): every engine has reached its halt point. -/
def execCoreHalted (c : CoreId) (s : State) : Host.Outcome State Fault Refusal :=
  .next
    (let k := s.coreAt c
     match k.haltReq with
     | some kind =>
       if k.g.run.isSome && k.ending.isNone && k.halted.isNone && !k.g.asReads.any AsRead.isPgref && s.meHalts c then
         let s := ((s.openWaits c).abandonReads c .ch0).abandonReads c .ch1
         s.setCoreAt c { s.coreAt c with haltReq := none, halted := some kind, haltWait := 0, haltAt := k.cycle }
       else s
     | none => s)

/-- Is a command a combining one, whose steps a halt awaits (R358). -/
def isCombining : Instr → Bool
  | .accw .. | .fetchop .. | .cas .. => true
  | _ => false

/-- The rings of core `c` that still have combining steps, their returns or an MSIG under way (R358). -/
def State.stepsOpen (s : State) (c : CoreId) : List Ring :=
  [Ring.me, .ch0, .ch1].filter fun r =>
    let comb := ((s.coreAt c).g.ringOf r).queue.any fun cmd => cmd.phase = .running && isCombining cmd.instr
    s.net.any fun f => s.ownFlight c f && f.path = ringPath r &&
      (match f.cargo with
       | .combine .. | .cas .. | .csig .. => true
       | .bytes _ => comb
       | _ => false)

/-- A cycle of a halted core in which combining steps are open: one more than WAITMAX of them terminate the row group (R358). -/
def State.haltCycle (s : State) (c : CoreId) : State :=
  let k := s.coreAt c
  if k.halted.isNone || k.ending.isSome then s
  else match (s.stepsOpen c).filter fun r => r != .me with
    | [] => s
    | r :: _ =>
      if k.g.waitMax < k.haltWait + 1 then
        let hdr := (((k.g.ringOf r).queue.head?).map Cmd.hdrPc).getD 0
        s.terminate c (termRecord Cause.waitTimeout.code (ringEng r) false hdr 10)
      else s.setCoreAt c { k with haltWait := k.haltWait + 1 }

/-! ## The save (R357, R358, R362 to R365) -/

/-- The counts of a copy command's units before the p-th (R250). -/
def countBefore (q : RingState) (cmd : Cmd) (p : Nat) : Nat :=
  match (cmd.recs[0]?).bind fun n => q.records[n] with
  | none => 0
  | some o =>
    match o.dst with
    | none => 0
    | some d =>
      match cmd.instr, o.src with
      | .gather .., some a => unitCount d (agCount a 0) p
      | _, _ => unitCount d (agCount d 0) p

/-- A copy command set back to its first undelivered count: to the unit that holds it, of which the bytes below it are not sent
again, and whose index is read again (R358). -/
def cmdRewind (q : RingState) (cmd : Cmd) : Cmd :=
  let back : Cmd :=
    { cmd.calm with
      progress := ((List.range (cmd.progress + 1)).reverse.find? fun p => cmd.first + countBefore q cmd p ≤ q.wp).getD 0
      skip := q.wp, row := none }
  match cmd.phase, cmd.instr with
  | .running, .copy .. => back
  | .running, .gather .. => back
  | .running, .scatter .. => back
  | .running, .fill .. => back
  | _, _ => cmd.calm

/-- Are counts those of a combining command of the ring, whose steps are not made again after a restore (R358). -/
def RingState.stepCounts (q : RingState) (e : Nat × Nat) : Bool :=
  q.queue.any fun cmd => isCombining cmd.instr && cmd.first ≤ e.1 && e.1 < cmd.first + cmd.total

/-- A ring as it is saved: copy commands at their progress, and the bytes that they have delivered above the write pointer to be counted
again. -/
def RingState.toSave (q : RingState) : RingState :=
  { q with queue := q.queue.map (cmdRewind q), landed := q.landed.filter q.stepCounts, doneAt := 0 }

/-- A semaphore whose steps are all of earlier cycles. -/
def Sem.settled (m : Sem) : Sem := { base := m.value, at_ := 0, ups := [], pre := m.base, last := m.ups }

/-- The row group as it is saved: every wait count and remote request starts again (R366). -/
def Group.toSave (g : Group) : Group :=
  let calm : Seq → Seq := fun q => { q with waited := 0, waitFrom := 0, remote := .idle }
  { g with sems := g.sems.map Sem.settled, as_ := calm g.as_, xs := calm g.xs, me := g.me.toSave, ch0 := g.ch0.toSave, ch1 := g.ch1.toSave }

/-- A CSIG or MSIG of core `c` whose add has been made completes at the halt, where its pushes find room (R358). -/
def State.finishSigs (s : State) (c : CoreId) : State :=
  [Ring.me, .ch0, .ch1].foldl (fun s r =>
    let h := { s.onCore c with ring := r }
    match h.rq.queue with
    | cmd :: _ => if isSig cmd.instr && h.headCompletes then h.finishHead else s
    | [] => s) s

/-- The save-frame slots of core `c` that are not in use (R362). -/
def State.freeSlot (s : State) (c : CoreId) : Option (Fin 4) :=
  ((List.range 4).find? fun j => !s.saved.any fun v => v.core = c && v.slot.val = j).map (Fin.ofNat 4)

/-- The device address of a save frame: four frames of 6 MiB for each core of the die (R362; the order is log entry 52's). -/
def frameAddr (base : Word) (c : CoreId) (slot : Fin 4) : Nat := base.toNat + (c.val % 128 * 4 + slot.val) * 0x600000

/-- A core whose row group has left it: nothing runs. -/
def Core.vacated (k : Core) : Core :=
  { k with
    g := { (k.g.discard false).left with releases := [] }
    halted := none, haltReq := none, haltWait := 0, stopHalt := false, dbg := { k.dbg with stopReq := false, stopped := false } }

/-- The source of the stop that a halted core's row group takes again after its restore (R388, R389). -/
def Core.stopLater (k : Core) : Option (BitVec 3) := if k.stopHalt then some k.dbg.src else if k.dbg.stopReq then some 4 else none

/-- SAVE_COMPLETE (R357, R358, R367): the frame is written, and SAVED is sent. -/
def execSaveComplete (c : CoreId) (s : State) : Host.Outcome State Fault Refusal :=
  .next
    (let k := s.coreAt c
     match k.halted, s.freeSlot c, s.savePool[dieOf c] with
     | some kind, some slot, some base =>
       if k.ending.isSome || !(s.stepsOpen c).isEmpty then s
       else
         let addr := frameAddr base c slot
         let inst := k.g.bank.inst
         let s := ((s.finishSigs c).logSems c).modGAt c Group.toSave
         let s := s.writeFrame c (match kind with
           | .preempt => 1
           | .yield => 2) addr
         let v : Saved :=
           { core := c, slot := slot, addr := BitVec.ofNat 64 addr, kind := kind, inst := inst, g := (s.coreAt c).g, evicted := 0,
             stopPending := k.stopLater }
         let s := { s with saved := s.saved ++ [v] }
         (s.setCoreAt c (s.coreAt c).vacated).toLantern c (.saved c inst)
     | _, _, _ => s)

/-! ## Eviction and refill (R368, R369) -/

/-- The key of a partition of a core's scratchpad. -/
def partKey (c : CoreId) (k : Nat) : Nat := sramKey c (k * 0x100000)

/-- The key of a partition's place in a save frame (R362). -/
def Saved.partKey (v : Saved) (k : Nat) : Nat := devKey (v.addr.toNat + 0x200000 + k * 0x100000)

/-- The state with a saved row group changed. -/
def State.modSaved (s : State) (v : Saved) (f : Saved → Saved) : State :=
  { s with saved := s.saved.map fun x => if x.core = v.core && x.inst = v.inst then f x else x }

/-- The evicted partitions of a saved row group back in their scratchpad. -/
def State.refill (s : State) (v : Saved) : State :=
  (List.range 4).foldl (fun s k => if v.evicted.getLsbD k then s.copyMem (v.partKey k) (partKey v.core k) 0x100000 else s) s

/-- A saved row group ends with SOFT_ERROR, as an uncorrectable error in a partition's eviction or refill, or in the state sections of its
frame, has it (R354, R368): its report and its dump are those of the row group put back on its core. -/
def State.endSaved (s : State) (v : Saved) (key : Nat) : State :=
  let back := (s.refill v).setCoreAt v.core { s.coreAt v.core with g := v.g }
  let rows := (List.range v.g.rowCount).map (back.rowReport v.core)
  let dumped := if s.dumpPds.contains v.g.bank.pd.toNat then back.dump v.core 3 else (back, 0xFFFF)
  let s := { s with
    mem := s.mem.filter (fun (e : Nat × Byte) => e.1 < spaceSize) ++ dumped.1.mem.filter fun (e : Nat × Byte) => spaceSize ≤ e.1
    dumpUsed := dumped.1.dumpUsed, fresh := dumped.1.fresh, saved := s.saved.filter fun x => !(x.core = v.core && x.inst = v.inst) }
  let s := (s.dropWaitingPins v.g).dropPins v.g
  let s := s.modInst v.inst fun i => { i with groups := i.groups.map fun x => if x.core = v.core then { x with gone := true } else x }
  let s := s.dropHeld v.core v.inst
  s.toLantern v.core
    (.ended v.core v.inst .terminated (termRecord Cause.softError.code .none false 0 (BitVec.ofNat 32 key)) dumped.2
      (v.g.fsr ||| v.g.flagWord) rows)

/-- One partition of a saved row group evicted into its frame, or the end of the row group (R368). -/
def State.evictOne (s : State) (v : Saved) (k : Nat) : State :=
  match s.poisonAt (partKey v.core k) 0x100000 with
  | some bad => s.endSaved v bad
  | none =>
    (s.copyMem (partKey v.core k) (v.partKey k) 0x100000).modSaved v fun x => { x with evicted := x.evicted ||| BitVec.ofNat 4 (2 ^ k) }

/-- The partitions that staged work declares are evicted from the row groups saved from the core (R368). -/
def State.evict (s : State) (c : CoreId) (parts : BitVec 4) (keep : BitVec 24) : State :=
  (s.saved.filter fun v => v.core = c && v.inst != keep).foldl (fun s v =>
    (List.range 4).foldl (fun s k =>
      match s.saved.find? fun x => x.core = c && x.inst = v.inst with
      | some x =>
        if parts.getLsbD k && x.g.desc.parts.getLsbD k && !x.evicted.getLsbD k then s.evictOne x k else s
      | none => s) s) s

/-! ## Swap-in (R21, R64, R69 to R81, R93, R96, R214, R306 to R313, R366) -/

/-- The owner tag that a swap-in gives a quarter of a declared partition (R214). -/
def quarterTag (pd : BitVec 12) (taps : Bool) (n : Nat) : Owner := if taps && n = 15 then .tap else .pd pd

/-- The partitions of a node scrubbed where a quarter's tag is not the one it is about to take (R64), and the tags set (R214). -/
def State.scrub (s : State) (c : CoreId) (pd : BitVec 12) (d : NodeDesc) : State :=
  let k := s.coreAt c
  let taps := decide (0 < d.ntaps)
  let s := (List.range 4).foldl (fun s p =>
    if d.parts.getLsbD p &&
        (List.range 4).any (fun j => k.owner[Fin.ofNat 16 (4 * p + j)] != quarterTag pd taps (4 * p + j)) then
      s.clearMem (partKey c p) 0x100000
    else s) s
  s.setCoreAt c
    { s.coreAt c with
      owner := Vector.ofFn fun (n : Fin 16) => if d.parts.getLsbD (n.val / 4) then quarterTag pd taps n.val else k.owner[n] }

/-- The tags of a restored row group's quarters (R366). -/
def State.retag (s : State) (c : CoreId) (pd : BitVec 12) (d : NodeDesc) : State :=
  let k := s.coreAt c
  s.setCoreAt c
    { k with
      owner := Vector.ofFn fun (n : Fin 16) =>
        if d.parts.getLsbD (n.val / 4) then quarterTag pd (decide (0 < d.ntaps)) n.val else k.owner[n] }

/-- The local offset of a node's row area: its lowest-numbered declared partition (R21). -/
def rowAreaBase (d : NodeDesc) : Nat := (((List.range 4).find? fun k => d.parts.getLsbD k).getD 0) * 0x100000

/-- The row records of a group written into its row area (R21, R64). -/
def State.writeRows (s : State) (c : CoreId) (base : Nat) (rows : List InstRow) : State :=
  s.writeMem (((List.range rows.length).zip rows).flatMap fun r =>
    ((List.range 16).zip r.2.words).flatMap fun w => leCells (sramKey c (base + 128 * r.1 + 8 * w.1)) 8 w.2.toNat)

/-- The words preloaded into a ring (R96). -/
def State.preload (s : State) (c : CoreId) (pd : BitVec 12) (code : Word) (r : RingDesc) : State :=
  s.writeMem ((List.range (4 * r.pre)).map fun k => (sramKey c (r.base + k), s.imageByte pd code (r.img + k)))

/-- A ring at swap-in (R70, R96, R241). -/
def ringAt (r : RingDesc) : RingState :=
  { RingState.fresh with base := r.base, log2n := r.log2n, pub := BitVec.ofNat 32 r.pre, cursor := BitVec.ofNat 32 r.pre }

/-- The tap sites of a node (R306). -/
def State.tapSites (s : State) (pd : BitVec 12) (d : NodeDesc) : List TapSite :=
  (List.range d.ntaps).map fun k =>
    let w := s.imageLE pd d.code (d.tapImg + 16 * k) 8
    { layer := fld w 48 16, d := fld w 32 16 + 1, probeFirst := fld w 30 2 = 1, post := bit w 29, sslot := fld w 27 2 }

/-- The four words of an entry of an operator's table (R308, R309). -/
def State.tapEntry (s : State) (base : Word) (n : Nat) : List Nat :=
  (List.range 4).map fun k => readLE s.mem (devKey (base.toNat + 32 * n + 8 * k)) 8

/-- The probes in force for a set and a layer, with D of each: an entry with a reserved bit set is not in force (R308, R309). -/
def State.layerProbes (s : State) (set layer : Nat) : List (Nat × Probe) :=
  (List.range 256).filterMap fun n =>
    match s.tapEntry s.front.probeBase n with
    | [w, a, bt, z] =>
      if bit w 63 && fld w 56 5 = 0 && fld w 16 16 = 0 && z = 0 && set != 0 && fld w 48 8 = set && fld w 32 16 = layer then
        some (fld w 0 16 + 1,
          { idx := n, below := bit w 62, bf16 := bit w 61, waddr := BitVec.ofNat 64 a, bias := BitVec.ofNat 32 (fld bt 32 32)
            thr := BitVec.ofNat 32 (fld bt 0 32) })
      else none
    | _ => none

/-- The steering entry of a set for a layer, with its D (R309). -/
def State.layerSteer (s : State) (set layer : Nat) : Option (Nat × Bool × Word) :=
  match s.tapEntry s.front.steerBase set with
  | [w, a, y, z] =>
    if bit w 63 && fld w 48 14 = 0 && fld w 16 16 = 0 && y = 0 && z = 0 && fld w 32 16 = layer then
      some (fld w 0 16 + 1, bit w 62, BitVec.ofNat 64 a)
    else none
  | _ => none

/-- The binding of a row at a site, and how many entries are passed over for it (R309): `coefs` is the row record's STEERCOEF. -/
def State.bindTap (s : State) (x : Ctx) (row site : Nat) (t : TapSite) (coefs : Word) : TapBind × Nat :=
  let all := s.layerProbes x.probeSet.toNat t.layer
  let fit := (all.filter fun e => e.1 = t.d).map Prod.snd
  let st := if x.steerEn then s.layerSteer x.steerSet.toNat t.layer else none
  let steer := st.bind fun e => if e.1 = t.d then some (x.steerSet.toNat, e.2) else none
  let missed := (all.filter fun e => e.1 != t.d).length + (fit.length - 4) + (if st.isSome && steer.isNone then 1 else 0)
  ({ row := row, site := site, probeSet := x.probeSet, coefs := coefs, probes := fit.take 4, steer := steer, coef := BitVec.ofNat 32 (fld coefs.toNat (16 * t.sslot) 16 * 65536) },
    missed)

/-- The row table of a row group, and how many entries were passed over (R309, R310, R313). -/
def State.tapTableOf (s : State) (rows : List InstRow) (sites : List TapSite) : List TapBind × Nat :=
  let l := ((List.range rows.length).zip rows).flatMap fun r =>
    ((List.range sites.length).zip sites).map fun t =>
      s.bindTap (s.ctxAt (ctxIndex r.2.ctx)) r.1 t.1 t.2 ((r.2.words[3]?).getD 0)
  (l.map Prod.fst, (l.map Prod.snd).sum)

/-- RLEN of a row record that a swap-in copies (R22). -/
def InstRow.len (r : InstRow) : Nat := fld ((r.words[0]?).getD 0).toNat 32 16

/-- A row group as swap-in without RESUME makes it (R64, R69, R70, R312). -/
def freshGroup (b : LaunchBank) (d : NodeDesc) (taps : List TapSite) (table : List TapBind) (lens : List Nat) : Group :=
  let seq : Nat → Seq := fun pc => { Seq.fresh with pc := BitVec.ofNat 32 pc }
  { Group.fresh with
    run := some { bank := { b with valid := true }, desc := d, taps := taps, rowBase := rowAreaBase d, lens := lens }
    as_ := seq d.asEntry, xs := seq d.xsEntry, me := ringAt d.me, ch0 := ringAt d.ch0, ch1 := ringAt d.ch1
    sites := Vector.ofFn fun (k : Fin 8) => if k.val < d.ntaps then { SiteState.zero with ahead := 1 } else SiteState.zero
    tapTable := table }

/-- The semaphore accesses held for an instance are applied in their order of arrival (R289): all come from other cores, which R285
ranks alike. -/
def State.applyHeld (s : State) (c : CoreId) (inst : BitVec 24) : State := s.takeHeld c inst fun s h => s.actHeld c h

/-- The code windows exchange roles, VALID is cleared, and STARTED is sent (R64, R69). -/
def State.startCore (s : State) (c : CoreId) (b : LaunchBank) : State :=
  let k := s.coreAt c
  (s.setCoreAt c { k with active := !k.active, shadow := { b with valid := false } }).toLantern c (.started c b.inst)

/-- Swap-in of a launch (R64, steps 1, 2 and 4). -/
def State.swapLaunch (s : State) (c : CoreId) (b : LaunchBank) : State :=
  let d := s.bankDesc b
  let rows := (((s.inst b.inst).map Inst.rows).getD []).drop b.rowFirst |>.take b.rowCount
  let s := (s.evict c d.parts b.inst).scrub c b.pd d
  let s := s.writeRows c (rowAreaBase d) rows
  let s := ((s.preload c b.pd d.code d.me).preload c b.pd d.code d.ch0).preload c b.pd d.code d.ch1
  let taps := s.tapSites b.pd d
  let table := s.tapTableOf rows taps
  let s := { s with mgmt := { s.mgmt with tapPassed := s.mgmt.tapPassed + table.2 } }
  let s := s.setCoreAt c { s.coreAt c with g := freshGroup b d taps table.1 (rows.map InstRow.len), ending := none, halted := none, haltReq := none }
  (s.applyHeld c b.inst).startCore c b

/-- The reads of the AS that a halt abandoned are issued again, translated anew (R366, step 5). -/
def Group.reissue (g : Group) (now : Nat) (pieces : Word → Nat → List Piece) : Group :=
  { g with
    asReads := g.asReads.map fun r =>
      match r with
      | .queue no _ pc rt q a o n x _ => .queue no now pc rt q a o n x (pieces a (elemBytes o n))
      | .stream no _ pc rt k a _ => .stream no now pc rt k a (pieces a 128)
      | r => r }

/-- The token walk's RLENs read from the row area at swap-in (R313). -/
def State.readLens (s : State) (c : CoreId) : State :=
  let l := (List.range (s.coreAt c).g.rowCount).map (s.rowLen c)
  s.modGAt c fun g => { g with run := g.run.map fun r => { r with lens := l } }

/-- The first poisoned byte that the swap-in of a saved row group reads: of its frame's state sections, or of a partition that was evicted
(R354, R366, R368). -/
def State.savedPoison (s : State) (v : Saved) : Option Nat :=
  let frame := devKey v.addr.toNat
  (s.poisonAt frame (readLE s.mem (frame + 0x14) 4)).orElse fun _ =>
    (List.range 4).findSome? fun k => if v.evicted.getLsbD k then s.poisonAt (v.partKey k) 0x100000 else none

/-- Swap-in of a saved row group (R64, R366): a stop that a pre-emption came upon is taken again (R389). -/
def State.swapResume (s : State) (c : CoreId) (b : LaunchBank) (v : Saved) : State :=
  let s := s.evict c v.g.desc.parts v.inst
  match s.savedPoison v with
  | some bad => (s.endSaved v bad).setShadow c { b with valid := false }
  | none =>
    let s := (s.refill v).retag c b.pd v.g.desc
    let s := { s with saved := s.saved.filter fun x => !(x.core = c && x.inst = v.inst) }
    let s := s.setCoreAt c
      { s.coreAt c with g := v.g.reissue (s.coreAt c).cycle (s.readPieces v.g.bank.pd), ending := none, halted := none, haltReq := none }
    let s := (s.readLens c).applyHeld c b.inst
    let s := s.startCore c b
    match v.stopPending with
    | some src => s.stopCore c src
    | none => s

/-- SWAP_IN (R64): a core with a staged bank, no row group and no guest work takes the bank up. -/
def execSwapIn (c : CoreId) (s : State) : Host.Outcome State Fault Refusal :=
  .next
    (let k := s.coreAt c
     let b := k.shadow
     if !b.valid || k.g.run.isSome || k.guest.isSome then s
     else if !b.resume then s.swapLaunch c b
     else match s.saved.find? fun v => v.core = c && v.inst = b.inst with
       | some v => s.swapResume c b v
       | none => s.setShadow c { b with valid := false })

/-! ## Retirement (R374) -/

/-- Has a ring of core `c` no command left below its publish count (R70, R374): the words of one published in part are none. -/
def State.drained (s : State) (c : CoreId) (r : Ring) : Bool :=
  let q := (s.coreAt c).g.ringOf r
  q.queue.isEmpty && (q.pc = q.pub || (q.pub - q.pc).toNat < fld (readLE s.mem (ringKey c q q.pc) 4) 23 3 + 1)

/-- Is a token still reserved. -/
def Token.isReserved : Token → Bool
  | .reserved _ => true
  | _ => false

/-- Do the conditions of R374 hold on core `c`. -/
def State.mayRetire (s : State) (c : CoreId) : Bool :=
  let g := (s.coreAt c).g
  (s.coreAt c).runs && g.xs.exited && g.as_.exited && g.xs.pend.isEmpty && g.as_.pend.isEmpty && g.asReads.isEmpty && g.storeQ.isEmpty
    && s.drained c .me && s.drained c .ch0 && s.drained c .ch1 && g.releases.isEmpty && !s.net.any (s.ownFlight c)
    && g.fifos.toList.all fun f => !f.toks.any Token.isReserved

/-- RETIREMENT (R374): the row group's records, slots, banks and bindings are freed, and ENDED reports its rows. -/
def execRetirement (c : CoreId) (s : State) : Host.Outcome State Fault Refusal :=
  .next (if s.mayRetire c then s.endGroup c .retired 0 0xFFFF else s)

end Sys2Proof.Machine
end

