-- ==== Sys2Proof/Machine/Pages.lean ====
section
/-! DEFINITION. What the Lantern and the Tenders share: contexts and their states (R8, R10), KV page tables and the references of pages
(R220 to R222, R334), and the frames of the levels (R226). -/

namespace Sys2Proof.Machine

/-! ## Contexts (R6, R8, R10) -/

/-- The state with a Light List entry set. -/
def State.setCtx (s : State) (i : Nat) (x : Ctx) : State := { s with lan := { s.lan with ctxs := Tab.set Ctx.reset s.lan.ctxs i x } }

/-- The state with a Light List entry changed. -/
def State.modCtx (s : State) (i : Nat) (f : Ctx → Ctx) : State := s.setCtx i (f (s.ctxAt i))

/-- The handle of a context (R6). -/
def handleOf (i : Nat) (x : Ctx) : BitVec 32 := BitVec.ofNat 32 (x.gen.toNat * 131072 + i % 131072)

/-- Does a handle name a context: its generation is the entry's (R6). -/
def State.names (s : State) (h : BitVec 32) : Bool := handleOf (ctxIndex h) (s.ctxAt (ctxIndex h)) = h

/-- The state with a context's STATE and PARK_REASON changed now (R10). -/
def State.toState (s : State) (i : Nat) (st : CtxState) (r : ParkReason) : State :=
  s.modCtx i fun x => { x with st := st, reason := r, since := s.now }

/-! ## KV page tables (R220, R221) -/

/-- The state with the leaf entry of a page written, where its leaf exists (R220). -/
def State.setLeaf (s : State) (kvroot : Word) (page gpn vlen : Nat) : State :=
  match s.leafAddr kvroot page with
  | some a => s.writeMem (leCells (devKey a) 8 (vlen * 2 ^ 32 + gpn))
  | none => s

/-- The mapped pages of a page table: page index, GPN and VLEN. -/
def State.mappedPages (s : State) (kvroot : Word) : List (Nat × Nat × Nat) :=
  (List.range 512).flatMap fun i =>
    match s.leafAddr kvroot (512 * i) with
    | none => []
    | some _ =>
      (List.range 512).filterMap fun j =>
        let l := s.leaf kvroot (512 * i + j)
        if l.1 = 0 then none else some (512 * i + j, l.1, l.2)

/-- One reference on a page less; a page without any is freed, once it neither moves nor is pinned (R222, R230, R334). A page that was
shared has no owner (R222). -/
def State.dropRef (s : State) (gpn : Nat) : State :=
  let e := s.page gpn
  if e.refs ≤ 1 then
    if e.level = .moving || e.pins != 0 then s.setPage gpn { e with refs := 0, owner := 0 } else s.setPage gpn DirEntry.free
  else s.setPage gpn { e with refs := e.refs - 1 }

/-- One reference on a page more (R335, R337): a page with two is shared. -/
def State.addRef (s : State) (gpn : Nat) : State :=
  let e := s.page gpn
  s.setPage gpn { e with refs := e.refs + 1, owner := if e.refs = 0 then e.owner else 0 }

/-- The mapped pages of a context from a page index on are unmapped (R334, R338). -/
def State.unmapFrom (s : State) (kvroot : Word) (first : Nat) : State :=
  (s.mappedPages kvroot).foldl (fun s p => if first ≤ p.1 then (s.setLeaf kvroot p.1 0 0).dropRef p.2.1 else s) s

/-- The Mooring leaf `n` steps above a leaf, or 0 (R335). -/
def moorUp (l : List MoorLeaf) : Nat → Nat → Nat
  | 0, id => id
  | n + 1, id =>
    match l.find? fun (x : MoorLeaf) => x.id = id with
    | some x => moorUp l n x.parent
    | none => 0

/-- The trim of R334 on a context whose row was fixed with cut `v`. -/
def State.trim (s : State) (i v : Nat) : State :=
  let x := s.ctxAt i
  let npc := s.params.npc
  let s := s.unmapFrom x.kvroot ((v + 15) / 16 * npc)
  let s := if v % 16 = 0 then s else
    (List.range npc).foldl (fun s k =>
      let l := s.leaf x.kvroot (v / 16 * npc + k)
      if l.1 = 0 then s else s.setLeaf x.kvroot (v / 16 * npc + k) l.1 (min l.2 (v % 16 * 64))) s
  let m := min x.mchunks.toNat (v / 16)
  s.modCtx i fun x =>
    { x with
      mchunks := BitVec.ofNat 16 m
      mleaf := BitVec.ofNat 32 (moorUp s.tender.leaves (x.mchunks.toNat - m) x.mleaf.toNat) }

/-- A context is released (R11): its Mooring references and pages are given up, the tables that the device allocated for it are freed
(R228), GEN is incremented, and every other field is reset. -/
def State.freeCtx (s : State) (i : Nat) : State :=
  let x := s.ctxAt i
  let h := handleOf i x
  let s := s.unmapFrom x.kvroot 0
  let s := { s with
    tender := { s.tender with
      tables := s.tender.tables.filter fun t => t.2 != h
      saves := s.tender.saves.filter fun (v : SaveArea) => v.ctx != i } }
  s.setCtx i { Ctx.reset with gen := x.gen + 1, since := s.now }

/-! ## Frames and tables (R226) -/

/-- The frames of a level on a die, as a base and a count; those of SRAM are on the staging cores. -/
def State.area (s : State) (d : Fin 4) (l : Level) : Nat × Nat :=
  match l with
  | .pool => s.params.pool[d]
  | .hbm => s.params.hbm[d]
  | .sram => (0, 64 * (s.params.staging.filter fun c => dieOf c = d).length)
  | _ => (0, 0)

/-- The k-th frame of a level on a die. -/
def State.frameOf (s : State) (d : Fin 4) (l : Level) (k : Nat) : Nat :=
  match l with
  | .sram => (((s.params.staging.filter fun c => dieOf c = d)[k / 64]?).map fun c => sramKey c (k % 64 * 65536)).getD 0
  | _ => (s.area d l).1 + 65536 * k

/-- Is a frame in use: it holds a page, a move comes from it or goes to it, an export image holds it, or a save area lies in it
(R46, R222, R228, R229). -/
def State.frameUsed (s : State) (l : Level) (a : Nat) : Bool :=
  (s.dir.any fun (e : Nat × DirEntry) => e.2.level == l && e.2.loc.toNat == a)
    || (s.tender.moves.any fun (m : Move) => (m.dest == l && m.dst.toNat == a) || (m.source == l && m.src.toNat == a))
    || (l == .pool && (s.tender.exported.contains a || s.tender.saves.any fun (v : SaveArea) => v.frame == a))

/-- The free frame of a level on a die that a choice takes: the first one from the `pick`-th on, going round (R228). -/
def State.freeFrame (s : State) (d : Fin 4) (l : Level) (pick : Nat) : Option Nat :=
  let n := (s.area d l).2
  (((List.range n).map fun k => s.frameOf d l ((pick + k) % n)).find? fun a => !s.frameUsed l a)

/-- The memory key of a frame of a level. -/
def frameKey (l : Level) (a : Nat) : Nat :=
  match l with
  | .pool => poolKey a
  | .sram => a
  | _ => devKey a

/-- The free page table of a die that a choice takes. -/
def State.freeTable (s : State) (d : Fin 4) (pick : Nat) : Option Nat :=
  let n := (s.params.tables[d]).2
  (((List.range n).map fun k => (s.params.tables[d]).1 + 4096 * ((pick + k) % n)).find? fun a =>
    !s.tender.tables.any fun (t : Nat × BitVec 32) => t.1 == a)

/-- A zero-filled page table allocated for a context (R226, R228). -/
def State.takeTable (s : State) (a : Nat) (h : BitVec 32) : State :=
  let s := s.clearMem (devKey a) 4096
  { s with tender := { s.tender with tables := s.tender.tables ++ [(a, h)] } }

/-- The page table of context `i` with a root, taken from die `d`'s area if there is none (R228); none where the area has no free table. -/
def State.withRoot (s : State) (d : Fin 4) (i pick : Nat) : Option State :=
  if (s.ctxAt i).kvroot = 0 then
    (s.freeTable d pick).map fun a =>
      (s.takeTable a (handleOf i (s.ctxAt i))).modCtx i fun x => { x with kvroot := BitVec.ofNat 64 a }
  else some s

/-- The page table of context `i` with a valid root and a valid leaf for a page, allocating what is missing from die `d`'s area; none
where the area has no free table (R228, R337). -/
def State.withLeaf (s : State) (d : Fin 4) (i page pick : Nat) : Option State :=
  (s.withRoot d i pick).bind fun s =>
    let root := (s.ctxAt i).kvroot
    match s.leafAddr root page with
    | some _ => some s
    | none =>
      (s.freeTable d (pick / 2 ^ 32)).map fun a =>
        (s.takeTable a (handleOf i (s.ctxAt i))).writeMem (leCells (devKey (root.toNat + 8 * (page / 512 % 512))) 8 (a + 1))

end Sys2Proof.Machine
end

