-- ==== Sys2Proof/Machine/Retire.lean ====
section
/-! DEFINITION. The ready pool (R53, R55 to R57), completion queues (R377 to R380), commit (R376), and what the Lantern does with the
messages of the wicks (R49, R63, R66). -/

namespace Sys2Proof.Machine

/-! ## The ready pool (R53, R55, R57) -/

/-- A class's share (R24). -/
def State.share (s : State) (c : Fin 8) : Nat := s.params.shares[c]

/-- A PD's weight (R25). -/
def State.weight (s : State) (pd : BitVec 12) : Nat := Tab.get 1 s.params.weights pd.toNat

/-- The READY contexts: the rows of the ready pool. -/
def State.readyRows (s : State) : List (Nat × Ctx) := s.lan.ctxs.filter fun (e : Nat × Ctx) => e.2.st == .ready

/-- The key of a class's virtual time. -/
def cvKey (pd : BitVec 12) (c : Fin 8) : Nat := pd.toNat * 8 + c.val

/-- The least of some numbers. -/
def leastOf : List Nat → Option Nat
  | [] => none
  | a :: l => some (l.foldl min a)

/-- The raising rules of R55 and R57, for a row of a PD and class that enters the pool whose rows are `ready`. -/
def Lantern.raise (s : State) (ready : List (Nat × Ctx)) (pd : BitVec 12) (c : Fin 8) : State :=
  let l := s.lan
  let vt :=
    if ready.any fun (e : Nat × Ctx) => e.2.pd == pd then l.vt
    else match leastOf (ready.map fun (e : Nat × Ctx) => Tab.get 0 l.vt e.2.pd.toNat) with
      | some v => Tab.set 0 l.vt pd.toNat (max v (Tab.get 0 l.vt pd.toNat))
      | none => l.vt
  let mine := ready.filter fun (e : Nat × Ctx) => e.2.pd == pd && s.share e.2.prio != 0
  let cv :=
    if s.share c = 0 || mine.any fun (e : Nat × Ctx) => e.2.prio == c then l.cv
    else match leastOf (mine.map fun (e : Nat × Ctx) => Tab.get 0 l.cv (cvKey pd e.2.prio)) with
      | some v => Tab.set 0 l.cv (cvKey pd c) (max v (Tab.get 0 l.cv (cvKey pd c)))
      | none => l.cv
  { s with lan := { l with vt := vt, cv := cv } }

/-- A table of virtual times with a value taken from the entries whose keys are chosen. -/
def lowerTab (p : Nat → Bool) (m : Nat) (t : Tab Nat) : Tab Nat :=
  (t.map fun (e : Nat × Nat) => if p e.1 then (e.1, e.2 - m) else e).filter fun (e : Nat × Nat) => e.2 != 0

/-- The normalisation of R55: virtual times carry 32 fraction bits. -/
def State.normalise (s : State) : State :=
  let ready := s.readyRows
  let limit := 2 ^ 80
  let vt := match leastOf (ready.map fun (e : Nat × Ctx) => Tab.get 0 s.lan.vt e.2.pd.toNat) with
    | some m => if limit < m then lowerTab (fun _ => true) m s.lan.vt else s.lan.vt
    | none => s.lan.vt
  let pds := (ready.map fun (e : Nat × Ctx) => e.2.pd).eraseDups
  let cv := pds.foldl (fun (cv : Tab Nat) (pd : BitVec 12) =>
    let mine := ready.filter fun (e : Nat × Ctx) => e.2.pd == pd && s.share e.2.prio != 0
    match leastOf (mine.map fun (e : Nat × Ctx) => Tab.get 0 cv (cvKey pd e.2.prio)) with
    | some m => if limit < m then lowerTab (fun k => k / 8 == pd.toNat) m cv else cv
    | none => cv) s.lan.cv
  { s with lan := { s.lan with vt := vt, cv := cv } }

/-- The row of context `i` enters the pool (R53), with the entry time given. -/
def State.poolRow (s : State) (i : Nat) (entry : Nat) : State :=
  let ready := s.readyRows
  let x := s.ctxAt i
  let s := Lantern.raise s ready x.pd x.prio
  ((s.toState i .ready .none).modCtx i fun x => { x with entry := entry, aged := false }).normalise

/-! ## Completion queues (R377 to R380) -/

/-- A completion queue. -/
def State.cqAt (s : State) (q : Nat) : CqDesc := Tab.get CqDesc.reset s.front.cqs q

/-- The state with a completion queue set. -/
def State.setCq (s : State) (q : Nat) (d : CqDesc) : State :=
  { s with front := { s.front with cqs := Tab.set CqDesc.reset s.front.cqs q d } }

/-- May a record be written: the queue is enabled and its ring is not full (R379). -/
def CqDesc.canWrite (d : CqDesc) : Bool := d.en && (d.tail.toNat + 1) % 2 ^ d.log2n.toNat != d.head.toNat

/-- The queue's interrupt is signalled (R380). -/
def State.cqInterrupt (s : State) (q : Nat) : State :=
  let d := s.cqAt q
  { (s.setCq q { d with fresh := 0 }) with msix := s.msix ++ [(q / 1024, d.vec.toNat)] }

/-- A record written at TAIL with the queue's PHASE (R378, R379), with the interrupt of the CN-th one (R380). -/
def State.writeComp (s : State) (q : Nat) (r : CompRec) : State :=
  let d := s.cqAt q
  let w0 := (r.words[0] : Word) ||| (if d.phase then 0x800000000000#64 else 0)
  let addr := d.base.toNat + 32 * d.tail.toNat
  let s := s.writeMem (leCells (hostKey addr) 32
    (w0.toNat + r.words[1].toNat * 2 ^ 64 + r.words[2].toNat * 2 ^ 128 + r.words[3].toNat * 2 ^ 192))
  let tail := (d.tail.toNat + 1) % 2 ^ d.log2n.toNat
  let s := s.setCq q
    { d with
      tail := BitVec.ofNat 16 tail, phase := if tail = 0 then !d.phase else d.phase
      fresh := d.fresh + 1, first := if d.fresh = 0 then s.now else d.first }
  if d.cn.toNat ≤ d.fresh + 1 then s.cqInterrupt q else s

/-- Has some row group that held the record's row not ended (R379). -/
def State.awaited (s : State) (r : CompRec) : Bool :=
  match s.inst r.after.1 with
  | some i => i.groups.any fun (g : InstGroup) => r.after.2.contains g.core && g.phase != .ended
  | none => false

/-- The records of a queue written, held or dropped as far as they may be, in at most `fuel` steps (R379). -/
def State.drainCq (s : State) (q : Nat) : Nat → State
  | 0 => s
  | fuel + 1 =>
    let d := s.cqAt q
    let next : State :=
      match d.due with
      | [] => s
      | r :: rest =>
        if s.awaited r then s
        else
          let d := { d with due := rest }
          if d.canWrite && d.held.isEmpty then State.drainCq ((s.setCq q d).writeComp q r) q fuel
          else if r.parked then State.drainCq (s.setCq q { d with plost := d.plost + 1 }) q fuel
          else State.drainCq (s.setCq q { d with held := d.held ++ [r] }) q fuel
    match d.held with
    | r :: rest => if d.canWrite then State.drainCq ((s.setCq q { d with held := rest }).writeComp q r) q fuel else next
    | [] => next

/-- Drain one queue; in FATAL no record is written (R405). -/
def State.drain (s : State) (q : Nat) : State :=
  if s.mgmt.phase = .fatal then s else s.drainCq q ((s.cqAt q).held.length + 2 * (s.cqAt q).due.length)

/-- Drain every queue. -/
def State.drainAll (s : State) : State := (s.front.cqs.map Prod.fst).foldl State.drain s

/-- A completion record (R378). -/
def compRec (parked : Bool) (status cause : Nat) (tag ctx : BitVec 32) (node dump : BitVec 16) (term : Word) (accepted posinfo : BitVec 32)
    (after : BitVec 24 × List CoreId) : CompRec :=
  { parked := parked, after := after
    words := #v[BitVec.ofNat 64 (status * 2 ^ 56 + cause * 2 ^ 48 + tag.toNat),
      BitVec.ofNat 64 (ctx.toNat * 2 ^ 32 + node.toNat * 2 ^ 16 + dump.toNat), term,
      BitVec.ofNat 64 (accepted.toNat * 2 ^ 32 + posinfo.toNat)] }

/-- A record due to a queue (R379); none is written once the package is in FATAL (R405). -/
def State.complete (s : State) (q : Nat) (r : CompRec) : State :=
  if s.mgmt.phase = .fatal then s
  else
    let d := s.cqAt q
    (s.setCq q { d with due := d.due ++ [r] }).drain q

/-- CQ_COALESCE_TIMEOUT (R380): CT µs after the first record that no interrupt covers. -/
def execCqCoalesceTimeout (q : Fin 4096) (s : State) : Host.Outcome State Fault Refusal :=
  let d := s.cqAt q.val
  .next (if 0 < d.fresh && d.first + d.ct.toNat * 1000 ≤ s.now then s.cqInterrupt q.val else s)

/-! ## Instances -/

/-- The rank index of a row of an instance. -/
def Inst.rowOf (i : Inst) (ctx : BitVec 32) : Option Nat := i.rows.findIdx? fun (r : InstRow) => r.ctx = ctx

/-- Does a row group hold a row, by rank index (R61). -/
def InstGroup.holds (g : InstGroup) (k : Nat) : Bool := g.rowFirst ≤ k && k < g.rowFirst + g.rowCount

/-- What a record about a row waits for (R379). -/
def Inst.after (i : Inst) (k : Nat) : BitVec 24 × List CoreId := (i.id, (i.groups.filter fun g => g.holds k).map InstGroup.core)

/-- The instance with a row group changed. -/
def Inst.modGroup (i : Inst) (c : CoreId) (f : InstGroup → InstGroup) : Inst :=
  { i with groups := i.groups.map fun g => if g.core = c then f g else g }

/-- The instance with a row marked as having left (R23). -/
def Inst.leave (i : Inst) (k : Nat) : Inst :=
  { i with rows := ((List.range i.rows.length).zip i.rows).map fun r => if r.1 = k then { r.2 with left := true } else r.2 }

/-- The message of a wick taken from its channel (R48). -/
def State.popUp (s : State) (w : Fin 32) : State := { s with up := s.up.set w (s.up[w]).consume }

/-- A message to the wick of a core (R48). -/
def State.toWick (s : State) (c : CoreId) (m : DownMsg) : State :=
  { s with down := s.down.set (clusterOf c) ((s.down[clusterOf c]).send m) }

/-- The launch bank of a row group (R62). -/
def Inst.bankOf (i : Inst) (g : InstGroup) (resume : Bool) : LaunchBank :=
  { valid := true, resume := resume, node := BitVec.ofNat 16 i.node, graph := i.graph, inst := i.id, pd := i.pd
    stage := BitVec.ofNat 8 g.stage, slot := BitVec.ofNat 8 g.slot, width := BitVec.ofNat 8 i.width
    rowSrc := Config.batchAddr i.id g.core.val, rowCount := g.rowCount, nstages := BitVec.ofNat 8 i.nstages, rowFirst := g.rowFirst
    desc := Config.descAddr i.pd i.graph i.node, saveAddr := 0 }

/-! ## Conflicts (R51, R52) -/

/-- Do two half-open ranges meet. -/
def rangesMeet (a n b m : Nat) : Bool := a < b + m && b < a + n

/-- Does a global SRAM region cover a local offset of a local-alias region on some core (R51). -/
def coversLocal (g l : Region) : Bool :=
  let a := l.base.toNat % 4194304
  let b := g.base.toNat % 4194304
  4194304 ≤ g.extent || rangesMeet b g.extent a l.extent || rangesMeet b g.extent (a + 4194304) l.extent

/-- Do two regions lie in spaces that meet, with ranges that intersect (R51). -/
def regionsMeet (a b : Region) : Bool :=
  match spaceOf a.base, spaceOf b.base with
  | 0, 0 => rangesMeet a.base.toNat a.extent b.base.toNat b.extent
  | 1, 1 => rangesMeet a.base.toNat a.extent b.base.toNat b.extent
  | 0, 3 => coversLocal a b
  | 3, 0 => coversLocal b a
  | _, _ => false

/-- Are two regions of different instances bound to one sync object (R51): a SELF name matches nothing. -/
def sameObject (a b : Region) : Bool :=
  a.sync != .none && b.sync != .none && a.addr == b.addr && !(a.sync == .sem && bit a.addr.toNat 63)
    && !(b.sync == .sem && bit b.addr.toNat 63)

/-- Do two regions conflict (R51). -/
def regionConflict (a b : Region) : Bool := regionsMeet a b && (a.write || b.write) && !sameObject a b

/-- Does a node conflict with the regions that an instance holds (R50, R52). -/
def Inst.conflicts (i : Inst) (d : NodeDesc) : Bool := i.desc.regions.any fun a => d.regions.any fun b => regionConflict a b

/-! ## Keys and ranks (R53, R56, R58) -/

/-- The key of a ready row (R53). -/
structure RowKey where
  pd : BitVec 12
  graph : BitVec 32
  node : Nat
  deriving DecidableEq, Repr

/-- The key of a context's row. -/
def Ctx.key (x : Ctx) : RowKey := { pd := x.pd, graph := x.graphId, node := x.node.toNat }

/-- A graph by PD and GRAPHID (R38). -/
def State.graphOf (s : State) (pd : BitVec 12) (id : BitVec 32) : Option GraphEntry :=
  s.lan.graphs.find? fun (g : GraphEntry) => g.pd = pd && g.id = id

/-- The node descriptor of a key, and whether it is its graph's last node. -/
def State.keyNode (s : State) (k : RowKey) : Option (NodeDesc × Bool) :=
  (s.graphOf k.pd k.graph).bind fun g => (g.nodes[k.node]?).map fun d => (d, k.node + 1 == g.nodes.length)

/-- A row's deadline (R19); 0 for none. -/
def rowDeadline (d : NodeDesc) (x : Ctx) : Nat :=
  match d.dlpol with
  | 0 => x.deadline.toNat
  | 2 => if d.dloff = 0 then 0 else x.entry + d.dloff * 1000
  | _ => 0

/-- Is a ready row aged (R56). -/
def State.isAged (s : State) (x : Ctx) : Bool :=
  s.share x.prio != 0 && s.weight x.pd != 0 && (x.aged || decide (x.entry + s.params.ageMax ≤ s.now))

/-- The rank of a row (R58): smaller lists rank higher. -/
def State.rankOf (s : State) (d : NodeDesc) (i : Nat) (x : Ctx) : List Nat :=
  let aged := s.isAged x
  let dl := rowDeadline d x
  [if aged then 0 else 1, if aged then x.entry else 0, if s.share x.prio = 0 then 1 else 0, x.prio.val, if dl = 0 then 1 else 0, dl,
    x.entry, i]

/-- Does a rank come before another. -/
def rankLt : List Nat → List Nat → Bool
  | [], [] => false
  | [], _ => true
  | _, [] => false
  | a :: l, b :: m => a < b || (a == b && rankLt l m)

/-- A list with an element inserted in order of its rank. -/
def insertRank {α : Type} (e : List Nat × α) : List (List Nat × α) → List (List Nat × α)
  | [] => [e]
  | a :: l => if rankLt e.1 a.1 then e :: a :: l else a :: insertRank e l

/-- A list sorted by rank, the highest rank first. -/
def sortRank {α : Type} (l : List (List Nat × α)) : List (List Nat × α) := l.foldl (fun acc e => insertRank e acc) []

/-- Is a key free of conflict (R52). -/
def State.keyFree (s : State) (d : NodeDesc) : Bool := !s.insts.any fun (i : Inst) => i.conflicts d

/-- The aged rows whose PD has weight, by entry time and index, with the node of their key (R56, R67). -/
def State.agedRows (s : State) : List (List Nat × RowKey × NodeDesc) :=
  sortRank (s.readyRows.filterMap fun (e : Nat × Ctx) =>
    if s.isAged e.2 then (s.keyNode e.2.key).map fun n => ([e.2.entry, e.1], e.2.key, n.1) else none)

/-! ## Resumption (R52, R63, R66) -/

/-- Has a STAGE or RESUME been sent to a core that has not been answered yet (R60). -/
def State.claimed (s : State) (c : CoreId) : Bool :=
  s.insts.any fun (i : Inst) => i.groups.any fun (g : InstGroup) =>
    g.core = c && (g.phase = .staged || g.phase = .withdrawn || g.phase = .resuming)

/-- Is a core free to take a saved row group back: nothing runs on it, and nothing is staged or claimed. -/
def State.coreFree (s : State) (c : CoreId) : Bool :=
  (s.coreAt c).g.run.isNone && !(s.coreAt c).shadow.valid && !s.claimed c

/-- Does an aged row wait on a conflict with an instance (R52). -/
def State.blocksAged (s : State) (i : Inst) : Bool := s.agedRows.any fun e => i.conflicts e.2.2

/-! ## Eligible cores (R54, R60, R66) -/

/-- The cores kept for pre-empted holders that block an aged row: their RESUME comes before all work without an aged row (R52). -/
def State.keptFor (s : State) : List CoreId :=
  s.insts.flatMap fun (i : Inst) =>
    if s.blocksAged i then (i.groups.filter fun (g : InstGroup) => g.phase = .saved).map InstGroup.core else []

/-- The eligible cores (R60, R226): those with an empty bank that no placement has claimed and that are not staging cores. The cores of
`extra` count as emptied by a pre-emption (R66). -/
def State.eligible (s : State) (extra kept : List CoreId) : List CoreId :=
  (List.ofFn (n := 512) id).filter fun (c : CoreId) =>
    !s.params.staging.contains c && !kept.contains c && (extra.contains c || (!(s.coreAt c).shadow.valid && !s.claimed c))

/-- How many stages of width `w` a die's eligible cores take (R60). -/
def dieRoom (el : List CoreId) (w d : Nat) : Nat :=
  if w = 0 then 0
  else if w ≤ 16 then
    ((List.range 8).map fun k => (el.filter fun (c : CoreId) => c.val / 16 == d * 8 + k).length / w).sum
  else (el.filter fun (c : CoreId) => c.val / 128 == d).length / w

/-- Can a span of `n` stages of width `w` be placed on eligible cores (R54, R60). -/
def placeable (el : List CoreId) (w n : Nat) : Bool := n ≤ ((List.range 4).map (dieRoom el w)).sum

/-- The ready rows of a key, by rank (R58). -/
def State.rowsOf (s : State) (k : RowKey) (d : NodeDesc) : List (List Nat × Nat × Ctx) :=
  sortRank ((s.readyRows.filter fun (e : Nat × Ctx) => e.2.key = k).map fun (e : Nat × Ctx) => (s.rankOf d e.1 e.2, e))

/-- The width with which placeability is judged (R54). -/
def State.judgedWidth (s : State) (k : RowKey) (d : NodeDesc) : Nat := min d.cps (min 1024 (s.rowsOf k d).length)

/-- The cores that the pre-emptions under way will empty (R66): those of row groups being pre-empted, and those of saved row groups
on which a bank staged before has still to swap in. -/
def State.emptying (s : State) : List CoreId :=
  s.insts.flatMap fun (i : Inst) =>
    (i.groups.filter fun (g : InstGroup) => g.phase = .preempting || (g.phase = .saved && s.claimed g.core)).map InstGroup.core

/-- Does an aged row whose key is free of conflict need a core: its span can be placed with it, and not without (R66). -/
def State.agedNeeds (s : State) (c : CoreId) : Bool :=
  let el := s.eligible s.emptying []
  s.agedRows.any fun e =>
    s.keyFree e.2.2 && placeable el (s.judgedWidth e.2.1 e.2.2) e.2.2.stages
      && !placeable (el.filter fun x => x != c) (s.judgedWidth e.2.1 e.2.2) e.2.2.stages

/-- The saved row groups, the highest-ranked first, holders that block an aged row before all others (R52, R66). -/
def State.savedGroups (s : State) : List (List Nat × Inst × CoreId) :=
  sortRank (s.insts.flatMap fun (i : Inst) => (i.groups.filter fun (g : InstGroup) => g.phase = .saved).map fun g =>
    ((if s.blocksAged i then 0 else 1) :: i.rank, i, g.core))

/-- A RESUME sent for the row group of an instance on a core (R63). -/
def State.sendResume (s : State) (i : Inst) (c : CoreId) : State :=
  match i.groups.find? fun (g : InstGroup) => g.core = c with
  | some g => (s.modInst i.id fun i => i.modGroup c fun g => { g with phase := .resuming, refused := false }).toWick c (.resume c (i.bankOf g true))
  | none => s

/-- Every saved row group whose core is free, and needed by no aged row that is free of conflict, is resumed; a holder that blocks an aged
row comes first, ahead of work that holds no aged row (R52, R66). -/
def State.resumeSaved (s : State) : State :=
  if s.mgmt.phase != .run then s
  else s.savedGroups.foldl (fun s e =>
    if s.coreFree e.2.2 && !s.agedNeeds e.2.2 then s.sendResume e.2.1 e.2.2 else s) s

/-- The bank of a core has emptied: a RESUME that was refused there is sent again (R63). -/
def State.resumeRefused (s : State) (c : CoreId) : State :=
  let refused : Inst → Bool := fun i => i.groups.any fun (g : InstGroup) => g.core = c && g.phase = .saved && g.refused
  if s.mgmt.phase != .run || (s.coreAt c).shadow.valid || s.claimed c then s
  else match s.savedGroups.find? fun e => e.2.2 = c && refused e.2.1 with
    | some e => s.sendResume e.2.1 c
    | none => s

/-! ## Commit (R9, R224, R334, R376) -/

/-- The reports of the row groups that hold a row. -/
def Inst.reportsOf (i : Inst) (k : Nat) : List RowReport :=
  (i.groups.filter fun g => g.holds k).filterMap fun g => g.reports[k - g.rowFirst]?

/-- Does a row commit (R376). -/
def Inst.commits (i : Inst) (k : Nat) (r : InstRow) : Bool :=
  !i.cancelled && !r.left && (i.groups.filter fun g => g.holds k).all fun g =>
    g.how == some .retired && (match g.reports[k - g.rowFirst]? with
      | some x => x.live
      | none => false)

/-- VLEN updated from the high marks of a row's slots (R224). -/
def State.raiseVlen (s : State) (kvroot : Word) (marks : List (Nat × Nat)) : State :=
  marks.foldl (fun s m =>
    let l := s.leaf kvroot m.1
    if l.1 = 0 then s else s.setLeaf kvroot m.1 l.1 (max l.2 m.2)) s

/-- The row of an instance commits with the report of the last stage (R376): VLEN, trim, the entry's fields, and the transition. -/
def State.commitRow (s : State) (i : Inst) (k : Nat) (r : InstRow) : State :=
  let idx := ctxIndex r.ctx
  match (i.groups.find? fun g => g.holds k && g.stage + 1 == i.nstages).bind fun g => g.reports[k - g.rowFirst]? with
  | none => s
  | some rep =>
    let s := s.raiseVlen (s.ctxAt idx).kvroot ((i.reportsOf k).flatMap RowReport.marks)
    let s := match rep.cut with
      | some v => s.trim idx v
      | none => s
    let s := s.modCtx idx fun x =>
      { x with
        node := x.node + 1, accepted := rep.accept, lineage := rep.lineage, rng := rep.rng, rngCount := rep.count
        nflags := x.nflags ||| i.flags }
    if i.lastNode then
      let s := s.toState idx .parked .host
      s.complete r.cq (compRec false 0 0 r.tag r.ctx (BitVec.ofNat 16 i.node) 0xFFFF 0 rep.accept 0 (i.after k))
    else
      let row : RowData :=
        match rep.cut with
        | some v => { rlen := min rep.rlen (v - rep.pos), pos := rep.pos, lineage := min rep.lineage.toNat v, tag := r.tag, cq := r.cq }
        | none => { rlen := rep.rlen, pos := rep.pos, lineage := rep.lineage.toNat, tag := r.tag, cq := r.cq }
      (s.modCtx idx fun x => { x with row := row }).poolRow idx s.now

/-- An instance whose row groups have all ended: its rows commit or, if it was cancelled, return to the pool; its regions are released
(R26, R50, R63, R376). -/
def State.finishInst (s : State) (i : Inst) : State :=
  let s := { s with insts := s.insts.filter fun (x : Inst) => x.id != i.id }
  ((List.range i.rows.length).zip i.rows).foldl (fun s r =>
    if i.commits r.1 r.2 then s.commitRow i r.1 r.2
    else if r.2.left then s
    else s.poolRow (ctxIndex r.2.ctx) r.2.entry) s

/-- The instance with an id ends if every row group has ended. -/
def State.checkEnd (s : State) (id : BitVec 24) : State :=
  match s.inst id with
  | some i => if i.groups.all fun g => g.phase = .ended then s.finishInst i else s
  | none => s

/-! ## The messages of the wicks (R49, R63, R225, R318, R352, R376) -/

/-- The state with the row group of an instance on a core in a new phase. -/
def State.phase (s : State) (id : BitVec 24) (c : CoreId) (p : GroupPhase) : State :=
  s.modInst id fun i => i.modGroup c fun g => { g with phase := p }

/-- STARTED (R64). -/
def execStarted (w : Fin 32) (s : State) : Host.Outcome State Fault Refusal :=
  .next
    (match (s.up[w]).sent with
     | .started c id :: _ => (((s.popUp w).phase id c .running).resumeRefused c).resumeSaved
     | _ => s)

/-- WDONE (R63): CLEARED ends the row group, TOOLATE leaves it running; a CLEARED RESUME leaves the row group saved. -/
def execWdone (w : Fin 32) (s : State) : Host.Outcome State Fault Refusal :=
  .next
    (match (s.up[w]).sent with
     | .wdone c id cleared :: _ =>
       let s := s.popUp w
       let ph := ((s.inst id).bind fun i => i.groups.find? fun g => g.core = c).map InstGroup.phase
       let s := match cleared, ph with
         | true, some .resuming => s.phase id c .saved
         | true, _ =>
           ((s.modInst id fun i => i.modGroup c fun g => { g with phase := .ended, gone := true, how := some .notPlaced }).dropHeld c id).checkEnd id
         | false, some .withdrawn => s.phase id c .running
         | false, _ => s
       let s := s.drainAll
       (if cleared then s.resumeRefused c else s).resumeSaved
     | _ => s)

/-- The cancellation of an instance (R63): WITHDRAW for every other core on which a bank of it was staged and has not ended, once. -/
def State.cancel (s : State) (i : Inst) : State :=
  if i.cancelled then s
  else
    let s := s.modInst i.id fun i => { i with cancelled := true }
    (i.groups.filter fun g => g.phase != .ended).foldl (fun s g =>
      (if g.phase = .staged then s.phase i.id g.core .withdrawn else s).toWick g.core (.withdraw g.core i.id)) s

/-- A terminated row group's LIVE rows that have not left become FAULTED (R11, R352). -/
def State.faultRows (s : State) (id : BitVec 24) (c : CoreId) (term : Word) (dump : BitVec 16) (rows : List RowReport) : State :=
  rows.foldl (fun s rep =>
    match s.inst id with
    | none => s
    | some i =>
      match i.rowOf rep.ctx with
      | none => s
      | some k =>
        match i.rows[k]? with
        | none => s
        | some r =>
          if !rep.live || r.left then s
          else
            let idx := ctxIndex rep.ctx
            let cause := term.toNat / 2 ^ 56
            let s := (s.modInst id fun i => i.leave k).toState idx .faulted .none
            let s := s.modCtx idx fun x =>
              { x with pcause := BitVec.ofNat 8 cause, pnode := BitVec.ofNat 16 i.node, pcore := BitVec.ofNat 9 c.val }
            s.complete r.cq
              (compRec false 2 cause r.tag r.ctx (BitVec.ofNat 16 i.node) dump term (s.ctxAt idx).accepted 0 (i.after k))) s

/-- What ENDED says of a row group (R26, R49, R63, R352, R376). -/
def State.groupEnded (s : State) (c : CoreId) (id : BitVec 24) (how : EndKind) (term : Word) (dump : BitVec 16) (flags : BitVec 8)
    (rows : List RowReport) : State :=
  match how with
  | .notResumed => s.modInst id fun i => i.modGroup c fun g => { g with phase := .saved, refused := true }
  | _ =>
    let s := s.modInst id fun i =>
      { (i.modGroup c fun g => { g with phase := .ended, gone := true, how := some how, term := term, dump := dump, reports := rows }) with
        flags := i.flags ||| flags }
    let s := s.dropHeld c id
    let s := match how, s.inst id with
      | .notPlaced, some i => s.cancel i
      | .terminated, _ => s.faultRows id c term dump rows
      | _, _ => s
    s.checkEnd id

/-- ENDED (R49). -/
def execEnded (w : Fin 32) (s : State) : Host.Outcome State Fault Refusal :=
  .next
    (match (s.up[w]).sent with
     | .ended c id how term dump flags rows :: _ => ((s.popUp w).groupEnded c id how term dump flags rows).drainAll.resumeSaved
     | _ => s)

/-- A page drop parks the context (R11, R225). -/
def State.parkPage (s : State) (i : Inst) (k : Nat) (r : InstRow) (page : Nat) : State :=
  let idx := ctxIndex r.ctx
  let s := (s.toState idx .parked .page).modCtx idx fun x => { x with ppage := BitVec.ofNat 64 page, pnode := BitVec.ofNat 16 i.node }
  if (s.cqAt r.cq).pnote then
    s.complete r.cq
      (compRec true 3 0 r.tag r.ctx (BitVec.ofNat 16 i.node) 0xFFFF 0 (s.ctxAt idx).accepted (BitVec.ofNat 32 page) (i.after k))
  else s

/-- A row trap parks the context with its park record (R11, R318, R330, R331, R348). -/
def State.parkTrap (s : State) (i : Inst) (k : Nat) (r : InstRow) (cause probe : BitVec 8) (site : BitVec 3) (pos : Nat) (score : Lane) : State :=
  let idx := ctxIndex r.ctx
  let why : ParkReason :=
    if cause.toNat = Cause.probe.code then .probe else if cause.toNat = Cause.budget.code then .budget else .ktrap
  let s := (s.toState idx .parked why).modCtx idx fun x =>
    { x with
      pcause := cause, psite := site.setWidth 8, pprobe := probe, ppos := BitVec.ofNat 32 pos, pnode := BitVec.ofNat 16 i.node
      pscore := score }
  s.complete r.cq
    (compRec false 4 cause.toNat r.tag r.ctx (BitVec.ofNat 16 i.node) 0xFFFF 0 (s.ctxAt idx).accepted (BitVec.ofNat 32 pos) (i.after k))

/-- What ROWEVENT says of a row that has not left (R13). -/
def State.rowHappened (s : State) (id : BitVec 24) (ctx : BitVec 32) (what : RowHappening) : State :=
  match s.inst id with
  | none => s
  | some i =>
    match i.rowOf ctx with
    | none => s
    | some k =>
      match i.rows[k]? with
      | none => s
      | some r =>
        if r.left then s
        else
          let s := s.modInst id fun i => i.leave k
          match what with
          | .drop page _ => s.parkPage i k r page
          | .trap cause probe site pos score => s.parkTrap i k r cause probe site pos score

/-- Is a log entry a ROWEVENT; and is it one of an instance and context. -/
def LogEntry.isRowEvent : LogEntry → Bool
  | .rowEvent .. => true
  | _ => false

/-- ROWEVENT (R49): in a replay of sync order it waits for its logged turn (R394, R396). The Tender has its NEED already (R225). -/
def execRowevent (w : Fin 32) (s : State) : Host.Outcome State Fault Refusal :=
  .next
    (match (s.up[w]).sent with
     | .rowEvent _ id ctx what :: _ =>
       let pd := ((s.inst id).map Inst.pd).getD 0
       let mine : LogEntry → Bool := fun e => match e with
         | .rowEvent j x _ => j = id && x = ctx
         | _ => false
       if s.myTurn pd LogEntry.isRowEvent mine then
         ((((s.popUp w).releaseOutcome .rowEvent).outcome 0 pd (.rowEvent id ctx what) mine).rowHappened id ctx what).resumeSaved
       else s.holdOutcome .rowEvent s.now
     | _ => s)

/-- SAVED (R66). -/
def execSaved (w : Fin 32) (s : State) : Host.Outcome State Fault Refusal :=
  .next
    (match (s.up[w]).sent with
     | .saved c id :: _ => ((s.popUp w).phase id c .saved).resumeSaved
     | _ => s)

end Sys2Proof.Machine
end

