-- ==== Sys2Proof/Machine/Formation.lean ====
section
/-! DEFINITION. Batch formation, placement and pre-emption for aging (R19, R23, R27, R54 to R61, R66, R67). The choices that R60 leaves to
the device are the operand of FORMATION_TURN: the cores of the span found, stage by stage, and after them those of the placement where
late rows have left the batch smaller. -/

namespace Sys2Proof.Machine

/-! ## Eligible cores and spans (R60) -/

/-- Is a core running work. -/
def State.busy (s : State) (c : CoreId) : Bool := (s.coreAt c).g.run.isSome

/-- The dies in the order 0, 1, 3, 2 from a die on (R60). -/
def dieRing (d : Nat) : List Nat :=
  match d with
  | 0 => [0, 1, 3, 2]
  | 1 => [1, 3, 2, 0]
  | 2 => [2, 0, 1, 3]
  | _ => [3, 2, 0, 1]

/-- The dies of the stages of a span whose first stage lies on die `d`: each next stage on the same die where room allows, and otherwise
on the next die in the order that has room (R60). -/
def stageDies (el : List CoreId) (w n d : Nat) : List Nat := ((dieRing d).flatMap fun k => List.replicate (dieRoom el w k) k).take n

/-- The fewest dies that a span can take (R60). -/
def fewestDies (el : List CoreId) (w n : Nat) : Nat :=
  (leastOf (((List.range 4).filter fun d => dieRoom el w d != 0).map fun d => (stageDies el w n d).eraseDups.length)).getD 0

/-- Is a list strictly rising. -/
def rising : List Nat → Bool
  | a :: b :: l => a < b && rising (b :: l)
  | _ => true

/-- The cores of stage `k` of a span given stage by stage. -/
def stageCores (cores : List CoreId) (w k : Nat) : List CoreId := (cores.drop (k * w)).take w

/-- Is a choice of cores one that R60 allows: distinct eligible cores; SLOT rising with cluster and core; each stage in one cluster, or one
die; the stages' dies as the order gives them, the fewest; and in each cluster the idle cores first, and the lower numbers. -/
def State.spanOk (s : State) (el cores : List CoreId) (w n : Nat) : Bool :=
  let stages := (List.range n).map (stageCores cores w)
  let dies := stages.map fun (l : List CoreId) => ((l.head?).map fun c => c.val / 128).getD 0
  cores.length == w * n && 0 < w && 0 < n && cores.eraseDups.length == cores.length && cores.all el.contains
    && (stages.all fun (l : List CoreId) =>
      rising (l.map Fin.val) && (l.map fun (c : CoreId) => if w ≤ 16 then c.val / 16 else c.val / 128).eraseDups.length == 1)
    && dies == stageDies el w n (dies.headD 0) && dies.eraseDups.length == fewestDies el w n
    && (List.range 32).all fun k =>
      let here := el.filter fun (c : CoreId) => c.val / 16 == k
      let mine := cores.filter fun (c : CoreId) => c.val / 16 == k
      let order := (here.filter fun c => !s.busy c) ++ here.filter fun c => s.busy c
      mine.all (order.take mine.length).contains

/-! ## The choice of a key (R54 to R57) -/

/-- The keys of the ready rows. -/
def State.readyKeys (s : State) : List RowKey := (s.readyRows.map fun (e : Nat × Ctx) => e.2.key).eraseDups

/-- The formable keys with their nodes (R54). -/
def State.formable (s : State) (el : List CoreId) : List (RowKey × NodeDesc) :=
  s.readyKeys.filterMap fun k =>
    match s.keyNode k with
    | some n => if s.weight k.pd != 0 && s.keyFree n.1 && placeable el (s.judgedWidth k n.1) n.1.stages then some (k, n.1) else none
    | none => none

/-- The key of a turn that serves no aged row (R55, R57). -/
def State.pickKey (s : State) (el : List CoreId) : Option RowKey :=
  let keys := s.formable el
  let pds := sortRank (keys.map fun (e : RowKey × NodeDesc) => ([Tab.get 0 s.lan.vt e.1.pd.toNat, e.1.pd.toNat], e.1.pd))
  match pds with
  | [] => none
  | (_, pd) :: _ =>
    let rows := (keys.filter fun (e : RowKey × NodeDesc) => e.1.pd = pd).flatMap fun e => (s.rowsOf e.1 e.2).map fun r => (r, e.1)
    let shared := rows.filter fun r => s.share r.1.2.2.prio != 0
    let classes := sortRank (shared.map fun r => ([Tab.get 0 s.lan.cv (cvKey pd r.1.2.2.prio), r.1.2.2.prio.val], r.1.2.2.prio))
    let pool := match classes with
      | [] => rows
      | (_, c) :: _ => shared.filter fun r => r.1.2.2.prio = c
    ((sortRank (pool.map fun r => (r.1.1, r.2))).head?).map Prod.snd

/-! ## Forming a batch (R23, R55, R57, R59, R61) -/

/-- The rows of a key as a turn examines them: those taken and those found late (R27, R59). -/
def State.examine (s : State) (d : NodeDesc) : List (List Nat × Nat × Ctx) → Nat → List (List Nat × Nat × Ctx) × List (Nat × Ctx)
  | [], _ => ([], [])
  | e :: l, n =>
    if n = 0 then ([], [])
    else
      let dl := rowDeadline d e.2.2
      if dl != 0 && dl ≤ s.now then
        let r := State.examine s d l n
        (r.1, e.2 :: r.2)
      else
        let r := State.examine s d l (n - 1)
        (e :: r.1, r.2)

/-- The words of a row record (R22, R23). -/
def rowWords (d : NodeDesc) (last : Bool) (i : Nat) (x : Ctx) : List Word :=
  let flags := 1 + (if x.accepted.toNat < x.row.lineage then 2 else 0) + (if last then 16 else 0)
  [BitVec.ofNat 64 (flags * 2 ^ 48 + x.row.rlen * 2 ^ 32 + (handleOf i x).toNat), BitVec.ofNat 64 (x.accepted.toNat * 2 ^ 32 + x.row.pos),
    BitVec.ofNat 64 x.row.lineage, x.steerCoef, x.rng.s0, x.rng.s1, x.rng.s2, x.rng.s3, x.rngCount, BitVec.ofNat 64 (rowDeadline d x),
    0, 0, 0, 0, 0, 0]

/-- A late row completes LATE and its context waits for the host (R27, R59). -/
def State.lateRow (s : State) (i : Nat) (x : Ctx) : State :=
  (s.toState i .parked .host).complete x.row.cq
    (compRec false 1 0 x.row.tag (handleOf i x) x.node 0xFFFF 0 x.accepted 0 (0, []))

/-- The increments of R55 and R57 for the rows of a batch. -/
def State.advance (s : State) (pd : BitVec 12) (rows : List Ctx) : State :=
  let plain := rows.filter fun (x : Ctx) => !s.isAged x
  let w := s.weight pd
  let vt := Tab.set 0 s.lan.vt pd.toNat (Tab.get 0 s.lan.vt pd.toNat + plain.length * 2 ^ 48 / w)
  let cv := plain.foldl (fun (cv : Tab Nat) (x : Ctx) =>
    if s.share x.prio = 0 then cv
    else Tab.set 0 cv (cvKey pd x.prio) (Tab.get 0 cv (cvKey pd x.prio) + 2 ^ 48 / s.share x.prio)) s.lan.cv
  { s with lan := { s.lan with vt := vt, cv := cv } }

/-- The next instance id that no instance holds (R62). -/
def State.freshInst (s : State) : BitVec 24 :=
  ((((List.range (s.insts.length + 1)).map fun k => s.lan.nextInst + BitVec.ofNat 24 k).find? fun (n : BitVec 24) =>
    !s.insts.any fun (i : Inst) => i.id = n).getD 0)

/-- The row groups of a batch of `b` rows on the cores of a span (R61). -/
def groupsOn (cores : List CoreId) (w n b : Nat) : List InstGroup :=
  (List.range n).flatMap fun k =>
    ((List.range w).zip (stageCores cores w k)).map fun e =>
      let j := e.1
      { core := e.2, stage := k, slot := j, rowFirst := j * (b / w) + min j (b % w), rowCount := b / w + (if j < b % w then 1 else 0)
        phase := .staged, refused := false, gone := false, how := none, term := 0, dump := 0xFFFF, reports := [] }

/-- Is a log entry a placement. -/
def LogEntry.isPlace : LogEntry → Bool
  | .place .. => true
  | _ => false

/-- The instance id that a replay of sync order gives the batch, or none where the batch is not the logged one (R396). -/
def State.placedId (s : State) (pd : BitVec 12) (ctxs : List (BitVec 32)) (cores : List CoreId) : Option (BitVec 24) :=
  match s.replayFor pd with
  | .replaySync =>
    match s.replay.next LogEntry.isPlace with
    | some (.place id cs ks) => if cs == ctxs && ks == cores then some id else none
    | _ => some s.freshInst
  | _ => some s.freshInst

/-- The cores of each stage of a span found for a width `v` that a smaller width `w` takes: the idle ones first and the lower numbers,
with SLOT rising (R54, R60). -/
def State.narrow (s : State) (cores : List CoreId) (v w n : Nat) : List CoreId :=
  (List.range n).flatMap fun k =>
    let found := stageCores cores v k
    let mine := ((found.filter fun c => !s.busy c) ++ found.filter fun c => s.busy c).take w
    found.filter mine.contains

/-- The cores on which a batch of width `w` is placed when those of a choice were found for the width `v` at which the key was judged
(R54): all of them where no row was late; otherwise the choice names them after the span found. -/
def placedCores (cores : List CoreId) (v w n : Nat) : List CoreId := if w = v then cores else cores.drop (v * n)

/-- Does R60 allow a choice of cores: the span found at the width judged and, for a batch that lateness left smaller, its own placement
among the cores found, at its own width. Where R60 has no such placement among them (a stage of more than 16 cores over clusters none
of which holds the smaller stage), each stage stays on cores of the stage found (log entry 44). -/
def State.choiceOk (s : State) (el cores : List CoreId) (v w n : Nat) : Bool :=
  if w = v then s.spanOk el cores v n
  else
    let found := cores.take (v * n)
    let mine := placedCores cores v w n
    s.spanOk el found v n && (if placeable found w n then s.spanOk found mine w n else mine == s.narrow found v w n)

/-- A turn for a key (R54, R59 to R61): the late rows complete, and the others form a batch on the cores chosen, which are judged at
the width of all the rows; nothing happens where the choice is not one that R60 allows. -/
def State.formKey (s : State) (k : RowKey) (el cores : List CoreId) : State :=
  match s.keyNode k with
  | none => s
  | some (d, last) =>
    let ex := s.examine d (s.rowsOf k d) 1024
    let late := ex.2.foldl (fun s e => s.lateRow e.1 e.2) s
    let v := s.judgedWidth k d
    match ex.1 with
    | [] => late
    | top :: _ =>
      let w := min d.cps ex.1.length
      let ctxs := ex.1.map fun e => handleOf e.2.1 e.2.2
      let chosen := cores
      let cores := placedCores chosen v w d.stages
      match s.placedId k.pd ctxs cores with
      | none => s.holdOutcome .place s.now
      | some id =>
        if !s.choiceOk el chosen v w d.stages then s
        else
          let rows : List InstRow := ex.1.map fun e =>
            { ctx := handleOf e.2.1 e.2.2, entry := e.2.2.entry, rank := e.1, aged := s.isAged e.2.2, tag := e.2.2.row.tag
              cq := e.2.2.row.cq, words := rowWords d last e.2.1 e.2.2, left := false }
          let i : Inst :=
            { id := id, pd := k.pd, graph := k.graph, node := k.node, lastNode := last, desc := d, nstages := d.stages, width := w
              groups := groupsOn cores w d.stages ex.1.length, rows := rows, flags := 0, cancelled := false, formed := s.now
              rank := top.1 ++ [s.now] }
          let s := (late.releaseOutcome .place).advance k.pd (ex.1.map fun e => e.2.2)
          let s := ex.1.foldl (fun s e => s.toState e.2.1 .running .none) s
          let s := { s with insts := s.insts ++ [i], lan := { s.lan with nextInst := id + 1 } }
          let s := i.groups.foldl (fun s g => s.toWick g.core (.stage g.core (i.bankOf g false))) s
          (s.outcome 0 k.pd (.place id ctxs cores) LogEntry.isPlace).normalise

/-! ## Pre-emption for aging (R66) -/

/-- May an instance be a victim: it holds no aged row, some row group of it runs and none is on its way, and every core on which it
runs has a save frame free. -/
def State.mayPreempt (s : State) (i : Inst) : Bool :=
  (i.rows.all fun (r : InstRow) => !r.aged || r.left) && (i.groups.any fun (g : InstGroup) => g.phase = .running)
    && i.groups.all fun (g : InstGroup) =>
      match g.phase with
      | .running => (s.freeSlot g.core).isSome && (s.savePool[dieOf g.core]).isSome
      | .saved => true
      | .ended => true
      | .preempting => true
      | _ => false

/-- The cores on which row groups of an instance are in a phase. -/
def Inst.coresIn (i : Inst) (p : GroupPhase) : List CoreId := (i.groups.filter fun (g : InstGroup) => g.phase = p).map InstGroup.core

/-- The shortest list of victims, the lowest rank first, that lets a span be placed; none when all do not (R66). -/
def State.victims (s : State) (w n : Nat) : List CoreId → List Inst → List Inst → Option (List Inst)
  | _, _, [] => none
  | extra, taken, i :: rest =>
    let extra := extra ++ i.coresIn .running
    let taken := taken ++ [i]
    if placeable (s.eligible extra []) w n then some taken else State.victims s w n extra taken rest

/-- PREEMPT for the cores on which an instance runs, one message to each wick (R49). -/
def State.preemptInst (s : State) (i : Inst) : State :=
  let cores := i.coresIn .running
  let s := s.modInst i.id fun i =>
    { i with groups := i.groups.map fun (g : InstGroup) => if g.phase = .running then { g with phase := .preempting } else g }
  (cores.map clusterOf).eraseDups.foldl (fun (s : State) (w : Fin 32) =>
    { s with down := s.down.set w ((s.down[w]).send (.preempt (cores.filter fun c => clusterOf c = w) i.id)) }) s

/-- The victims of an aged key that cannot be placed are pre-empted (R66): none while the pre-emptions under way suffice, or while no set
suffices. -/
def State.askVictims (s : State) (w n : Nat) : State :=
  let going := s.emptying
  if placeable (s.eligible going []) w n then s
  else
    let cands := (sortRank ((s.insts.filter fun i => s.mayPreempt i).map fun (i : Inst) => (i.rank, i))).reverse.map Prod.snd
    match s.victims w n going [] cands with
    | some l => l.foldl State.preemptInst s
    | none => s

/-- One formation turn (R54 to R59, R66). -/
def State.turn (s : State) (cores : List CoreId) : State :=
  match s.agedRows.find? fun e => s.keyFree e.2.2 with
  | some (_, k, d) =>
    let el := s.eligible [] []
    let w := s.judgedWidth k d
    if placeable el w d.stages then s.formKey k el cores else s.askVictims w d.stages
  | none =>
    let el := s.eligible [] s.keptFor
    match s.pickKey el with
    | some k => s.formKey k el cores
    | none => s

/-- FORMATION_TURN (R54). -/
def execFormationTurn (cores : List CoreId) (s : State) : Host.Outcome State Fault Refusal :=
  .next (if s.mgmt.phase = .run then ((s.turn cores).drainAll).resumeSaved else s)

/-- ROW_AGED (R56). -/
def execRowAged (i : Fin 131072) (s : State) : Host.Outcome State Fault Refusal :=
  .next
    (let x := s.ctxAt i.val
     if x.st = .ready && s.isAged x then (s.modCtx i.val fun x => { x with aged := true }).resumeSaved else s)

end Sys2Proof.Machine
end

