-- ==== Sys2Proof/Machine/Graph.lean ====
section
/-! DEFINITION. Reading and checking a graph (R15 to R18, R38, R94 to R96, R219, R306), and the graph table. -/

namespace Sys2Proof.Machine

/-- Do the handles of a PD grant read access to all of [a, a + n) (R217): the bytes lie in one segment, which its last byte is still
inside. -/
def State.reads (s : State) (pd : BitVec 12) (a : Word) (n : Nat) : Bool :=
  n = 0 || (spaceOf a = 1 && a.toNat % 2 ^ 48 + n ≤ 2 ^ 48 && (s.translateHere pd .read (a + BitVec.ofNat 64 (n - 1))).isSome)

/-- A 64-bit word in handle space. -/
def State.handleWord (s : State) (pd : BitVec 12) (a : Word) (off : Nat) : Nat := s.imageLE pd a off 8

/-! ## Parsing (R15 to R17) -/

/-- A ring's fields from its two words (R16). -/
def parseRing (a b : Nat) : RingDesc := { img := fld a 32 32, log2n := fld a 27 5, base := fld a 0 22, pre := fld b 0 32 }

/-- A region from the words of its entry (R17). -/
def parseRegion (a n c y : Nat) : Region :=
  { base := BitVec.ofNat 64 a, extent := n, read := bit c 0, write := bit c 1
    sync := match fld c 2 2 with
      | 1 => .sem
      | 2 => .lock
      | _ => .none
    addr := BitVec.ofNat 64 y }

/-- A node descriptor from its words, `w k` being the one at offset 8 × k (R16). -/
def parseNode (w : Nat → Nat) : NodeDesc :=
  { code := BitVec.ofNat 64 (w 0), xsEntry := fld (w 1) 32 32, asEntry := fld (w 1) 0 32, me := parseRing (w 2) (w 3)
    ch0 := parseRing (w 4) (w 5), ch1 := parseRing (w 6) (w 7), vregs := fld (w 8) 56 8, banks := fld (w 8) 46 10
    parts := BitVec.ofNat 4 (fld (w 8) 42 4), regions := (List.range (fld (w 8) 36 6)).map fun k =>
      parseRegion (w (32 + 4 * k)) (w (33 + 4 * k)) (w (34 + 4 * k)) (w (35 + 4 * k))
    dlpol := fld (w 8) 32 4, rowBudget := fld (w 8) 0 32, dloff := fld (w 9) 32 32, stages := fld (w 9) 8 8, cps := fld (w 9) 0 8
    tapImg := fld (w 10) 32 32, ntaps := fld (w 10) 0 8 }

/-! ## The checks of R18 -/

/-- The end of an address space (R211, R219). -/
def spaceEnd (sp : Nat) : Nat :=
  match sp with
  | 0 => 2 ^ 31
  | 1 => 2 ^ 63
  | 2 => 2 ^ 63 + 2 ^ 34
  | _ => 3 * 2 ^ 62 + 2 ^ 22

/-- Does SYNCADDR keep its form (R17). -/
def syncForm (sync y : Nat) : Bool :=
  match sync with
  | 0 => y = 0
  | 1 => fld y 18 45 = 0 && fld y 6 3 = 0 && !(bit y 63 && fld y 9 9 != 0)
  | 2 => y % 8 = 0
  | _ => false

/-- A region-table entry's own checks (R17, R18, R219). -/
def regionForm (a n c y : Nat) : Bool :=
  c / 16 = 0 && fld c 0 2 != 0 && 1 ≤ n && n ≤ 2 ^ 48 && syncForm (fld c 2 2) y && a + n ≤ spaceEnd (a / 2 ^ 62)
    && (a / 2 ^ 62 != 2 || fld a 34 28 = 0)

/-- A ring's own checks (R16, R18). -/
def ringForm (a b : Nat) : Bool :=
  fld a 22 5 = 0 && fld b 32 32 = 0 && 4 ≤ fld a 27 5 && fld a 27 5 ≤ 16 && fld a 0 22 % 64 = 0 && fld b 0 32 ≤ 2 ^ fld a 27 5

/-- The reserved fields and ranges of a node descriptor (R16 to R19). DESIGN CHOICE (log entry 81): region-table entries from
NREGIONS on are not checked, as they describe no region of the node. -/
def nodeForm (w : Nat → Nat) : Bool :=
  let d := parseNode w
  ringForm (w 2) (w 3) && ringForm (w 4) (w 5) && ringForm (w 6) (w 7) && fld (w 9) 16 16 = 0 && fld (w 10) 8 24 = 0
    && ((List.range 21).all fun k => w (11 + k) == 0) && spaceOf d.code = 1 && d.xsEntry % 4 = 0 && d.asEntry % 4 = 0
    && 1 ≤ d.vregs && d.vregs ≤ 64 && d.banks ≤ 512 && d.parts != 0 && fld (w 8) 36 6 ≤ 32 && d.dlpol ≤ 2
    && 1 ≤ d.stages && d.stages ≤ 64 && 1 ≤ d.cps && d.cps ≤ 128 && d.stages * d.cps ≤ 512 && d.ntaps ≤ 8
    && (d.ntaps = 0 || d.parts.getLsbD 3)
    && (List.range (min 32 (fld (w 8) 36 6))).all fun k =>
      regionForm (w (32 + 4 * k)) (w (33 + 4 * k)) (w (34 + 4 * k)) (w (35 + 4 * k))

/-- Do the local bytes [lo, lo + n) lie in the declared partitions, clear of the row area and the tap partition (R18, R21). -/
def localOk (d : NodeDesc) (lo n : Nat) : Bool :=
  lo + n ≤ 0x400000
    && (List.range 4).all (fun k => d.parts.getLsbD k || !rangesMeet lo n (k * 0x100000) 0x100000)
    && !rangesMeet lo n (rowAreaBase d) 0x20000 && (d.ntaps = 0 || !rangesMeet lo n 0x3C0000 0x40000)

/-- The local range of a ring (R96). -/
def ringRange (r : RingDesc) : Nat × Nat := (r.base, 4 * 2 ^ r.log2n)

/-- Does a region meet a local range, on any core (R18). -/
def regionAt (r : Region) (lo n : Nat) : Bool :=
  match spaceOf r.base with
  | 0 => coversLocal r { r with base := aliasAddr lo, extent := n }
  | 3 => rangesMeet (r.base.toNat % 0x400000) r.extent lo n
  | _ => false

/-- Of any two elements at different places, does a relation hold of none. -/
def noPair {α : Type} (p : α → α → Bool) : List α → Bool
  | [] => true
  | a :: l => l.all (fun b => !p a b) && noPair p l

/-- Where a node's regions and rings may lie (R18, R96, R311): a global SRAM region may cover the offsets of the row area or of the
tap partition on no core. -/
def nodePlaces (d : NodeDesc) : Bool :=
  let rings := [d.me, d.ch0, d.ch1]
  noPair (fun (a b : Region) => rangesMeet a.base.toNat a.extent b.base.toNat b.extent) d.regions
    && (d.regions.all fun (r : Region) => spaceOf r.base != 3 || localOk d (r.base.toNat % 0x400000) r.extent)
    && (d.regions.all fun (r : Region) => !regionAt r (rowAreaBase d) 0x20000 && (d.ntaps = 0 || !regionAt r 0x3C0000 0x40000))
    && (rings.all fun r => localOk d (ringRange r).1 (ringRange r).2)
    && noPair (fun (a b : RingDesc) => rangesMeet (ringRange a).1 (ringRange a).2 (ringRange b).1 (ringRange b).2) rings
    && rings.all fun r => d.regions.all fun g => !regionAt g (ringRange r).1 (ringRange r).2

/-- A code section's checks (R94, R95). -/
def sectionOk (off len entry : Nat) : Bool :=
  off % 4 = 0 && len % 4 = 0 && 0x100 ≤ off && off + len ≤ 0x10000 && off ≤ entry && entry < off + len

/-- A part of the image beyond the code area, where its count is not zero (R95). -/
def partOk (img bytes imglen : Nat) : Bool := bytes = 0 || (0x10000 ≤ img && img + bytes ≤ imglen)

/-- A node's image, `w k` being the header word at offset 8 × k (R94, R95). -/
def imageForm (d : NodeDesc) (w : Nat → Nat) : Bool :=
  let imglen := fld (w 1) 32 32
  let x := (fld (w 3) 32 32, fld (w 3) 0 32)
  let a := (fld (w 2) 32 32, fld (w 2) 0 32)
  fld (w 0) 32 32 = 0x59464E34 && fld (w 0) 16 16 = 1 && fld (w 0) 0 16 = 0 && fld (w 1) 0 32 = 0
    && ((List.range 28).all fun k => w (4 + k) == 0) && 0x100 ≤ imglen && imglen ≤ 2 ^ 31
    && sectionOk a.1 a.2 d.asEntry && sectionOk x.1 x.2 d.xsEntry && !rangesMeet a.1 a.2 x.1 x.2
    && d.asEntry < imglen && d.xsEntry < imglen
    && partOk d.me.img (4 * d.me.pre) imglen && partOk d.ch0.img (4 * d.ch0.pre) imglen && partOk d.ch1.img (4 * d.ch1.pre) imglen
    && partOk d.tapImg (16 * d.ntaps) imglen

/-- A tap-site entry's words (R306). -/
def tapForm (a b : Nat) : Bool := fld a 0 27 = 0 && b = 0 && fld a 30 2 ≤ 1 && fld a 32 16 ≤ 32767

/-- A node of a graph, read at its address in handle space: its descriptor, where it passes R18 and R95. -/
def State.readNode (s : State) (pd : BitVec 12) (a : Word) : Option NodeDesc :=
  let w : Nat → Nat := fun k => s.handleWord pd a (8 * k)
  let d := parseNode w
  if !nodeForm w || !nodePlaces d || !s.reads pd d.code 0x100 then none
  else
    let h : Nat → Nat := fun k => s.handleWord pd d.code (8 * k)
    if imageForm d h && s.reads pd d.code (fld (h 1) 32 32)
        && (List.range d.ntaps).all (fun k =>
          tapForm (s.handleWord pd d.code (d.tapImg + 16 * k)) (s.handleWord pd d.code (d.tapImg + 16 * k + 8)))
    then some d else none

/-- All of a list of optional values. -/
def allSome {α : Type} : List (Option α) → Option (List α)
  | [] => some []
  | none :: _ => none
  | some a :: l => (allSome l).map (a :: ·)

/-- A graph read at its address: its GRAPHID and nodes, where it passes R18 (R15, R38). -/
def State.readGraph (s : State) (pd : BitVec 12) (a : Word) : Option (BitVec 32 × List NodeDesc) :=
  if !s.reads pd a 64 then none
  else
    let h := s.handleWord pd a 0
    let n := fld h 0 16
    if fld h 16 16 != 0 || !((List.range 7).all fun k => s.handleWord pd a (8 + 8 * k) == 0) || n = 0 || 4096 < n
        || !s.reads pd a (64 + 1280 * n) then none
    else (allSome ((List.range n).map fun k => s.readNode pd (a + BitVec.ofNat 64 (64 + 1280 * k)))).map fun l =>
      (BitVec.ofNat 32 (fld h 32 32), l)

/-! ## The graph table (R38) -/

/-- Is a graph named by a context that is not FREE. -/
def State.graphUsed (s : State) (g : GraphEntry) : Bool :=
  s.lan.ctxs.any fun (e : Nat × Ctx) => e.2.st != .free && e.2.pd == g.pd && e.2.graphId == g.id

/-- The least recently named entry that no context uses. -/
def State.graphVictim (s : State) : Option GraphEntry :=
  ((s.lan.graphs.filter fun g => !s.graphUsed g).foldl (fun (m : Option GraphEntry) g =>
    match m with
    | none => some g
    | some x => if g.used < x.used then some g else m) none)

/-- The state with a graph named (R38). -/
def State.nameGraph (s : State) (pd : BitVec 12) (a : Word) : State :=
  { s with
    lan := { s.lan with
      namings := s.lan.namings + 1
      graphs := s.lan.graphs.map fun (g : GraphEntry) =>
        if g.pd = pd && g.addr = a then { g with used := s.lan.namings + 1 } else g } }

/-- The graph that a LAUNCH names, in the table, or the refusal code of R40: 3 BADGRAPH, 4 GRAPHFULL (R38). -/
def State.useGraph (s : State) (pd : BitVec 12) (a : Word) : Except Nat (State × GraphEntry) :=
  match s.lan.graphs.find? fun (g : GraphEntry) => g.pd = pd && g.addr = a with
  | some g => .ok (s.nameGraph pd a, g)
  | none =>
    match s.readGraph pd a with
    | none => .error 3
    | some (id, nodes) =>
      if s.lan.graphs.any fun (g : GraphEntry) => g.pd = pd && g.id = id then .error 3
      else
        let g : GraphEntry := { pd := pd, addr := a, id := id, nodes := nodes, used := s.lan.namings + 1 }
        let put : List GraphEntry → State := fun l => { s with lan := { s.lan with graphs := l ++ [g], namings := s.lan.namings + 1 } }
        if s.lan.graphs.length < 256 then .ok (put s.lan.graphs, g)
        else match s.graphVictim with
          | some v => .ok (put (s.lan.graphs.filter fun (x : GraphEntry) => !(x.pd = v.pd && x.addr = v.addr)), g)
          | none => .error 4

end Sys2Proof.Machine
end

