-- ==== Sys2Proof/Machine/Launch.lean ====
section
/-! DEFINITION. Submission queues, doorbells and records (R31 to R40), completion-queue registers (R377), host writes to the Light List
(R7) and to memory (R29, R37), and what a host input is to a replay (R395, R396). -/

namespace Sys2Proof.Machine

/-! ## Host inputs -/

/-- A submission queue. -/
def State.sqAt (s : State) (q : Nat) : SqDesc := Tab.get SqDesc.reset s.front.sqs q

/-- The PD to which a host input belongs: that of the queue, the handle table, the core's row group or the context that it names;
none for the rest. -/
def State.inputPd (s : State) (i : HostIn) : Option Nat :=
  match i with
  | .bar port 0 off _ =>
    let q := port.val * 1024 + off % 65536 / 64
    (match off / 65536 with
     | 0x10 => some (s.sqAt q).pd.toNat
     | 0x18 => some (s.cqAt q).pd.toNat
     | 0x20 => some (off % 65536 / 8)
     | 0x40 => some (s.coreAt (Fin.ofNat 512 (off % 65536 / 64))).g.bank.pd.toNat
     | _ => none)
  | .bar port 2 off _ =>
    let q := port.val * 1024 + off / 4096
    some (if off % 4096 = 0 then (s.sqAt q).pd else (s.cqAt q).pd).toNat
  | .bar _ _ off _ => some (s.ctxAt (off / 512)).pd.toNat
  | _ => none

/-- Mode 4 refuses the host inputs of its PDs, and those that belong to no PD (R396; log entry 80). -/
def State.inputRefused (s : State) (i : HostIn) : Bool :=
  s.replay.mode = .replayInputs && (s.inputPd i).all s.params.replayPds.contains

/-- A host input taken, unless a replay refuses it: it is recorded (R395, R396). In BOOTFAIL every BAR0 write but the mailbox's is discarded
(R398). -/
def State.hostInput (s : State) (port : Fin 4) (i : HostIn) (f : State → State) : State :=
  if s.mgmt.phase = .bootfail || s.inputRefused i then s else f (s.logInput port i)

/-- A write of a word of BAR0 (R28). -/
def bar0 (port : Fin 4) (off : Nat) (v : Word) : HostIn := .bar port 0 off v

/-- The port of a queue (R28). -/
def portOf (q : Fin 4096) : Fin 4 := Fin.ofNat 4 (q.val / 1024)

/-! ## Submission queues (R31, R35) -/

/-- The state with a submission queue set. -/
def State.setSq (s : State) (q : Nat) (d : SqDesc) : State :=
  { s with front := { s.front with sqs := Tab.set SqDesc.reset s.front.sqs q d } }

/-- A doorbell value applied to a queue (R35). -/
def SqDesc.ring (d : SqDesc) (v : Word) : SqDesc :=
  let seq : BitVec 16 := BitVec.ofNat 16 (v.toNat / 2 ^ 48)
  let tail := v.toNat % 2 ^ 16
  let n := 2 ^ d.log2n.toNat
  let step := (seq - d.lastSeq).toNat
  let old := d.tail.toNat
  let free := n - 1 - (old + n - d.head.toNat) % n
  if !d.en || step = 0 || 32768 ≤ step || fld v.toNat 16 32 != 0 || n ≤ tail then d
  else if free < (tail + n - old) % n then { d with overrun := true }
  else { d with lastSeq := seq, tail := BitVec.ofNat 16 tail }

/-- The doorbell page of a queue in BAR2: bytes 0 to 7 are its submission queue's, and 8 to 15 its completion queue's (R35, R377). -/
def doorbell (q : Fin 4096) (off : Nat) (v : Word) : HostIn := .bar (portOf q) 2 (q.val % 1024 * 4096 + off) v

/-- A doorbell write of a submission queue (R35). -/
def State.ringSq (s : State) (q : Nat) (v : Word) : State := s.setSq q ((s.sqAt q).ring v)

/-- SQ_DOORBELL (R35). -/
def execSqDoorbell (q : Fin 4096) (v : Word) (s : State) : Host.Outcome State Fault Refusal :=
  .next (s.hostInput (portOf q) (doorbell q 0 v) fun s => s.ringSq q.val v)

/-- The memory key of a queue's ring and mirror (R31, R32). -/
def SqDesc.key (d : SqDesc) (a : Nat) : Nat := if d.loc then devKey a else hostKey a

/-- One queue of a reconcile pass (R36): mirror word 0 applied as a doorbell; a value that would be accepted is an input (R395). -/
def State.reconcile (s : State) (q : Nat) : State :=
  let d := s.sqAt q
  if !d.en then s
  else
    let v := s.word (d.key d.mirror.toNat)
    let d' := d.ring v
    if d' = d then s
    else s.hostInput (portOf (Fin.ofNat 4096 q)) (doorbell (Fin.ofNat 4096 q) 0 v) fun s => s.setSq q d'

/-- RECONCILE_PASS (R36). -/
def execReconcilePass (s : State) : Host.Outcome State Fault Refusal :=
  .next ((s.front.sqs.map Prod.fst).foldl State.reconcile s)

/-- A submission-queue descriptor with a word written (R31). DESIGN CHOICE (log entry 82): a write that would set EN with LOG2N or
RLLOG2N out of range stores its other fields, and leaves EN at 0. -/
def SqDesc.write (d : SqDesc) (k : Nat) (v : Word) : SqDesc :=
  match k with
  | 0 => if d.en then d else { d with base := v }
  | 1 =>
    let e := bit v.toNat 54
    if d.en then { d with en := e, vec := BitVec.ofNat 11 v.toNat }
    else
      let d := { d with
        log2n := BitVec.ofNat 5 (fld v.toNat 56 5), loc := bit v.toNat 55, pd := BitVec.ofNat 12 (fld v.toNat 32 12)
        vec := BitVec.ofNat 11 v.toNat }
      let ok := 4 ≤ d.log2n.toNat && d.log2n.toNat ≤ 16 && 4 ≤ d.rlLog2n.toNat && d.rlLog2n.toNat ≤ 16
      if !e then d
      else if ok then { d with en := true, lastSeq := 0, tail := 0, head := 0, rlHead := 0, rlTail := 0 }
      else { d with malform := true }
  | 2 => if d.en then d else { d with rlBase := v }
  | 3 => if d.en then d else { d with rlLog2n := BitVec.ofNat 5 v.toNat }
  | 5 => { d with overrun := d.overrun && !bit v.toNat 17, malform := d.malform && !bit v.toNat 16 }
  | 6 => if d.en then d else { d with mirror := v }
  | 7 => if v.toNat % 2 ^ 16 < 2 ^ d.rlLog2n.toNat then { d with rlHead := BitVec.ofNat 16 v.toNat } else d
  | _ => d

/-- A word of a submission queue's descriptor written (R31): where EN is set and this empties the queue, mirror word 1 is written (R32), and
no record of the queue is posted any more (R37). -/
def State.writeSq (s : State) (q k : Nat) (v : Word) : State :=
  let d := s.sqAt q
  let e := d.write k v
  let s := s.setSq q e
  let s := if !d.en && e.en then { s with stale := s.stale.filter fun (x : Stale) => x.queue != q } else s
  if !d.en && e.en && d.head != d.tail then s.writeMem (leCells (e.key (e.mirror.toNat + 8)) 8 0) else s

/-- SQ_DESCRIPTOR_WRITE (R31). -/
def execSqDescriptorWrite (q : Fin 4096) (k : Fin 8) (v : Word) (s : State) : Host.Outcome State Fault Refusal :=
  .next (s.hostInput (portOf q) (bar0 (portOf q) (0x100000 + q.val % 1024 * 64 + 8 * k.val) v) fun s => s.writeSq q.val k.val v)

/-! ## Completion-queue registers (R377, R379) -/

/-- A completion-queue descriptor with a word written (R377). -/
def CqDesc.write (d : CqDesc) (k : Nat) (v : Word) : CqDesc :=
  match k with
  | 0 => if d.en then d else { d with base := v }
  | 1 =>
    let e := bit v.toNat 55
    if d.en then { d with en := e }
    else
      let d := { d with
        log2n := BitVec.ofNat 5 (fld v.toNat 56 5), pnote := bit v.toNat 54, cn := BitVec.ofNat 8 (fld v.toNat 40 8)
        ct := BitVec.ofNat 8 (fld v.toNat 32 8), vec := BitVec.ofNat 11 v.toNat }
      let ok := 4 ≤ d.log2n.toNat && d.log2n.toNat ≤ 16 && d.cn != 0 && d.ct != 0 && d.ct.toNat ≤ 64
      if !e then d
      else if ok then { d with en := true, tail := 0, head := 0, phase := true }
      else { d with malform := true }
  | 2 => { d with malform := d.malform && !bit v.toNat 18 }
  | 3 => if d.en then d else { d with pd := BitVec.ofNat 12 (fld v.toNat 32 12) }
  | _ => d

/-- A word of a completion queue's descriptor written (R377). -/
def State.writeCq (s : State) (q k : Nat) (v : Word) : State := (s.setCq q ((s.cqAt q).write k v)).drain q

/-- CQ_DESCRIPTOR_WRITE (R377): held records are written once EN is 1 again (R379). -/
def execCqDescriptorWrite (q : Fin 4096) (k : Fin 8) (v : Word) (s : State) : Host.Outcome State Fault Refusal :=
  .next (s.hostInput (portOf q) (bar0 (portOf q) (0x180000 + q.val % 1024 * 64 + 8 * k.val) v) fun s => s.writeCq q.val k.val v)

/-- A head doorbell of a completion queue (R377): a value with a bit above HEAD, or outside the ring, is discarded. -/
def State.cqHead (s : State) (q : Nat) (v : Word) : State :=
  let d := s.cqAt q
  if v.toNat < 2 ^ 16 && v.toNat < 2 ^ d.log2n.toNat then (s.setCq q { d with head := BitVec.ofNat 16 v.toNat }).drain q else s

/-- CQ_HEAD_DOORBELL (R377). -/
def execCqHeadDoorbell (q : Fin 4096) (v : Word) (s : State) : Host.Outcome State Fault Refusal :=
  .next (s.hostInput (portOf q) (doorbell q 8 v) fun s => s.cqHead q.val v)

/-! ## Host writes to the Light List (R7, R8) -/

/-- Does a word of an entry hold a field marked RW or W1C (R8). -/
def ctxWritable (k : Nat) : Bool :=
  (1 ≤ k && k ≤ 4) || (7 ≤ k && k ≤ 16) || 32 ≤ k

/-- An entry with a word written by the host (R8). -/
def Ctx.write (x : Ctx) (k : Nat) (v : Word) : Ctx :=
  let n := v.toNat
  match k with
  | 1 => { x with prio := Fin.ofNat 8 (fld n 32 3), shd := BitVec.ofNat 12 (fld n 16 12), pd := BitVec.ofNat 12 n }
  | 2 => { x with deadline := v }
  | 3 => { x with wake := v }
  | 4 => { x with kvroot := v }
  | 7 => { x with accepted := BitVec.ofNat 32 n }
  | 8 => { x with saveFrame := v }
  | 9 => { x with nflags := x.nflags &&& ~~~(BitVec.ofNat 8 n) }
  | 10 => { x with probeSet := BitVec.ofNat 8 (fld n 8 8), steerEn := bit n 7, steerSet := BitVec.ofNat 6 n }
  | 11 => { x with steerCoef := v }
  | 12 => { x with rng := { x.rng with s0 := v } }
  | 13 => { x with rng := { x.rng with s1 := v } }
  | 14 => { x with rng := { x.rng with s2 := v } }
  | 15 => { x with rng := { x.rng with s3 := v } }
  | 16 => { x with rngCount := v }
  | k => if 32 ≤ k then { x with hostArea := Tab.set 0 x.hostArea (k - 32) v } else x

/-- The states in which host writes take effect (R7). -/
def Ctx.hostWrites (x : Ctx) : Bool :=
  match x.st, x.reason with
  | .free, _ => true
  | .faulted, _ => true
  | .parked, .host => true
  | _, _ => false

/-- A new WAKE goes to the Tender as a HINT (R227). -/
def State.hintWake (s : State) (i : Nat) (v : Word) : State :=
  let h := (handleOf i (s.ctxAt i)).toNat
  s.toTender (ctxDie h) (.hint h v)

/-- A host write of a word of a Light List entry (R7): discarded and counted outside the writable states. -/
def State.lightWrite (s : State) (i k : Nat) (v : Word) : State :=
  let x := s.ctxAt i
  if !ctxWritable k then s
  else if !x.hostWrites then { s with mgmt := { s.mgmt with lightDiscards := s.mgmt.lightDiscards + 1 } }
  else
    let s := s.setCtx i (x.write k v)
    if k = 3 then s.hintWake i v else s

/-- LIGHT_LIST_WRITE (R7). -/
def execLightListWrite (i : Fin 131072) (k : Fin 64) (v : Word) (s : State) : Host.Outcome State Fault Refusal :=
  .next (s.hostInput 0 (.bar 0 4 (i.val * 512 + 8 * k.val) v) fun s => s.lightWrite i.val k.val v)

/-- The control plane writes WAKE of a context, whatever its state (R8, R9). -/
def State.writeWake (s : State) (i : Nat) (v : Word) : State := (s.modCtx i fun x => { x with wake := v }).hintWake i v

/-! ## Records (R33, R34, R37, R39, R40) -/

/-- A refusal (R40): a record in the refusal log where it has room, and the queue's vector. DESIGN CHOICE (log entry 83): RLLOST
wraps past its largest value. -/
def State.refuse (s : State) (q : Nat) (code elem : Nat) (tag ctx : Nat) (idx : Nat) : State :=
  let d := s.sqAt q
  let n := 2 ^ d.rlLog2n.toNat
  let s := { s with msix := s.msix ++ [(q / 1024, d.vec.toNat)] }
  if (d.rlTail.toNat + 1) % n = d.rlHead.toNat then s.setSq q { d with rlLost := d.rlLost + 1 }
  else
    let s := s.writeMem (leCells (hostKey (d.rlBase.toNat + 16 * d.rlTail.toNat)) 16
      (code * 2 ^ 56 + elem * 2 ^ 32 + tag + (ctx * 2 ^ 32 + idx) * 2 ^ 64))
    s.setSq q { d with rlTail := BitVec.ofNat 16 ((d.rlTail.toNat + 1) % n) }

/-- A submission record: TYPE, NCTX, TAG, GRAPH, LIST and CQ, and whether its reserved fields are zero (R33). -/
structure SubRec where
  type : Nat
  nctx : Nat
  tag : Nat
  graph : Word
  list : Word
  cq : Nat
  clean : Bool
  deriving DecidableEq, Repr

/-- The values that a word of a posted record or of its list had since the record was posted and before the host rewrote it (R37). -/
def State.staleVals (s : State) (q idx key : Nat) : List Word :=
  (s.stale.filter fun (e : Stale) => e.queue = q && e.idx = idx && e.word = key / 8).map Stale.val

/-- A 64-bit word of a posted record or of its list as the Lantern reads it: where the host has rewritten it since the record was posted,
one of the values that it had, as a free value has it (R37). -/
def State.postedRead (s : State) (q idx key : Nat) : Nat :=
  match s.staleVals q idx key with
  | [] => readLE s.mem key 8
  | old =>
    match Config.staleChoice s.fresh key % (old.length + 1) with
    | 0 => readLE s.mem key 8
    | n + 1 => ((old[n]?).getD 0).toNat

/-- The memory key of a word of the record at a ring index (R33). -/
def SqDesc.recKey (d : SqDesc) (idx k : Nat) : Nat := d.key (d.base.toNat + 64 * idx + 8 * k)

/-- The record of a queue at a ring index (R33), its words read as `read` does. -/
def SqDesc.recAt (d : SqDesc) (read : Nat → Nat) (idx : Nat) : SubRec :=
  let w : Nat → Nat := fun k => read (d.recKey idx k)
  { type := fld (w 0) 56 8, nctx := fld (w 0) 32 11, tag := fld (w 0) 0 32, graph := BitVec.ofNat 64 (w 1)
    list := BitVec.ofNat 64 (w 2), cq := fld (w 3) 0 12
    clean := fld (w 0) 43 13 = 0 && w 3 / 4096 = 0 && (List.range 4).all fun k => w (4 + k) == 0 }

/-- The record at a queue's HEAD (R33, R37). -/
def State.headRec (s : State) (q : Nat) : SubRec :=
  (s.sqAt q).recAt (s.postedRead q (s.sqAt q).head.toNat) (s.sqAt q).head.toNat

/-- Is a context list readable (R39). -/
def State.listReadable (s : State) (pd : BitVec 12) (a : Word) (n : Nat) : Bool :=
  if spaceOf a = 1 then s.reads pd a n else a.toNat + n ≤ Config.hbmBytes

/-- The memory key of a word of a context list. -/
def State.listKey (s : State) (pd : BitVec 12) (a : Word) (off : Nat) : Option Nat :=
  if spaceOf a = 1 then s.translateHere pd .read (a + BitVec.ofNat 64 off) else some (devKey (a.toNat + off))

/-- A word of the context list of the record at a queue's HEAD (R37). -/
def State.listWord (s : State) (q : Nat) (pd : BitVec 12) (a : Word) (off : Nat) : Nat :=
  match s.listKey pd a off with
  | some key => s.postedRead q (s.sqAt q).head.toNat key
  | none => 0

/-- The posted records: the queue and ring index of each (R37). -/
def State.posted (s : State) : List (Nat × Nat) :=
  s.front.sqs.flatMap fun (e : Nat × SqDesc) =>
    let n := 2 ^ e.2.log2n.toNat
    if e.2.en then (List.range ((e.2.tail.toNat + n - e.2.head.toNat) % n)).map fun k => (e.1, (e.2.head.toNat + k) % n) else []

/-- Is a 64-bit word, by its key, one of a posted record, or of a context list that the record may be read to name (R37). -/
def State.isPosted (s : State) (q idx word : Nat) : Bool :=
  let d := s.sqAt q
  let vals : Nat → List Word := fun k => s.word (d.recKey idx k) :: s.staleVals q idx (d.recKey idx k)
  let first := d.recKey idx 0 / 8
  let n := ((vals 0).map fun w => fld w.toNat 32 11).foldl max 0
  (first ≤ word && word < first + 8) ||
    (vals 2).any fun a => (List.range (2 * n)).any fun j => (s.listKey d.pd a (8 * j)).any fun key => key / 8 == word

/-- Bytes that the host writes to a memory: what they replace in a posted record or list may still be read for that record (R29, R37). -/
def State.hostStore (s : State) (cells : List (Nat × Byte)) : State :=
  let words := (cells.map fun (c : Nat × Byte) => c.1 / 8).eraseDups
  let old : List Stale := s.posted.flatMap fun r =>
    (words.filter (s.isPosted r.1 r.2)).map fun w => { queue := r.1, idx := r.2, word := w, val := s.word (8 * w) }
  ({ s with stale := s.stale ++ old }).writeMem cells

/-- The record's own checks (R39): BADTYPE or BADREC. -/
def State.checkRec (s : State) (q : Nat) (r : SubRec) : Option Nat :=
  let d := s.sqAt q
  let c := s.cqAt r.cq
  if r.type != 1 && r.type != 2 then some 1
  else if !r.clean || r.nctx = 0 || 1024 < r.nctx || r.list.toNat % 16 != 0
      || (if r.type = 1 then r.graph.toNat % 64 != 0 else r.graph != 0)
      || r.cq / 1024 != q / 1024 || !c.en || c.pd != d.pd || !s.listReadable d.pd r.list (16 * r.nctx) then some 2
  else none

/-- A context-list element (R34). -/
structure ListElem where
  clean : Bool
  rlen : Nat
  ctx : BitVec 32
  lineage : Nat
  pos : Nat
  deriving DecidableEq, Repr

/-- Element `k` of the context list of the record at a queue's HEAD (R34). -/
def State.listElem (s : State) (q : Nat) (pd : BitVec 12) (a : Word) (k : Nat) : ListElem :=
  let w0 := s.listWord q pd a (16 * k)
  let w1 := s.listWord q pd a (16 * k + 8)
  { clean := fld w0 48 16 = 0, rlen := fld w0 32 16, ctx := BitVec.ofNat 32 w0, lineage := fld w1 32 32, pos := fld w1 0 32 }

/-- How a launch takes a context (R11, R12): as a new launch, as a re-entry at NODE, or not at all. -/
inductive Entry where
  | anew | again | refused
  deriving DecidableEq, Repr

/-- The launch event in a context's state (R11, R12). -/
def Ctx.launchAs (x : Ctx) : Entry :=
  match x.st, x.reason with
  | .free, _ => .anew
  | .parked, .host => .anew
  | .parked, .probe => .again
  | .parked, .budget => .again
  | .parked, .ktrap => .again
  | .faulted, _ => .again
  | .swapped, .host => .anew
  | .swapped, .probe => .again
  | .swapped, .budget => .again
  | .swapped, .ktrap => .again
  | _, _ => .refused

/-- Does a context's state take a release (R11). -/
def Ctx.releasable (x : Ctx) : Bool :=
  match x.st, x.reason with
  | .parked, .page => false
  | .parked, _ => true
  | .faulted, _ => true
  | .swapped, _ => true
  | _, _ => false

/-- The refusal code of an element of a LAUNCH under a graph, or none (R39, R40). -/
def State.checkLaunch (s : State) (pd : BitVec 12) (g : BitVec 32) (e : ListElem) : Option Nat :=
  let x := s.ctxAt (ctxIndex e.ctx)
  if !s.names e.ctx then some 5
  else if x.pd != pd then some 6
  else if x.launchAs = .refused then some 7
  else if !e.clean || e.rlen = 0 || 2 ^ 32 < e.pos + e.rlen || e.lineage < x.accepted.toNat then some 8
  else if x.launchAs = .again && x.graphId != g then some 9
  else none

/-- A context admitted (R11, R12, R34): its row enters the pool, or a SWAPPED context waits for its swap-in. -/
def State.admitCtx (s : State) (g : BitVec 32) (tag cq : Nat) (e : ListElem) : State :=
  let i := ctxIndex e.ctx
  let x := s.ctxAt i
  let row : RowData := { rlen := e.rlen, pos := e.pos, lineage := e.lineage, tag := BitVec.ofNat 32 tag, cq := cq }
  let x' := if x.launchAs = .anew then { x with graphId := g, node := 0, row := row } else { x with row := row }
  if x.st = .swapped then
    let s := ((s.setCtx i { x' with ppage := BitVec.allOnes 64 }).toState i .parked .page)
    s.toTender (ctxDie e.ctx.toNat) (.swapIn e.ctx.toNat)
  else (s.setCtx i x').poolRow i s.now

/-- Element `k` of a LAUNCH (R39). -/
def State.launchElem (s : State) (q : Nat) (r : SubRec) (g : BitVec 32) (idx k : Nat) (e : ListElem) : State :=
  match s.checkLaunch (s.sqAt q).pd g e with
  | some code => s.refuse q code k r.tag e.ctx.toNat idx
  | none => s.admitCtx g r.tag r.cq e

/-- Element `k` of a RELEASE (R11, R39): the context is freed and its Tender told. -/
def State.releaseElem (s : State) (q : Nat) (r : SubRec) (idx k : Nat) (e : ListElem) : State :=
  let i := ctxIndex e.ctx
  let x := s.ctxAt i
  if !s.names e.ctx then s.refuse q 5 k r.tag e.ctx.toNat idx
  else if x.pd != (s.sqAt q).pd then s.refuse q 6 k r.tag e.ctx.toNat idx
  else if !x.releasable then s.refuse q 7 k r.tag e.ctx.toNat idx
  else (s.freeCtx i).toTender (ctxDie e.ctx.toNat) (.released e.ctx.toNat)

/-- HEAD passes the record, and the device writes mirror word 1 (R32, R37). -/
def State.passRec (s : State) (q : Nat) : State :=
  let d := s.sqAt q
  let head := (d.head.toNat + 1) % 2 ^ d.log2n.toNat
  let s := s.setSq q { d with head := BitVec.ofNat 16 head }
  let s := if s.stale.isEmpty then s
    else { s with stale := s.stale.filter fun (e : Stale) => !(e.queue = q && e.idx = d.head.toNat), fresh := s.fresh + 1 }
  { (s.writeMem (leCells (d.key (d.mirror.toNat + 8)) 8 head)) with front := { s.front with served := q } }

/-- The elements of a record, with their indices. -/
def State.elems (s : State) (q : Nat) (r : SubRec) : List (Nat × ListElem) :=
  (List.range r.nctx).map fun k => (k, s.listElem q (s.sqAt q).pd r.list k)

/-- A record of a queue taken (R38, R39). DESIGN CHOICE (log entry 83): the refusal of a whole record, which names no context, holds
0 in CTX. -/
def State.takeRec (s : State) (q : Nat) (r : SubRec) : State :=
  let idx := (s.sqAt q).head.toNat
  match s.checkRec q r with
  | some code => (s.refuse q code 0xFFFF r.tag 0 idx).passRec q
  | none =>
    let es := s.elems q r
    if r.type = 2 then (es.foldl (fun s e => s.releaseElem q r idx e.1 e.2) s).passRec q
    else match s.useGraph (s.sqAt q).pd r.graph with
      | .error code => (s.refuse q code 0xFFFF r.tag 0 idx).passRec q
      | .ok (s, g) => (es.foldl (fun s e => s.launchElem q r g.id idx e.1 e.2) s).passRec q

/-- The queue whose turn it is: the enabled queues with posted records in round-robin order of number (R37). -/
def State.nextQueue (s : State) : Option Nat :=
  let l := (s.front.sqs.filter fun (e : Nat × SqDesc) => e.2.en && e.2.head != e.2.tail).map Prod.fst
  (l.find? fun q => s.front.served < q) <|> l.head?

/-- The Lantern takes the next record if it is, or is not, a RELEASE. -/
def State.takeNext (s : State) (release : Bool) : State :=
  if s.mgmt.phase != .run then s
  else match s.nextQueue with
    | none => s
    | some q =>
      let r := s.headRec q
      if (r.type == 2) == release then s.takeRec q r else s

/-- LAUNCH (R39): the record whose turn it is, unless it is a RELEASE; a record of another TYPE is refused here. -/
def execLaunch (s : State) : Host.Outcome State Fault Refusal := .next (s.takeNext false)

/-- RELEASE (R39): the record whose turn it is, if it is a RELEASE. -/
def execRelease (s : State) : Host.Outcome State Fault Refusal := .next (s.takeNext true)

end Sys2Proof.Machine
end

