-- ==== Sys2Proof/Machine/Driver.lean ====
section
/-! DEFINITION. What the operator's driver does through BAR0 besides queues (R41 to R43, R218, R222, R310, R381, R387 to R391): bias
flips, HSYNC, DIRQ, TAPSYNC, dump frames and debug blocks. -/

namespace Sys2Proof.Machine

/-! ## Bias (R41 to R43) -/

/-- Does a message carry a device write to a bias page (R43): one that its combining step returns included. -/
def Flight.writesPage (f : Flight) (page : Nat) : Bool :=
  f.keys.any fun key => devKey (page * 65536) ≤ key && key < devKey (page * 65536 + 65536)

/-- The row groups of a core: the one that runs on it, and those saved from it. -/
def State.allGroups (s : State) (c : CoreId) : List Group := (s.coreAt c).g :: (s.saved.filter fun v => v.core = c).map Saved.g

/-- Does a store entry write a byte of a bias page. -/
def State.storesPage (s : State) (c : CoreId) (g : Group) (e : StoreEntry) (page : Nat) : Bool :=
  e.bytes.any fun b => match s.keyOf c g.bank.pd .write b.1 with
    | some key => devKey (page * 65536) ≤ key && key < devKey (page * 65536 + 65536)
    | none => false

/-- The device writes to a page that have been issued and have not reached the memory port (R43): stores still to be checked, and
messages. -/
def State.pageWrites (s : State) (page : Nat) : List FlipWait :=
  ((s.net.filter fun f => f.writesPage page).map fun f =>
      { src := f.src, inst := f.inst, path := f.path, no := f.no, lo := f.lo, len := f.len }) ++
    (List.ofFn (n := 512) id).flatMap fun (c : CoreId) => (s.allGroups c).flatMap fun g =>
      (g.storeQ.filter fun e => s.storesPage c g e page).map fun e =>
        { src := c, inst := g.bank.inst, path := .xst, no := e.no, lo := 0, len := 0 }

/-- Has a device write to a page still to reach the memory port. -/
def State.writeOpen (s : State) (page : Nat) (w : FlipWait) : Bool :=
  (s.pageWrites page).any fun x =>
    x.src = w.src && x.inst = w.inst && x.path = w.path && x.no = w.no && w.lo ≤ x.lo && x.lo < w.lo + max 1 w.len

/-- The state with a port's flips changed. -/
def State.setFlips (s : State) (p : Fin 4) (l : List Flip) : State := { s with front := { s.front with flips := s.front.flips.set p l } }

/-- Is a page in host bias (R41). -/
def State.inHostBias (s : State) (page : Nat) : Bool := s.front.hostBias.contains page

/-- The first flip of a list that is not complete, changed. -/
def modPending (f : Flip → Flip) : List Flip → List Flip
  | [] => []
  | x :: l => if x.done.isNone then f x :: l else x :: modPending f l

/-- The first flip of a port that is not complete (R42). -/
def State.pendingFlip (s : State) (p : Fin 4) : Option Flip := (s.front.flips[p]).find? fun (x : Flip) => x.done.isNone

/-- A flip ends (R42, R43): the bias changes unless it timed out, and MSI-X vector 0 is signalled. -/
def State.endFlip (s : State) (p : Fin 4) (x : Flip) (timeout : Bool) : State :=
  let bias :=
    if timeout then s.front.hostBias
    else if x.toHost then (if s.inHostBias x.page then s.front.hostBias else s.front.hostBias ++ [x.page])
    else s.front.hostBias.filter fun n => n != x.page
  let s := s.setFlips p (modPending (fun x => { x with done := some timeout }) s.front.flips[p])
  { s with front := { s.front with hostBias := bias }, msix := s.msix ++ [(p.val, 0)] }

/-- The next flip of a port starts (R43): with the device writes to its page issued before; one to the page's current bias completes at
once. -/
def State.startFlips (s : State) (p : Fin 4) : Nat → State
  | 0 => s
  | fuel + 1 =>
    match s.pendingFlip p with
    | none => s
    | some x =>
      if x.start.isSome then s
      else if s.inHostBias x.page = x.toHost then State.startFlips (s.endFlip p x false) p fuel
      else
        s.setFlips p (modPending
          (fun x => { x with start := some s.now, waits := if x.toHost then s.pageWrites x.page else [] })
          s.front.flips[p])

/-- A BIASCMD write (R42): the seventeenth pending flip of a port is discarded and sets BIASFULL. -/
def State.biasCmd (s : State) (p : Fin 4) (page : BitVec 24) (toHost : Bool) : State :=
  let l := s.front.flips[p]
  if 16 ≤ l.length then { s with front := { s.front with biasFull := s.front.biasFull.set p true } }
  else (s.setFlips p (l ++ [{ page := page.toNat, toHost := toHost, start := none, waits := [], done := none }])).startFlips p 17

/-- BIAS_TO_DEVICE (R42, R43). -/
def execBiasToDevice (port : Fin 4) (page : BitVec 24) (s : State) : Host.Outcome State Fault Refusal :=
  .next (s.hostInput port (bar0 port 0 (BitVec.ofNat 64 (page.toNat * 2 ^ 40 + 1))) fun s => s.biasCmd port page false)

/-- BIAS_TO_HOST (R42, R43). -/
def execBiasToHost (port : Fin 4) (page : BitVec 24) (s : State) : Host.Outcome State Fault Refusal :=
  .next (s.hostInput port (bar0 port 0 (BitVec.ofNat 64 (page.toNat * 2 ^ 40 + 2))) fun s => s.biasCmd port page true)

/-- BIAS_FLIP_COMPLETE (R43): to host bias once every device write issued before the start has arrived; to device bias once the host has
given up every line, which it does when this event comes. A flip not complete 1 ms after its start can only time out. -/
def execBiasFlipComplete (port : Fin 4) (s : State) : Host.Outcome State Fault Refusal :=
  .next
    (match s.pendingFlip port with
     | some x =>
       if (x.start.any fun t => s.now ≤ t + 1000000) && !x.waits.any (s.writeOpen x.page) then (s.endFlip port x false).startFlips port 17 else s
     | none => s)

/-- BIAS_FLIP_TIMEOUT (R43): 1 ms after the start. -/
def execBiasFlipTimeout (port : Fin 4) (s : State) : Host.Outcome State Fault Refusal :=
  .next
    (match s.pendingFlip port with
     | some x =>
       (match x.start with
        | some t => if t + 1000000 ≤ s.now then (s.endFlip port x true).startFlips port 17 else s
        | none => s)
     | none => s)

/-- The state with an answer for the host. -/
def State.answerHost (s : State) (bytes : List Byte) (poison : Bool) : State :=
  { s with hostOut := some { bytes := bytes, poison := poison, refused := false } }

/-- The state in which the host has the unsupported-request response (R5). -/
def State.refuseHost (s : State) : State := { s with hostOut := some { bytes := [], poison := false, refused := true } }

/-- The word that a read of BIASDONE returns for a flip (R42). -/
def Flip.doneWord (x : Flip) (timeout : Bool) : Nat := x.page * 2 ^ 40 + 2 + (if timeout then 1 else 0)

/-- BIASDONE (R42): a read returns the oldest completion of the port and removes it, or zero; in BOOTFAIL it is not answered (R398;
log entry 88). -/
def execBiasdone (port : Fin 4) (s : State) : Host.Outcome State Fault Refusal :=
  .next
    (if s.mgmt.phase = .bootfail then s.refuseHost
     else match s.front.flips[port] with
       | x :: l =>
         (match x.done with
          | some timeout => (s.setFlips port l).answerHost (leBytes 8 (x.doneWord timeout)) false
          | none => s.answerHost (leBytes 8 0) false)
       | [] => s.answerHost (leBytes 8 0) false)

/-! ## HSYNC (R218) -/

/-- The records of a row group, with their places (R242). -/
def ringRecords (q : RingState) : List (Nat × OpRecord) :=
  (List.range 64).filterMap fun k => (q.records[(Fin.ofNat 64 k).val]).map fun o => (k, o)

/-- What rests on a check made through the handles of a PD (R218): its messages to memory, its ring records, and its AS reads. -/
def State.handleUses (s : State) (pd : BitVec 12) : List HandleUse :=
  ((s.net.filter fun (f : Flight) => f.pd == pd && f.dst.isNone).map HandleUse.flight)
    ++ (List.ofFn (n := 512) id).flatMap fun (c : CoreId) =>
      (s.allGroups c).flatMap fun g =>
        if g.run.isSome && g.bank.pd = pd then
          ([Ring.me, .ch0, .ch1].flatMap fun r => (ringRecords (g.ringOf r)).map fun e => HandleUse.record c r e.1 e.2.tag)
            ++ g.asReads.map fun a => HandleUse.read c a.no
        else []

/-- Is such a use still open. -/
def State.useOpen (s : State) (u : HandleUse) : Bool :=
  match u with
  | .flight f => s.net.contains f
  | .record c r k tag => (s.allGroups c).any fun g => (ringRecords (g.ringOf r)).any fun e => e.1 = k && e.2.tag = tag
  | .read c no => (s.allGroups c).any fun g => g.asReads.any fun a => a.no = no

/-- A write of HSYNC (R218): it reads 1 from now on; a write while it reads 1 adds to what it waits for. -/
def State.hsyncWrite (s : State) (v : Word) : State :=
  let pd : BitVec 12 := BitVec.ofNat 12 v.toNat
  let before := match s.front.hsync with
    | some h => h.2
    | none => []
  { s with front := { s.front with hsync := some (pd, before ++ s.handleUses pd) } }

/-- HSYNC (R218). -/
def execHsync (v : Word) (s : State) : Host.Outcome State Fault Refusal :=
  .next (s.hostInput 0 (bar0 0 0x18 v) fun s => s.hsyncWrite v)

/-- HSYNC_COMPLETE (R218). -/
def execHsyncComplete (s : State) : Host.Outcome State Fault Refusal :=
  .next
    (match s.front.hsync with
     | some h => if h.2.any s.useOpen then s else { s with front := { s.front with hsync := none } }
     | none => s)

/-! ## DIRQ (R222) -/

/-- The code of a level (R222). -/
def Level.code : Level → Nat
  | .free => 0
  | .pool => 1
  | .hbm => 2
  | .sram => 3
  | .moving => 4

/-- The words of a page-directory entry (R222). A count of pins beyond 65,535 runs on into the reserved bits above PINS (log entry 102;
DESIGN CHOICE). -/
def DirEntry.dirWords (e : DirEntry) : Vector Word 4 :=
  #v[BitVec.ofNat 64 (e.level.code * 2 ^ 61 + e.dest.code * 2 ^ 59 + (if e.wantSram then 2 ^ 58 else 0) + e.pins * 2 ^ 32 + e.refs),
    BitVec.ofNat 64 (e.owner.toNat * 2 ^ 32 + e.shd.toNat * 2 ^ 16 + e.pd.toNat), e.loc, e.last]

/-- A write of DIRQ (R222): DIRDATA takes the entry of the GPN. -/
def State.dirqWrite (s : State) (v : Word) : State :=
  { s with front := { s.front with dirq := v, dirData := (s.page (v.toNat % 2 ^ 28)).dirWords } }

/-- DIRQ (R222). -/
def execDirq (v : Word) (s : State) : Host.Outcome State Fault Refusal :=
  .next (s.hostInput 0 (bar0 0 0x28 v) fun s => s.dirqWrite v)

/-! ## TAPSYNC (R310) -/

/-- A write of TAPSYNC (R310): bit 8 names the steering table, and the low bits an index. One made while an entry is awaited replaces that
entry by its own (log entry 108; DESIGN CHOICE). -/
def State.tapsyncWrite (s : State) (v : Word) : State :=
  { s with front := { s.front with tapsync := some (bit v.toNat 8, v.toNat % 256) } }

/-- TAPSYNC (R310). -/
def execTapsync (v : Word) (s : State) : Host.Outcome State Fault Refusal :=
  .next (s.hostInput 0 (bar0 0 0x48 v) fun s => s.tapsyncWrite v)

/-- Does a row group's snapshot hold an entry of the steering or the probe table (R310). -/
def snapshotHolds (g : Group) (steer : Bool) (idx : Nat) : Bool :=
  g.run.isSome && g.tapTable.any fun b =>
    if steer then b.steer.any fun e => e.1 = idx else b.probes.any fun p => p.idx = idx

/-- TAPSYNC_COMPLETE (R310): no row group, running or saved, holds the entry any more. -/
def execTapsyncComplete (s : State) : Host.Outcome State Fault Refusal :=
  .next
    (match s.front.tapsync with
     | some (st, idx) =>
       if s.cores.toList.any (fun k => snapshotHolds k.g st idx) || s.saved.any (fun v => snapshotHolds v.g st idx) then s
       else { s with front := { s.front with tapsync := none } }
     | none => s)

/-- A write of DUMPFREE (R381): the frame of a DUMPID is free again. -/
def State.dumpFree (s : State) (v : Word) : State := { s with dumpUsed := s.dumpUsed.filter fun n => n != v.toNat % 65536 }

/-- DUMPFREE (R381). -/
def execDumpfree (v : Word) (s : State) : Host.Outcome State Fault Refusal :=
  .next (s.hostInput 0 (bar0 0 0x50 v) fun s => s.dumpFree v)

/-! ## Debug blocks (R387 to R391) -/

/-- Does the debug block of core `c` act: its row group belongs to a PD with debug enabled (R387). -/
def State.debugAt (s : State) (c : CoreId) : Bool :=
  (s.coreAt c).g.run.isSome && s.debugPds.contains (s.coreAt c).g.bank.pd.toNat

/-- The state with the debug block of a core changed. -/
def State.modDebug (s : State) (c : CoreId) (f : Debug → Debug) : State :=
  s.setCoreAt c { s.coreAt c with dbg := f (s.coreAt c).dbg }

/-- A STOPREQ write (R388): the core stops at once. -/
def State.stopReq (s : State) (c : CoreId) : State := if s.debugAt c && (s.coreAt c).ending.isNone then s.stopCore c 0 else s

/-- A RESUME write (R391): discarded when STOPPED is 0. -/
def State.debugGo (s : State) (c : CoreId) : State :=
  if s.debugAt c then s.modDebug c fun d => { d with stopped := false } else s

/-- A write of the first word of a debug block (R387): a SCOPE of 2 or 3 is discarded. -/
def Debug.write (d : Debug) (v : Word) : Debug :=
  { d with
    bken := bit v.toNat 4, cycen := bit v.toNat 3, reten := bit v.toNat 2
    scope := if bit v.toNat 1 then d.scope else bit v.toNat 0 }

/-- DEBUG_STOPREQ (R388). -/
def execDebugStopreq (c : CoreId) (s : State) : Host.Outcome State Fault Refusal :=
  .next (s.hostInput 0 (bar0 0 (0x400000 + 64 * c.val) 0x40) fun s => s.stopReq c)

/-- DEBUG_RESUME (R391). -/
def execDebugResume (c : CoreId) (s : State) : Host.Outcome State Fault Refusal :=
  .next (s.hostInput 0 (bar0 0 (0x400000 + 64 * c.val) 0x20) fun s => s.debugGo c)

/-- CYCLE_MATCH_STOP (R388): after the cycle in which CYCLE equals MATCH; CYCEN is cleared. -/
def execCycleMatchStop (c : CoreId) (s : State) : Host.Outcome State Fault Refusal :=
  .next
    (let k := s.coreAt c
     if s.debugAt c && k.runs && k.dbg.cycen && BitVec.ofNat 64 k.cycle = k.dbg.matchVal + 1 then
       (s.modDebug c fun d => { d with cycen := false }).stopCore c 2
     else s)

/-- RETIRED_MATCH_STOP (R388): before the XS issues the group that would make RETIRED exceed MATCH; RETEN is cleared. -/
def execRetiredMatchStop (c : CoreId) (s : State) : Host.Outcome State Fault Refusal :=
  .next
    (let k := s.coreAt c
     if s.debugAt c && k.runs && k.dbg.reten && BitVec.ofNat 64 k.g.retired = k.dbg.matchVal then
       (s.modDebug c fun d => { d with reten := false }).stopCore c 3
     else s)

/-- SCOPE_STOP (R388): a core of which another core's stop has asked it; a core that is stopped already, or whose row group debug
does not act on, discards the request (R387, R389). -/
def execScopeStop (c : CoreId) (s : State) : Host.Outcome State Fault Refusal :=
  .next
    (if !(s.coreAt c).dbg.stopReq then s
     else if !s.debugAt c || (s.coreAt c).dbg.stopped || (s.coreAt c).stopHalt then s.modDebug c fun d => { d with stopReq := false }
     else if (s.coreAt c).ending.isNone then s.stopCore c 4
     else s)

end Sys2Proof.Machine
end

