-- ==== Sys2Proof/Machine/Float.lean ====
section
/-! DEFINITION. The scalar floating words and FCVT (R126, R127, R133 to R135). -/

namespace Sys2Proof.Machine

/-- The f32 operand of a scalar word: flushed, then ABS and NEG (R126, R133). -/
def f32Operand (fz absv neg : Bool) (v : Word) : Val :=
  applySign (.flt .f32) absv neg (decodeNum (.flt .f32) fz (fld v.toNat 0 32))

/-- Operand A of a scalar floating word. -/
def opA (c : NumCtl) (v : Word) : Val := f32Operand c.fza c.mod.absA c.mod.negA v

/-- Operand B of a scalar floating word. -/
def opB (c : NumCtl) (v : Word) : Val := f32Operand c.fzb c.mod.absB c.mod.negB v

/-- The finished f32 with the flags of the operation beside those of its finish (R134). -/
def finishF32 (c : NumCtl) (v : Val) (invalid : Bool) : Word × Flags :=
  let r := floatFinish c .f32 v
  (BitVec.ofNat 64 r.1, flagIf invalid Flg.iv ||| r.2)

/-- FADD (R133). -/
def faddOf (c : NumCtl) (a b : Word) : Word × Flags :=
  finishF32 c (Val.add c.rm (opA c a) (opB c b)) (addInvalid (opA c a) (opB c b))

/-- FSUB (R133). -/
def fsubOf (c : NumCtl) (a b : Word) : Word × Flags :=
  finishF32 c (Val.add c.rm (opA c a) (opB c b).neg) (addInvalid (opA c a) (opB c b).neg)

/-- FMUL (R133). -/
def fmulOf (c : NumCtl) (a b : Word) : Word × Flags :=
  finishF32 c (Val.mul (opA c a) (opB c b)) (mulInvalid (opA c a) (opB c b))

/-- FMIN (R133). -/
def fminOf (c : NumCtl) (a b : Word) : Word × Flags :=
  finishF32 c (Val.minNum (opA c a) (opB c b)) ((opA c a).isSig || (opB c b).isSig)

/-- FMAX (R133). -/
def fmaxOf (c : NumCtl) (a b : Word) : Word × Flags :=
  finishF32 c (Val.maxNum (opA c a) (opB c b)) ((opA c a).isSig || (opB c b).isSig)

/-- FFMA (R133): the old XD is c, under FZC; no modifier acts on it. -/
def ffmaOf (c : NumCtl) (d a b : Word) : Word × Flags :=
  let z := f32Operand c.fzc false false d
  let p := Val.mul (opA c a) (opB c b)
  finishF32 c (Val.add c.rm p z) (mulInvalid (opA c a) (opB c b) || addInvalid p z)

/-- The element type of a conversion code (R104). -/
def scalarNum : ScalarTy → NumTy
  | .i64 => .int true 64
  | .n64 => .int false 64
  | .f32 => .flt .f32
  | .f16 => .flt .f16
  | .bf16 => .flt .bf16
  | .i32 => .int true 32
  | .n32 => .int false 32

/-- The width of an element type. -/
def NumTy.bits : NumTy → Nat
  | .int _ w => w
  | .flt f => f.width

/-- A result as it stands in an X register: i32 sign-extended, everything else zero-extended (R126). -/
def scalarResult (t : ScalarTy) (code : Nat) : Word :=
  match t with
  | .i32 => BitVec.ofInt 64 (sext 32 (code % 2 ^ 32))
  | _ => BitVec.ofNat 64 code

/-- FCVT (R135). -/
def fcvtOf (c : NumCtl) (src dst : ScalarTy) (a : Word) : Word × Flags :=
  let t := scalarNum src
  let v := applySign t c.mod.absA c.mod.negA (decodeNum t c.fza (fld a.toNat 0 t.bits))
  let r := finishNum c t.isFlt (scalarNum dst) v
  (scalarResult dst r.1, flagIf v.isSig Flg.iv ||| r.2)

/-- A scalar floating result, with latency 4 (R133). -/
def State.floatWord (s : State) (d : RegNum) (r : Word × Flags) : State := s.xResult 4 d r.1 r.2

/-- FADD (R133). -/
def execFadd (d a b : RegNum) (g : Fin 16) (s : State) : Host.Outcome State Fault Refusal :=
  issue (.fadd d a b g) s fun s => s.floatWord d (faddOf s.numCtl (s.seq.getX a) (s.seq.getX b))

/-- FSUB (R133). -/
def execFsub (d a b : RegNum) (g : Fin 16) (s : State) : Host.Outcome State Fault Refusal :=
  issue (.fsub d a b g) s fun s => s.floatWord d (fsubOf s.numCtl (s.seq.getX a) (s.seq.getX b))

/-- FMUL (R133). -/
def execFmul (d a b : RegNum) (g : Fin 16) (s : State) : Host.Outcome State Fault Refusal :=
  issue (.fmul d a b g) s fun s => s.floatWord d (fmulOf s.numCtl (s.seq.getX a) (s.seq.getX b))

/-- FMIN (R133). -/
def execFmin (d a b : RegNum) (g : Fin 16) (s : State) : Host.Outcome State Fault Refusal :=
  issue (.fmin d a b g) s fun s => s.floatWord d (fminOf s.numCtl (s.seq.getX a) (s.seq.getX b))

/-- FMAX (R133). -/
def execFmax (d a b : RegNum) (g : Fin 16) (s : State) : Host.Outcome State Fault Refusal :=
  issue (.fmax d a b g) s fun s => s.floatWord d (fmaxOf s.numCtl (s.seq.getX a) (s.seq.getX b))

/-- FFMA (R133). -/
def execFfma (d a b : RegNum) (g : Fin 16) (s : State) : Host.Outcome State Fault Refusal :=
  issue (.ffma d a b g) s fun s => s.floatWord d (ffmaOf s.numCtl (s.seq.getX d) (s.seq.getX a) (s.seq.getX b))

/-- FCVT (R135). -/
def execFcvt (d a : RegNum) (src dst : ScalarTy) (g : Fin 16) (s : State) : Host.Outcome State Fault Refusal :=
  issue (.fcvt d a src dst g) s fun s => s.floatWord d (fcvtOf s.numCtl src dst (s.seq.getX a))

end Sys2Proof.Machine
end

