-- ==== Sys2Proof/Machine/Tender.lean ====
section
/-! DEFINITION. The Tenders (R226 to R231, R249): NEEDs, moves of pages between levels, swaps of contexts, and what the Lantern does with
their messages (R11, R12). The choices that the specification leaves to a Tender are operands: the GPN of a fresh page, and `pick`, from
which frames and tables are taken. -/

namespace Sys2Proof.Machine

/-- The state with a free value taken. -/
def State.draw (s : State) : State := { s with fresh := s.fresh + 1 }

/-- The next free value. -/
def State.drawn (s : State) : Nat := (Config.freeWord s.fresh).toNat

/-! ## Moves (R228, R229) -/

/-- The level below a level, to which its pages are evicted (R229). -/
def Level.below : Level → Level
  | .sram => .hbm
  | _ => .pool

/-- Is a level above another: SRAM above HBM above POOL. -/
def Level.above (a b : Level) : Bool := b.code < a.code

/-- A move of a page to a level begins (R228, step 1), where the page is not pinned and a frame is free. -/
def State.startMove (s : State) (gpn : Nat) (dest : Level) (pick : Nat) : Option State :=
  let e := s.page gpn
  if e.pins != 0 || e.level == .moving || e.level == .free then none
  else (s.freeFrame (homeDie gpn) dest pick).map fun a =>
    let m : Move := { gpn := gpn, source := e.level, src := e.loc, dest := dest, dst := BitVec.ofNat 64 a, copied := false }
    let s := s.setPage gpn { e with level := .moving, dest := dest }
    { s with tender := { s.tender with moves := s.tender.moves ++ [m] } }

/-- The order in which a level's pages are evicted (R229). -/
def State.evictRank (s : State) (gpn : Nat) (e : DirEntry) : List Nat :=
  let x := s.ctxAt (ctxIndex e.owner)
  if e.owner = 0 || e.refs != 1 then [1, e.last.toNat, gpn]
  else if s.names e.owner && (x.st == .swapped || x.st == .parked) then
    [0, if x.wake = 0 then 0 else 2 ^ 64 - x.wake.toNat, gpn]
  else [2, gpn]

/-- The page that a level of a die evicts first. -/
def State.evictVictim (s : State) (d : Fin 4) (l : Level) : Option Nat :=
  ((sortRank ((s.dir.filter fun (e : Nat × DirEntry) => homeDie e.1 = d && e.2.level == l && e.2.pins == 0).map
    fun (e : Nat × DirEntry) => (s.evictRank e.1 e.2, e.1))).head?).map Prod.snd

/-- Room made on a level of a die (R229): an eviction to the level below begins, unless one is under way; where that level is full too, it
is given room first. None where no room can be made. -/
def State.makeRoom (s : State) (d : Fin 4) (l : Level) (pick : Nat) : Nat → Option State
  | 0 => none
  | fuel + 1 =>
    if l == .pool then none
    else if s.tender.moves.any fun (m : Move) => homeDie m.gpn = d && m.source == l && m.dest == l.below then some s
    else match s.evictVictim d l with
      | none => none
      | some g =>
        match s.startMove g l.below pick with
        | some s => some s
        | none => State.makeRoom s d l.below pick fuel

/-- The state in which a NEED's wait for a frame or a table has been counted, once (R228, R404). -/
def State.countWait (s : State) (w : Want) : State :=
  let mark : Want := { w with gpn := 0 }
  if s.tender.wants.contains mark then s
  else { s with
    tender := { s.tender with wants := s.tender.wants ++ [mark] }, mgmt := { s.mgmt with tenderWaits := s.mgmt.tenderWaits + 1 } }

/-- A NEED or a move that finds no free frame on a level of a die: room is made, or the wait is counted, once for a NEED (R228, R404). -/
def State.waitRoom (s : State) (d : Fin 4) (l : Level) (pick : Nat) (w : Option Want) : State :=
  match s.makeRoom d l pick 3 with
  | some s => s
  | none =>
    match w with
    | none => s
    | some w => s.countWait w

/-- The state without a waiting NEED, and without its mark. -/
def State.dropWant (s : State) (w : Want) : State :=
  { s with tender := { s.tender with wants := s.tender.wants.filter fun x => !(x.ctx = w.ctx && x.sram = w.sram && (x.gpn = w.gpn || x.gpn = 0)) } }

/-- Does a level meet a need (R228). -/
def Level.meets (l : Level) (sram : Bool) : Bool := l == .sram || (l == .hbm && !sram)

/-- Does a NEED of a mapped page want a frame now: the page lies below the needed level, and neither moves nor is pinned (R228). -/
def State.wantsFrame (s : State) (w : Want) : Bool :=
  let e := s.page w.gpn
  w.gpn != 0 && e.level != .free && e.level != .moving && e.pins = 0 && !e.level.meets w.sram

/-- Does an earlier NEED of a die, among those given, want a frame: no later one takes one before it (R229). -/
def State.frameQueue (s : State) (d : Fin 4) (earlier : List Want) : Bool :=
  earlier.any fun (w : Want) => homeDie w.gpn = d && s.wantsFrame w

/-- A NEED of a mapped page served (R228): RESIDENT where the page is at the needed level or above, and otherwise a move one level up. -/
def State.serveWant (s : State) (w : Want) (pick : Nat) : State :=
  let e := s.page w.gpn
  let d := homeDie w.gpn
  if e.level == .free then s.dropWant w
  else if e.level.meets w.sram then (s.dropWant w).tenderSays d (.resident w.ctx.toNat)
  else if !s.wantsFrame w || s.frameQueue d (s.tender.wants.takeWhile fun x => x != w) then s
  else
    let up : Level := if e.level == .pool then .hbm else .sram
    match s.startMove w.gpn up pick with
    | some s => s
    | none => s.waitRoom d up pick (some w)

/-! ## NEED (R228) -/

/-- The context of a message to a Tender. -/
def TenderMsg.ctx : TenderMsg → Nat
  | .hint h _ => h
  | .need h _ _ => h
  | .swapIn h => h
  | .released h => h

/-- Is a message, sent with a number, the oldest about its context on any die, those that a producer holds among them (R227). -/
def oldestOf {α : Type} (ctx : α → Nat) (qs : Vector (Wake α) 4) (no : Nat) (m : α) : Bool :=
  qs.toList.all fun (w : Wake α) => (w.queue ++ w.held).all fun x => ctx x.2 != ctx m || no ≤ x.1

/-- The k-th message of a Tender's queue, if it is the oldest about its context (R227). -/
def State.tenderMsg (s : State) (d : Fin 4) (k : Nat) : Option TenderMsg :=
  match (s.tenderQ[d]).queue[k]? with
  | some m => if oldestOf TenderMsg.ctx s.tenderQ m.1 m.2 then some m.2 else none
  | none => none

/-- The queue without its k-th message. -/
def State.popTender (s : State) (d : Fin 4) (k : Nat) : State := { s with tenderQ := s.tenderQ.set d ((s.tenderQ[d]).take k) }

/-- The length of a Tender's queue. -/
def State.tenderLength (s : State) (d : Fin 4) : Nat := (s.tenderQ[d]).queue.length

/-- Is a message a NEED. -/
def TenderMsg.isNeed : TenderMsg → Bool
  | .need .. => true
  | _ => false

/-- A fresh page in a frame for a NEED of an unmapped page (R228): none where the page-table area lacks a table. -/
def State.freshPage (s : State) (d : Fin 4) (h : Nat) (page : Nat) (l : Level) (a gpn pick : Nat) : Option State :=
  let i := h % 131072
  (s.withLeaf d i page (pick / 2 ^ 32)).map fun s =>
    let x := s.ctxAt i
    let s := s.clearMem (frameKey l a) 65536
    let s := s.setPage gpn
      { DirEntry.free with level := l, refs := 1, owner := BitVec.ofNat 32 h, shd := x.shd, pd := x.pd, loc := BitVec.ofNat 64 a }
    (s.setLeaf x.kvroot page gpn 0).tenderSays d (.resident h)

/-- Is the ROWEVENT of a context's page drop still on its way to the Lantern: its NEED is not served before the context is PARKED PAGE
(R12, R225; log entry 74). -/
def State.dropUnderWay (s : State) (h : BitVec 32) : Bool :=
  s.up.toList.any fun (l : Link UpMsg) => (l.sent ++ l.held).any fun (m : UpMsg) =>
    match m with
    | .rowEvent _ _ c (.drop ..) => c = h
    | _ => false

/-- NEED (R228): the k-th message, with no earlier NEED before it (R229); or, with `k` beyond the queue, a NEED that waits for a page. -/
def execNeed (d : Fin 4) (k : Nat) (gpn : BitVec 28) (pick : Nat) (s : State) : Host.Outcome State Fault Refusal :=
  .next
    (match s.tenderMsg d k with
     | some (.need h page sram) =>
       let i := h % 131072
       let w : Want := { ctx := BitVec.ofNat 32 h, gpn := 0, sram := sram }
       if ((s.tenderQ[d]).queue.take k).any (fun (x : Nat × TenderMsg) => x.2.isNeed) || s.dropUnderWay w.ctx then s
       else if !s.names (BitVec.ofNat 32 h) || (s.ctxAt i).st == .free then s.popTender d k
       else
         let g := (s.leaf (s.ctxAt i).kvroot page).1
         if g = 0 || (s.page g).level == .free then
           let l : Level := if sram then .sram else .hbm
           if gpn = 0 || homeDie gpn.toNat != d || (s.page gpn.toNat).level != .free || s.frameQueue d s.tender.wants then s
           else match s.freeFrame d l (pick % 2 ^ 32) with
             | none => s.waitRoom d l pick (some w)
             | some a =>
               match s.freshPage d h page l a gpn.toNat pick with
               | some s => (s.popTender d k).dropWant w
               | none => s.countWait w
         else
           let w : Want := { w with gpn := g }
           let s := s.popTender d k
           ({ s with tender := { s.tender with wants := s.tender.wants ++ [w] } }).serveWant w pick
     | some _ => s
     | none =>
       match s.tender.wants[k - s.tenderLength d]? with
       | some w => if w.gpn != 0 && homeDie w.gpn = d then s.serveWant w pick else s
       | none => s)

/-! ## Swaps (R229) -/

/-- Has a die a NEED to serve: those are served before all other movement (R229). -/
def State.needAt (s : State) (d : Fin 4) : Bool :=
  ((s.tenderQ[d]).queue.any fun (x : Nat × TenderMsg) => x.2.isNeed)
    || s.tender.wants.any fun (w : Want) => w.gpn != 0 && homeDie w.gpn = d

/-- Has a page's home die a NEED before it (R229). -/
def State.needFirst (s : State) (gpn : Nat) : Bool := s.needAt (homeDie gpn)

/-- Where a swap, or a near wake, wants a page of the context, if not where it is (R229): only a near context's pages go to SRAM. -/
def wantedLevel (out near : Bool) (e : DirEntry) : Option Level :=
  if out then
    if e.refs = 1 && e.pins = 0 then
      (match e.level with
       | .sram => some .hbm
       | .hbm => some .pool
       | _ => none)
    else none
  else
    match e.level with
    | .pool => if e.refs = 1 || (near && e.wantSram) then some .hbm else none
    | .hbm => if near && e.wantSram then some .sram else none
    | _ => none

/-- The first page of a context that can move as a swap wants it begins to; where it finds no frame, room is made (R229). -/
def State.movePage (s : State) (i : Nat) (out near : Bool) (pick : Nat) : State :=
  let todo := (s.mappedPages (s.ctxAt i).kvroot).filterMap fun p =>
    (wantedLevel out near (s.page p.2.1)).map fun l => (p.2.1, l)
  match todo.find? fun e => !s.needFirst e.1 && (s.page e.1).pins == 0 with
  | none => s
  | some (g, l) =>
    match s.startMove g l pick with
    | some s => s
    | none => s.waitRoom (homeDie g) l pick none

/-- Is every private page of a context where a swap wants it: in the pool, or in HBM4E or SRAM (R229). -/
def State.swapDone (s : State) (i : Nat) (out : Bool) : Bool :=
  (s.mappedPages (s.ctxAt i).kvroot).all fun p =>
    let e := s.page p.2.1
    e.refs != 1 || (e.level != .moving && (if out then e.pins != 0 || e.level == .pool else e.level != .pool))

/-- The swap of a context, if one is under way. -/
def State.swapOf (s : State) (h : BitVec 32) : Option Swap := s.tender.swaps.find? fun (w : Swap) => w.ctx = h

/-- The state with the swap of a context replaced, or removed. -/
def State.setSwap (s : State) (h : BitVec 32) (w : Option Swap) : State :=
  { s with tender := { s.tender with swaps := (s.tender.swaps.filter fun (x : Swap) => x.ctx != h) ++ w.toList } }

/-- The save area of a context that lies in the pool. -/
def State.saveArea (s : State) (i : Nat) : Option SaveArea := s.tender.saves.find? fun (v : SaveArea) => v.ctx = i

/-- Does SAVEFRAME itself name the pool frame that an import took for a context's save area: no swap moves it (R46; log entry 50). -/
def State.saveStays (s : State) (i : Nat) : Bool :=
  (s.saveArea i).any fun v => v.stays && v.frame == (s.ctxAt i).saveFrame.toNat

/-- The state in which no pool frame holds a context's save area, but for one that SAVEFRAME names. -/
def State.dropSave (s : State) (i : Nat) : State :=
  if s.saveStays i then s
  else { s with tender := { s.tender with saves := s.tender.saves.filter fun (v : SaveArea) => v.ctx != i } }

/-- The state in which a pool frame holds a context's save area. -/
def State.putSave (s : State) (v : SaveArea) : State :=
  { s with tender := { s.tender with saves := (s.tender.saves.filter fun (x : SaveArea) => x.ctx != v.ctx) ++ [v] } }

/-- A free pool frame for a save area, on the die of the context or else on the next that has one, among the dies that may give one
(log entry 50). -/
def State.saveRoom (s : State) (h : Nat) (pick : Nat) (may : Fin 4 → Bool) : Option Nat :=
  (((List.range 4).map fun k => Fin.ofNat 4 (h + k)).filter may).findSome? fun d => s.freeFrame d .pool pick

/-- The context's save area moved, with its poison, to a frame of the pool (R229, R370); none where the pool has no free frame on a die
without a NEED, or the context's own die has one. -/
def State.saveOut (s : State) (i : Nat) (pick : Nat) : Option State :=
  let x := s.ctxAt i
  let h := (handleOf i x).toNat
  if s.saveStays i then some s
  else if s.needAt (ctxDie h) then none
  else (s.saveRoom h pick fun d => !s.needAt d).map fun f =>
    (s.copyMem (devKey x.saveFrame.toNat) (poolKey f) 4096).putSave { ctx := i, frame := f, stays := false }

/-- The context's save area brought back to HBM4E (R229). -/
def State.saveIn (s : State) (i : Nat) : State :=
  match s.saveArea i with
  | none => s
  | some v => if s.saveStays i then s else (s.copyMem (poolKey v.frame) (devKey (s.ctxAt i).saveFrame.toNat) 4096).dropSave i

/-- Must a context's save area, that lies in the pool and is to come back, wait for a NEED of the context's die (R229). -/
def State.saveWaits (s : State) (h : BitVec 32) : Bool :=
  let i := ctxIndex h
  (s.saveArea i).isSome && !s.saveStays i && s.needAt (ctxDie h.toNat)

/-- The end of a context's swap, if it is at its end (R229). -/
def State.endSwap (s : State) (h : BitVec 32) : State :=
  let i := ctxIndex h
  match s.swapOf h with
  | none => s
  | some w =>
    if !s.swapDone i (w.kind == .out) || (w.kind != .out && s.saveWaits h) then s
    else
      let d := ctxDie h.toNat
      match w.kind with
      | .out => (s.setSwap h none).tenderSays d (.swappedOut h.toNat)
      | .near => ((s.saveIn i).setSwap h none).tenderSays d (.swappedIn h.toNat)
      | .launch => ((s.saveIn i).setSwap h none).tenderSays d (.resident h.toNat)

/-- One page of a swap begins to move, and the swap ends if it can. -/
def State.swapStep (s : State) (h : BitVec 32) (pick : Nat) : State :=
  match s.swapOf h with
  | none => s
  | some w => (s.movePage (ctxIndex h) (w.kind == .out) (w.kind == .near) pick).endSwap h

/-- Is a context PARKED for a reason but PAGE. -/
def Ctx.swappable (x : Ctx) : Bool := x.st == .parked && x.reason != .page

/-- TENDER_SWAP_OUT (R229): a PARKED context whose wake is far, or that has been parked for long. -/
def execTenderSwapOut (i : Fin 131072) (pick : Nat) (s : State) : Host.Outcome State Fault Refusal :=
  .next
    (let x := s.ctxAt i.val
     let h := handleOf i.val x
     let far := if x.wake = 0 then x.since + s.params.hswap ≤ s.now else s.now + s.params.hswap ≤ x.wake.toNat
     match s.swapOf h with
     | some w =>
       if w.kind != .out then s
       else if x.swappable then s.swapStep h pick
       else (s.setSwap h none).dropSave i.val
     | none =>
       if x.swappable && far then
         match s.saveOut i.val (pick % 2 ^ 32) with
         | some s => (s.setSwap h (some { ctx := h, kind := .out })).swapStep h pick
         | none => s
       else s)

/-- TENDER_NEAR (R229): a context whose WAKE comes within HNEAR has its pages moved up, and is swapped in if it is SWAPPED. -/
def execTenderNear (i : Fin 131072) (pick : Nat) (s : State) : Host.Outcome State Fault Refusal :=
  .next
    (let x := s.ctxAt i.val
     let h := handleOf i.val x
     if x.st == .free || x.wake = 0 || s.now + s.params.hnear < x.wake.toNat then s
     else match s.swapOf h with
       | some w => if w.kind == .out then s else s.swapStep h pick
       | none =>
         if x.st == .swapped then (s.setSwap h (some { ctx := h, kind := .near })).swapStep h pick
         else s.movePage i.val false true pick)

/-- SWAPIN (R12, R227, R229): the context's pages move back, after a swap-out under way; with `k` beyond the queue, a swap-in goes on. -/
def execSwapinReq (d : Fin 4) (k : Nat) (pick : Nat) (s : State) : Host.Outcome State Fault Refusal :=
  .next
    (match s.tenderMsg d k with
     | some (.swapIn n) =>
       let h : BitVec 32 := BitVec.ofNat 32 n
       if !s.names h then s.popTender d k
       else match s.swapOf h with
         | some w =>
           if w.kind == .out && !s.swapDone (ctxIndex h) true then s
           else ((s.popTender d k).setSwap h (some { ctx := h, kind := .launch })).swapStep h pick
         | none => ((s.popTender d k).setSwap h (some { ctx := h, kind := .launch })).swapStep h pick
     | some _ => s
     | none =>
       match s.tender.swaps[k - s.tenderLength d]? with
       | some w => if w.kind == .launch then s.swapStep w.ctx pick else s
       | none => s)

/-- HINT (R227): the Tender judges WAKE when it acts, so it only takes the message. -/
def execHint (d : Fin 4) (k : Nat) (s : State) : Host.Outcome State Fault Refusal :=
  .next
    (match s.tenderMsg d k with
     | some (.hint _ _) => s.popTender d k
     | _ => s)

/-- RELEASED (R227): nothing waits or swaps for the context any more. -/
def execReleased (d : Fin 4) (k : Nat) (s : State) : Host.Outcome State Fault Refusal :=
  .next
    (match s.tenderMsg d k with
     | some (.released n) =>
       let h : BitVec 32 := BitVec.ofNat 32 n
       let s := (s.popTender d k).setSwap h none
       { s with tender := { s.tender with wants := s.tender.wants.filter fun (w : Want) => w.ctx != h } }
     | _ => s)

/-! ## The engines of a Tender (R228, R249) -/

/-- The bytes of a move copied, with their poison (R228, step 2; R354). -/
def State.copyPage (s : State) (v : Lane) (up : Bool) : State :=
  match s.tender.moves.find? fun (m : Move) => m.gpn = v.toNat && !m.copied && m.dest.above m.source == up with
  | none => s
  | some m =>
    let s := s.copyMem (frameKey m.source m.src.toNat) (frameKey m.dest m.dst.toNat) 65536
    { s with
      tender := { s.tender with
        moves := s.tender.moves.map fun (x : Move) => if x.gpn = m.gpn then { x with copied := true } else x } }

/-- PAGEIN (R249): a MOVING page copied up to its new frame. -/
def execPagein (_h : CmdHdr) (a0 : Lane) (s : State) : Host.Outcome State Fault Refusal := .next (s.copyPage a0 true)

/-- PAGEOUT (R249): a MOVING page copied down to its new frame. -/
def execPageout (_h : CmdHdr) (a0 : Lane) (s : State) : Host.Outcome State Fault Refusal := .next (s.copyPage a0 false)

/-- PAGE_MOVE_COMPLETE (R228, step 3): the page is at its new level, or freed if it was released meanwhile (R230); the NEEDs for it are
served, and swaps that waited for it end. -/
def execPageMoveComplete (gpn : BitVec 28) (pick : Nat) (s : State) : Host.Outcome State Fault Refusal :=
  .next
    (match s.tender.moves.find? fun (m : Move) => m.gpn = gpn.toNat && m.copied with
     | none => s
     | some m =>
       let e := s.page m.gpn
       let s := if e.refs = 0 then s.setPage m.gpn DirEntry.free
         else s.setPage m.gpn { e with level := m.dest, dest := .free, loc := m.dst }
       let s := { s with tender := { s.tender with moves := s.tender.moves.filter fun (x : Move) => x.gpn != m.gpn } }
       let s := (s.tender.wants.filter fun (w : Want) => w.gpn = m.gpn).foldl (fun s w => s.serveWant w pick) s
       (s.tender.swaps.map Swap.ctx).foldl State.endSwap s)

/-! ## What the Lantern does with the Tenders' messages (R11 to R13, R227) -/

/-- The context of a reply of a Tender. -/
def TenderReply.ctx : TenderReply → Nat
  | .resident h => h
  | .swappedOut h => h
  | .swappedIn h => h

/-- The head reply of a Tender, if it is the oldest about its context (R227). -/
def State.headReply (s : State) (d : Fin 4) : Option TenderReply :=
  match (s.tenderReplies[d]).queue with
  | [] => none
  | m :: _ => if oldestOf TenderReply.ctx s.tenderReplies m.1 m.2 then some m.2 else none

/-- The head reply of a Tender taken. -/
def State.popReply (s : State) (d : Fin 4) : State := { s with tenderReplies := s.tenderReplies.set d ((s.tenderReplies[d]).take 0) }

/-- RESIDENT (R11 to R13): the row of a context that is PARKED PAGE enters the pool. -/
def execResident (d : Fin 4) (s : State) : Host.Outcome State Fault Refusal :=
  .next
    (match s.headReply d with
     | some (.resident n) =>
       let i := n % 131072
       let x := s.ctxAt i
       let s := s.popReply d
       if s.names (BitVec.ofNat 32 n) && x.st == .parked && x.reason == .page then s.poolRow i s.now else s
     | _ => s)

/-- SWAPPEDOUT (R11): a context still PARKED, but for PAGE, becomes SWAPPED. -/
def execSwappedout (d : Fin 4) (s : State) : Host.Outcome State Fault Refusal :=
  .next
    (match s.headReply d with
     | some (.swappedOut n) =>
       let i := n % 131072
       let x := s.ctxAt i
       let s := s.popReply d
       if !s.names (BitVec.ofNat 32 n) then s
       else if x.swappable then s.toState i .swapped x.reason
       else s.dropSave i
     | _ => s)

/-- SWAPPEDIN (R11): a SWAPPED context is PARKED again for the same reason. -/
def execSwappedin (d : Fin 4) (s : State) : Host.Outcome State Fault Refusal :=
  .next
    (match s.headReply d with
     | some (.swappedIn n) =>
       let i := n % 131072
       let x := s.ctxAt i
       let s := s.popReply d
       if s.names (BitVec.ofNat 32 n) && x.st == .swapped then s.toState i .parked x.reason else s
     | _ => s)

end Sys2Proof.Machine
end

