-- ==== Sys2Proof/Machine/Mooring.lean ====
section
/-! DEFINITION. The Mooring tree's commands (R335 to R338), and the export and import of contexts (R46). Where the device is free to choose
(a leaf id, the die whose page tables or pool frames are taken), the choice follows a free value. -/

namespace Sys2Proof.Machine

/-! ## The tree (R335, R338) -/

/-- The first of four dies in order from one on of which something is had. -/
def fromDie {α : Type} (d : Nat) (f : Fin 4 → Option α) : Option α :=
  (List.range 4).findSome? fun k => f (Fin.ofNat 4 (d + k))

/-- The child of a leaf, or of the root of (PD, SHD), with a key (R335, R337). -/
def State.childOf (s : State) (pd shd : BitVec 12) (parent : Nat) (key : List Nat) : Option MoorLeaf :=
  s.tender.leaves.find? fun (l : MoorLeaf) => l.pd = pd && l.shd = shd && l.parent = parent && l.key = key

/-- The state with the tree's leaves changed. -/
def State.setLeaves (s : State) (l : List MoorLeaf) : State := { s with tender := { s.tender with leaves := l } }

/-- A leaf's LASTUSE set to now. -/
def State.useLeaf (s : State) (id : Nat) : State :=
  s.setLeaves (s.tender.leaves.map fun (l : MoorLeaf) => if l.id = id then { l with lastUse := s.now } else l)

/-- Is a leaf evictable (R338). -/
def State.evictable (s : State) (l : MoorLeaf) : Bool :=
  (s.tender.leaves.all fun (x : MoorLeaf) => x.parent != l.id) && l.gpns.all fun g => (s.page g).refs = 1

/-- The state with the evictable leaf of oldest LASTUSE evicted; none where no leaf is evictable (R338). -/
def State.evictLeaf (s : State) : Option State :=
  (((sortRank ((s.tender.leaves.filter s.evictable).map fun (l : MoorLeaf) => ([l.lastUse, l.id], l))).head?).map Prod.snd).map fun l =>
    l.gpns.foldl State.dropRef (s.setLeaves (s.tender.leaves.filter fun (x : MoorLeaf) => x.id != l.id))

/-- A leaf id that no leaf has: the first one from a free value on, never 0. -/
def State.freshLeaf (s : State) : Nat :=
  ((((List.range (s.tender.leaves.length + 2)).map fun k => (s.drawn + k) % 2 ^ 32).find? fun n =>
    n != 0 && s.tender.leaves.all fun (l : MoorLeaf) => l.id != n).getD 1)

/-! ## ATTACH and PUBLISH (R336, R337) -/

/-- The key of 16 token ids at a device address (R335, R336). -/
def State.moorKey (s : State) (a : Nat) : List Nat := (List.range 16).map fun k => readLE s.mem (devKey (a + 4 * k)) 4

/-- The page indices of a chunk (R335). -/
def State.chunkPages (s : State) (c : Nat) : List Nat := (List.range s.params.npc).map fun k => c * s.params.npc + k

/-- A leaf's pages mapped into a context's chunk (R337): none where a page table is needed and no table is free. -/
def State.mapLeaf (s : State) (i c : Nat) (l : MoorLeaf) : Option State :=
  let pages := (s.chunkPages c).zip l.gpns
  (pages.foldl (fun (o : Option State) p =>
    o.bind fun s =>
      (fromDie s.drawn fun d => s.withLeaf d i p.1 (s.drawn / 4)).map fun s =>
        ((s.draw).setLeaf (s.ctxAt i).kvroot p.1 p.2 1024).addRef p.2) (some s)).map fun s => s.useLeaf l.id

/-- The chunk of a context done: MLEAF and MCHUNKS advance, and DONE counts it (R337). -/
def State.chunkDone (s : State) (i id : Nat) : State :=
  let s := s.modCtx i fun x => { x with mleaf := BitVec.ofNat 32 id, mchunks := x.mchunks + 1 }
  { s with front := { s.front with moorDone := s.front.moorDone + 1 } }

/-- The statuses of R336. -/
inductive MoorStatus where
  | ok | badctx | noshare | badchunk | full | badop
  deriving DecidableEq, Repr

/-- The codes of R336. -/
def MoorStatus.code : MoorStatus → Nat
  | .ok => 0
  | .badctx => 1
  | .noshare => 2
  | .badchunk => 3
  | .full => 4
  | .badop => 5

/-- ATTACH of the keys from an address on (R337). -/
def State.attachKeys (s : State) (i : Nat) : Nat → Nat → State × MoorStatus
  | _, 0 => (s, .ok)
  | a, n + 1 =>
    let x := s.ctxAt i
    match s.childOf x.pd x.shd x.mleaf.toNat (s.moorKey a) with
    | none => (s, .ok)
    | some l =>
      if (s.chunkPages x.mchunks.toNat).any fun p => (s.leaf x.kvroot p).1 != 0 then (s, .badchunk)
      else match s.mapLeaf i x.mchunks.toNat l with
        | none => (s, .full)
        | some s => State.attachKeys (s.chunkDone i l.id) i (a + 64) n

/-- A new leaf for a context's chunk (R337): it takes the context's pages, with its own reference on each. -/
def State.newLeaf (s : State) (i : Nat) (key : List Nat) (gpns : List Nat) : State :=
  let x := s.ctxAt i
  let id := s.freshLeaf
  let l : MoorLeaf := { id := id, pd := x.pd, shd := x.shd, parent := x.mleaf.toNat, key := key, gpns := gpns, lastUse := s.now }
  (gpns.foldl State.addRef ((s.draw).setLeaves (s.tender.leaves ++ [l]))).chunkDone i id

/-- The context's own pages of a chunk released, and a leaf's mapped in their place (R337). -/
def State.replacePages (s : State) (i c : Nat) (own : List Nat) (l : MoorLeaf) : Option State :=
  let s := (s.chunkPages c).foldl (fun s p => s.setLeaf (s.ctxAt i).kvroot p 0 0) s
  s.mapLeaf i c l |>.map fun s => own.foldl State.dropRef s

/-- PUBLISH of the keys from an address on (R337, R338). -/
def State.publishKeys (s : State) (i : Nat) : Nat → Nat → State × MoorStatus
  | _, 0 => (s, .ok)
  | a, n + 1 =>
    let x := s.ctxAt i
    let c := x.mchunks.toNat
    let own := (s.chunkPages c).map fun p => s.leaf x.kvroot p
    if own.any fun e => e.1 = 0 || e.2 != 1024 then (s, .badchunk)
    else
      let key := s.moorKey a
      match s.childOf x.pd x.shd x.mleaf.toNat key with
      | some l =>
        (match s.replacePages i c (own.map Prod.fst) l with
         | none => (s, .full)
         | some s => State.publishKeys (s.chunkDone i l.id) i (a + 64) n)
      | none =>
        match (if s.tender.leaves.length < 1048576 then some s else s.evictLeaf) with
        | none => (s, .full)
        | some s => State.publishKeys (s.newLeaf i key (own.map Prod.fst)) i (a + 64) n

/-- The end of a Mooring command (R336). -/
def State.moorEnd (r : State × MoorStatus) : State :=
  { r.1 with front := { r.1.front with moorStatus := BitVec.ofNat 8 r.2.code } }

/-- The command held in MOORCMD, MOORRANGE and MOORKEYS acts, whole (R337). -/
def State.moorRun (s : State) (keys : Word) : State :=
  let op := fld s.front.moorCmd.toNat 56 8
  let h : BitVec 32 := BitVec.ofNat 32 s.front.moorCmd.toNat
  let first := fld s.front.moorRange.toNat 32 32
  let n := fld s.front.moorRange.toNat 0 32
  let s := { s with front := { s.front with moorDone := 0 } }
  let i := ctxIndex h
  let x := s.ctxAt i
  State.moorEnd
    (if op != 1 && op != 2 then (s, .badop)
     else if !s.names h || !x.hostWrites || x.kvroot = 0 then (s, .badctx)
     else if x.shd = 0 then (s, .noshare)
     else if first != x.mchunks.toNat || n = 0 || 4096 < n then (s, .badchunk)
     else if op = 1 then s.attachKeys i keys.toNat n
     else s.publishKeys i keys.toNat n)

/-- A write of MOORKEYS starts the command, unless one is running (R336). -/
def State.moorStart (s : State) (keys : Word) : State :=
  if s.front.moorBusy then s else { s with front := { s.front with moorKeys := keys, moorBusy := true } }

/-- The command that was started acts and ends: BUSY falls (R336; log entry 84). -/
def State.moorFinish (s : State) : State :=
  if s.front.moorBusy then
    let s := s.moorRun s.front.moorKeys
    { s with front := { s.front with moorBusy := false } }
  else s

/-- A write of MOORKEYS with an OP in MOORCMD, with the whole of the command that it starts (R336, R337). -/
def State.moorWhole (s : State) (op : Nat) (keys : Word) : State :=
  s.hostInput 0 (bar0 0 0x110 keys) fun s =>
    if fld s.front.moorCmd.toNat 56 8 = op && !s.front.moorBusy then (s.moorStart keys).moorFinish else s

/-- ATTACH (R337): a write of MOORKEYS with OP 1 in MOORCMD. -/
def execAttach (keys : Word) (s : State) : Host.Outcome State Fault Refusal := .next (s.moorWhole 1 keys)

/-- PUBLISH (R337): a write of MOORKEYS with OP 2 in MOORCMD. -/
def execPublish (keys : Word) (s : State) : Host.Outcome State Fault Refusal := .next (s.moorWhole 2 keys)

/-! ## The words of a Light List entry (R8) -/

/-- The code of STATE (R10). -/
def CtxState.code : CtxState → Nat
  | .free => 0
  | .ready => 1
  | .running => 2
  | .parked => 3
  | .swapped => 4
  | .faulted => 5

/-- The code of PARK_REASON (R10). -/
def ParkReason.code : ParkReason → Nat
  | .none => 0
  | .page => 1
  | .host => 2
  | .probe => 3
  | .budget => 4
  | .ktrap => 5

/-- A park reason from its code (R10). -/
def ParkReason.ofCode (n : Nat) : ParkReason :=
  match n with
  | 1 => .page
  | 2 => .host
  | 3 => .probe
  | 4 => .budget
  | 5 => .ktrap
  | _ => .none

/-- Word `k` of a Light List entry (R8). -/
def Ctx.word (x : Ctx) (i k : Nat) : Nat :=
  match k with
  | 0 => x.st.code * 2 ^ 61 + x.reason.code * 2 ^ 57 + x.gen.toNat * 2 ^ 17 + i
  | 1 => x.prio.val * 2 ^ 32 + x.shd.toNat * 2 ^ 16 + x.pd.toNat
  | 2 => x.deadline.toNat
  | 3 => x.wake.toNat
  | 4 => x.kvroot.toNat
  | 5 => x.mchunks.toNat * 2 ^ 32 + x.mleaf.toNat
  | 6 => x.graphId.toNat * 2 ^ 32 + x.node.toNat
  | 7 => x.lineage.toNat * 2 ^ 32 + x.accepted.toNat
  | 8 => x.saveFrame.toNat
  | 9 => x.nflags.toNat
  | 10 => x.probeSet.toNat * 2 ^ 8 + (if x.steerEn then 2 ^ 7 else 0) + x.steerSet.toNat
  | 11 => x.steerCoef.toNat
  | 12 => x.rng.s0.toNat
  | 13 => x.rng.s1.toNat
  | 14 => x.rng.s2.toNat
  | 15 => x.rng.s3.toNat
  | 16 => x.rngCount.toNat
  | 17 => x.pcause.toNat * 2 ^ 56 + x.psite.toNat * 2 ^ 48 + x.pprobe.toNat * 2 ^ 40 + x.ppos.toNat
  | 18 => x.pnode.toNat * 2 ^ 32 + x.pscore.toNat
  | 19 => x.ppage.toNat
  | 20 => x.pcore.toNat
  | k => if 32 ≤ k then (Tab.get 0 x.hostArea (k - 32)).toNat else 0

/-- The fields of an entry that an import takes from an image's words (R46). -/
def Ctx.fromWords (w : Nat → Nat) : Ctx :=
  let b64 : Nat → Word := fun k => BitVec.ofNat 64 (w k)
  { Ctx.reset with
    reason := ParkReason.ofCode (fld (w 0) 57 4), prio := Fin.ofNat 8 (fld (w 1) 32 3), shd := BitVec.ofNat 12 (fld (w 1) 16 12)
    pd := BitVec.ofNat 12 (w 1), deadline := b64 2, wake := b64 3, graphId := BitVec.ofNat 32 (fld (w 6) 32 32)
    node := BitVec.ofNat 16 (w 6), lineage := BitVec.ofNat 32 (fld (w 7) 32 32), accepted := BitVec.ofNat 32 (w 7)
    nflags := BitVec.ofNat 8 (w 9), probeSet := BitVec.ofNat 8 (fld (w 10) 8 8), steerEn := bit (w 10) 7
    steerSet := BitVec.ofNat 6 (w 10), steerCoef := b64 11, rng := ⟨b64 12, b64 13, b64 14, b64 15⟩, rngCount := b64 16
    pcause := BitVec.ofNat 8 (fld (w 17) 56 8), psite := BitVec.ofNat 8 (fld (w 17) 48 8), pprobe := BitVec.ofNat 8 (fld (w 17) 40 8)
    ppos := BitVec.ofNat 32 (w 17), pnode := BitVec.ofNat 16 (fld (w 18) 32 16), pscore := BitVec.ofNat 32 (w 18), ppage := b64 19
    pcore := BitVec.ofNat 9 (w 20)
    hostArea := (List.range 32).foldl (fun (t : Tab Word) k => Tab.set 0 t k (b64 (32 + k))) [] }

/-! ## Export and import (R46) -/

/-- Every page of a context moved to the pool for an export (R46): a private one to a frame of its die, a shared one copied into a private
frame, its reference dropped. None where a page moves or is pinned, or a frame is wanting. -/
def State.exportPage (s : State) (i page gpn vlen pick : Nat) : Option (State × Nat) :=
  let e := s.page gpn
  if e.level == .moving || e.level == .free || (e.pins != 0 && e.refs = 1) then none
  else if e.refs = 1 && e.level == .pool then some (s, e.loc.toNat)
  else (s.freeFrame (homeDie gpn) .pool pick).map fun a =>
    let s := s.copyMem (frameKey e.level e.loc.toNat) (poolKey a) 65536
    let s := if e.refs = 1 then s.setPage gpn { e with level := .pool, loc := BitVec.ofNat 64 a } else s.dropRef gpn
    let s := { s with tender := { s.tender with exported := s.tender.exported ++ [a] } }
    (s.setLeaf (s.ctxAt i).kvroot page (if e.refs = 1 then gpn else 0) (if e.refs = 1 then vlen else 0), a)

/-- The pages of a context exported in turn: the state and the page records (page, VLEN, frame). -/
def State.exportPages (s : State) (i pick : Nat) : List (Nat × Nat × Nat) → Option (State × List (Nat × Nat × Nat))
  | [] => some (s, [])
  | p :: l =>
    match s.exportPage i p.1 p.2.1 p.2.2 pick with
    | none => none
    | some r => (State.exportPages r.1 i pick l).map fun q => (q.1, (p.1, p.2.2, r.2) :: q.2)

/-- The words of an export image from its start (R46). -/
def exportWord (npc : Nat) (x : Ctx) (recs : List (Nat × Nat × Nat)) (k : Nat) : Nat :=
  match k with
  | 0 => 0x59464358 * 2 ^ 32 + 2 ^ 16 + npc
  | 1 => recs.length
  | k =>
    if 64 ≤ k && k < 128 then
      ({ x with gen := 0, kvroot := 0, saveFrame := 0, mleaf := 0, mchunks := 0 } : Ctx).word 0 (k - 64)
    else 0

/-- The first 1,024 bytes of an export image: its header and its entry (R46). -/
def exportHead (npc : Nat) (x : Ctx) (recs : List (Nat × Nat × Nat)) : List Byte :=
  (List.range 128).flatMap fun k => leBytes 8 (exportWord npc x recs k)

/-- The page records of an export image (R46). -/
def exportRecs (recs : List (Nat × Nat × Nat)) : List Byte := recs.flatMap fun r => leBytes 16 (r.2.1 * 2 ^ 32 + r.1 + r.2.2 * 2 ^ 64)

/-- The state with bytes written to the pool from an offset on. -/
def State.poolWrite (s : State) (a : Nat) (bytes : List Byte) : State :=
  s.writeMem (((List.range bytes.length).zip bytes).map fun b => (poolKey (a + b.1), b.2))

/-- The state with an export image written at a pool offset (R46): the save area is copied from the pool frame that holds it. -/
def State.writeImage (s : State) (i e : Nat) (recs : List (Nat × Nat × Nat)) : State :=
  let s := s.poolWrite e (exportHead s.params.npc (s.ctxAt i) recs)
  let s := match s.saveArea i with
    | some v => s.copyMem (poolKey v.frame) (poolKey (e + 0x400)) 4096
    | none => s.clearMem (poolKey (e + 0x400)) 4096
  s.poolWrite (e + 0x1400) (exportRecs recs)

/-- CTX_EXPORT (R46): the image's length, or a status (2 BADPARAM, 3 NOTNOW). -/
def State.exportCtx (s : State) (h : BitVec 32) (e pick : Nat) : Except Nat (State × Nat) :=
  let i := ctxIndex h
  let x := s.ctxAt i
  if !s.names h || e % 4096 != 0 then .error 2
  else if x.st != .swapped then .error 3
  else if Config.poolBytes < e + 5120 + 16 * (s.mappedPages x.kvroot).length then .error 2
  else match s.exportPages i pick (s.mappedPages x.kvroot) with
    | none => .error 3
    | some (s, recs) =>
      let s := s.writeImage i e recs
      let s := (s.mappedPages x.kvroot).foldl (fun s p => (s.setLeaf x.kvroot p.1 0 0).setPage p.2.1 DirEntry.free) s
      let s := { s with
        tender := { s.tender with
          exported := (s.tender.exported ++ recs.map fun (r : Nat × Nat × Nat) => r.2.2).eraseDups } }
      .ok ((s.freeCtx i).toTender (ctxDie h.toNat) (.released h.toNat), 5120 + 16 * recs.length)

/-- A GPN of a die that is not in use: the `k`-th candidate from a choice on (R222, R228). -/
def State.freshGpn (s : State) (pick : Nat) : Nat :=
  ((((List.range (s.dir.length + 2)).map fun k => (pick + k) % 2 ^ 28).find? fun g => g != 0 && (s.page g).level == .free).getD 1)

/-- One page record of an image entered in the page directory and the context's page table (R46). -/
def State.importPage (s : State) (i pick : Nat) (d : Fin 4) (pd shd : BitVec 12) (h : BitVec 32) (w0 w1 : Nat) : Option State :=
  (s.withLeaf d i (fld w0 0 18) (pick / 2 ^ 32)).map fun s =>
    let g := s.freshGpn pick
    let s := s.setPage g { DirEntry.free with level := .pool, refs := 1, owner := h, shd := shd, pd := pd, loc := BitVec.ofNat 64 w1 }
    let s := { s with tender := { s.tender with exported := s.tender.exported.filter fun a => a != w1 } }
    s.setLeaf (s.ctxAt i).kvroot (fld w0 0 18) g (fld w0 32 11)

/-- CTX_IMPORT (R46): the new context handle, or a status (2 BADPARAM, 3 NOTNOW where a table or a pool frame is wanting). SAVEFRAME is
the pool frame taken for the save area (log entry 50). -/
def State.importCtx (s : State) (i pd e pick : Nat) : Except Nat (State × BitVec 32) :=
  let w : Nat → Nat := fun k => readLE s.mem (poolKey (e + 8 * k)) 8
  if 131072 ≤ i || 4096 ≤ pd || fld (w 0) 32 32 != 0x59464358 || fld (w 0) 16 16 != 1 || fld (w 0) 0 16 != s.params.npc
      || (s.ctxAt i).st != .free || Config.poolBytes < e + 5120 + 16 * w 1 then .error 2
  else
    let d : Fin 4 := Fin.ofNat 4 pick
    let old := s.ctxAt i
    let x := { Ctx.fromWords (fun k => w (64 + k)) with gen := old.gen + 1, pd := BitVec.ofNat 12 pd }
    let h := handleOf i x
    match s.saveRoom pick (pick % 2 ^ 32) fun _ => true with
    | none => .error 3
    | some f =>
      let s := s.setCtx i { x with saveFrame := BitVec.ofNat 64 f }
      let s := (s.copyMem (poolKey (e + 0x400)) (poolKey f) 4096).putSave { ctx := i, frame := f, stays := true }
      match s.withRoot d i (pick / 2 ^ 32) with
      | none => .error 3
      | some s =>
        match ((List.range (w 1)).foldl (fun (o : Option State) j =>
            o.bind fun s =>
              s.importPage i (pick + j) d (BitVec.ofNat 12 pd) x.shd h (readLE s.mem (poolKey (e + 0x1400 + 16 * j)) 8)
                (readLE s.mem (poolKey (e + 0x1408 + 16 * j)) 8)) (some s)) with
        | none => .error 3
        | some s => .ok (s.toState i .swapped x.reason, h)

end Sys2Proof.Machine
end

