-- ==== Sys2Proof/Machine/Manage.lean ====
section
/-! DEFINITION. The management plane (R30, R354, R398 to R405): errors, the mailbox and its commands, parameters, telemetry, power, PTM,
reset and boot; and writes of BAR0 registers (R3). -/

namespace Sys2Proof.Machine

/-! ## Errors (R354, R405) -/

/-- A record added to the 64-entry error log, the oldest one giving way (R405, which gives what it holds and not its layout: log
entry 85). -/
def State.logError (s : State) (kind die : Nat) (addr : Nat) : State :=
  let r : Word × Word := (BitVec.ofNat 64 (kind * 2 ^ 56 + die * 2 ^ 52 + addr % 2 ^ 52), BitVec.ofNat 64 s.now)
  let l := s.mgmt.errors ++ [r]
  { s with mgmt := { s.mgmt with errors := l.drop (l.length - 64) } }

/-- The package stops (R354, R403, R405): STATE becomes FATAL, vector 1 is signalled on every port, and every running row group is
terminated with SOFT_ERROR. -/
def State.fatal (s : State) : State :=
  if s.mgmt.phase = .fatal then s
  else
    let s := { s with mgmt := { s.mgmt with phase := .fatal }, msix := s.msix ++ [(0, 1), (1, 1), (2, 1), (3, 1)] }
    (List.ofFn (n := 512) id).foldl (fun s (c : CoreId) => s.terminate c (termRecord Cause.softError.code .none false 0 0)) s

/-- An uncorrectable error counted (R404). -/
def State.countUncorrected (s : State) : State := { s with mgmt := { s.mgmt with uncorrected := s.mgmt.uncorrected + 1 } }

/-- An error left uncorrectable in a 64-bit word of a scratchpad or of HBM4E (R354): it stays poisoned until it is written whole.
The record's address is the device address, or the offset within the scratchpads of the package. -/
def State.upset (s : State) (word : Nat) : State :=
  let key := word * 8
  if 2 * spaceSize ≤ key || !keyExists key then s
  else
    let s := if s.poison.contains word then s else { s with poison := s.poison ++ [word] }
    s.countUncorrected.logError 0 (keyDie key) (key % spaceSize)

/-- An uncorrectable error in control state, whose die and address a free value gives (R354, R405). -/
def State.controlUpset (s : State) : State := (s.draw.countUncorrected.logError 1 (s.drawn / 2 ^ 52 % 4) s.drawn).fatal

/-- The PC of a record that names an engine (R352): the sequencer's, or that of the header of the command at the head of its ring. -/
def Group.engPc (g : Group) : Eng → BitVec 32
  | .as => g.as_.pc
  | .xs => g.xs.pc
  | .sector => g.xs.pc
  | .me => (g.me.queue.head?.map Cmd.hdrPc).getD g.me.pc
  | .ch0 => (g.ch0.queue.head?.map Cmd.hdrPc).getD g.ch0.pc
  | .ch1 => (g.ch1.queue.head?.map Cmd.hdrPc).getD g.ch1.pc
  | .none => 0

/-- An uncorrectable error of accumulator memory or of a register file, which the engine named meets (R354): its address, which no address
space has, is a free value, and DETAIL is 0 (log entry 36). -/
def State.fileUpset (s : State) (c : CoreId) (e : Eng) : State :=
  let s := s.draw.countUncorrected.logError 3 (dieOf c).val s.drawn
  let g := (s.coreAt c).g
  if g.run.isSome then s.terminate c (termRecord Cause.softError.code e ((e = .xs || e = .sector) && g.handler.isSome) (g.engPc e) 0) else s

/-- A corrected error counted (R354, R404). -/
def State.countCorrected (s : State) (id : Fin 16) : State :=
  { s with mgmt := { s.mgmt with corrected := s.mgmt.corrected.set id (s.mgmt.corrected[id] + 1) } }

/-- The passing of nanoseconds on the device timebase, with a correction slewed in at no more than one in a thousand (R30): what has passed
beyond the last whole microsecond of a correction is kept. -/
def State.passTime (s : State) (ns : Nat) : State :=
  let most : Int := ((s.slewPart + ns) / 1000 : Nat)
  let step := max (-most) (min most s.slew)
  let left := s.slew - step
  { s with
    now := Int.toNat ((s.now : Int) + ns + step) % 2 ^ 64, slew := left
    slewPart := if left = 0 then 0 else (s.slewPart + ns) % 1000 }

/-! ## The mailbox (R399) -/

/-- Byte `k` of MBDATA. -/
def State.mbByte (s : State) (k : Nat) : Byte := Tab.get 0 s.mgmt.data k

/-- `n` bytes of MBDATA from `k` on, as a number. -/
def State.mbLE (s : State) (k : Nat) : Nat → Nat
  | 0 => 0
  | n + 1 => (s.mbByte k).toNat + 256 * State.mbLE s (k + 1) n

/-- Bytes written to MBDATA. -/
def State.mbPut (s : State) (bytes : List Byte) : State :=
  { s with
    mgmt := { s.mgmt with
      data := ((List.range bytes.length).zip bytes).foldl (fun (t : Tab Byte) b => Tab.set 0 t b.1 b.2) s.mgmt.data } }

/-- The STATUS values of R399. -/
inductive MbStatus where
  | ok | badop | badparam | notnow | badimage
  deriving DecidableEq, Repr

/-- The codes of R399. -/
def MbStatus.code : MbStatus → Nat
  | .ok => 0
  | .badop => 1
  | .badparam => 2
  | .notnow => 3
  | .badimage => 4

/-- A write of MBCMD starts its command: BUSY rises (R399). -/
def State.mbStart (s : State) (port : Fin 4) (op : Nat) (len : BitVec 16) (tag : BitVec 32) : State :=
  { s with mgmt := { s.mgmt with busy := some port, op := BitVec.ofNat 16 op, len := len, tag := tag } }

/-- The command of the mailbox done: its status, its response in MBDATA, and vector 1 of the port that started it (R399). -/
def State.mbEnd (s : State) (port : Fin 4) (st : MbStatus) (resp : List Byte) : State :=
  let s := s.mbPut resp
  { s with
    mgmt := { s.mgmt with
      busy := none, status := BitVec.ofNat 4 st.code, rlen := BitVec.ofNat 12 resp.length, rtag := s.mgmt.tag }
    msix := s.msix ++ [(port.val, 1)] }

/-- A command that needs a request of some bytes: a shorter one ends with BADPARAM. -/
def State.mbCommand (s : State) (port : Fin 4) (least : Nat) (f : State → State × MbStatus × List Byte) : State :=
  if s.mgmt.len.toNat < least || 3840 < s.mgmt.len.toNat then s.mbEnd port .badparam []
  else
    let r := f s
    r.1.mbEnd port r.2.1 r.2.2

/-! ## Parameters (R24, R25, R45, R226, R229, R335, R362, R381, R383, R387, R392, R400, R402, R403)

The ids are the device's own (R400 gives none): Config.paramNumber takes an id to the model's number. -/

/-- Does a context run (R335). -/
def State.anyRunning (s : State) : Bool := s.lan.ctxs.any fun (e : Nat × Ctx) => e.2.st == .running

/-- Does a row group of a PD run (R10, R392): on some core, or pre-empted and saved, whose rows stay RUNNING (R66). One that is staged or
withdrawn does not. -/
def State.pdRuns (s : State) (pd : Nat) : Bool :=
  (s.cores.toList.any fun k => k.g.run.isSome && k.g.bank.pd.toNat == pd) || s.saved.any fun v => v.g.bank.pd.toNat == pd

/-- Is a frame of a level of a die in use (R226). -/
def State.areaUsed (s : State) (d : Fin 4) (l : Level) : Bool :=
  (s.dir.any fun (e : Nat × DirEntry) => homeDie e.1 = d && e.2.level == l)
    || (s.tender.moves.any fun (m : Move) => homeDie m.gpn = d && (m.source == l || m.dest == l))
    || (l == .pool && (s.tender.exported ++ s.tender.saves.map SaveArea.frame).any fun a =>
      (s.area d .pool).1 ≤ a && a < (s.area d .pool).1 + 65536 * (s.area d .pool).2)

/-- Is a page table of a die in use (R226). -/
def State.tablesUsed (s : State) (d : Fin 4) : Bool :=
  s.tender.tables.any fun (t : Nat × BitVec 32) =>
    (s.params.tables[d]).1 ≤ t.1 && t.1 < (s.params.tables[d]).1 + 4096 * (s.params.tables[d]).2

/-- A set of numbers with one put in or taken out. -/
def setMember (l : List Nat) (n : Nat) (member : Bool) : List Nat :=
  if member then (if l.contains n then l else l ++ [n]) else l.filter fun m => m != n

/-- A value in a range, or BADPARAM. -/
def inRange (lo hi v : Nat) (s : State) : State × MbStatus → State × MbStatus :=
  fun r => if lo ≤ v && v ≤ hi then r else (s, .badparam)

/-- The state with a parameter record. -/
def State.setParams (s : State) (p : Params) : State := { s with params := p }

/-- A core named or no longer named as a staging core (R214, R226). DESIGN CHOICE (log entry 86): a core that runs a row group, or
for which one is staged or saved, is accepted too, and its quarters are tagged at once. -/
def State.setStaging (s : State) (c : CoreId) (v : Nat) : State × MbStatus :=
  let on := s.params.staging.contains c
  if 1 < v then (s, .badparam)
  else if s.areaUsed (dieOf c) .sram then (s, .notnow)
  else if v = 0 then
    if on then
      ((s.setParams { s.params with staging := s.params.staging.filter fun x => x != c }).setCoreAt c
        { s.coreAt c with owner := Vector.replicate 16 .none }, .ok)
    else (s, .ok)
  else if on then (s, .ok)
  else if 32 ≤ (s.params.staging.filter fun x => dieOf x = dieOf c).length then (s, .badparam)
  else
    ((s.setParams { s.params with staging := s.params.staging ++ [c] }).setCoreAt c
      { s.coreAt c with owner := Vector.replicate 16 .staging }, .ok)

/-- Does a range lie in a memory of some bytes: a base, and a count of units. -/
def rangeFits (room unit : Nat) (r : Nat × Nat) : Bool := r.1 + unit * r.2 ≤ room

/-- The base or the count of a die's range set: 64 KiB or 4 KiB aligned, within its memory, and NOTNOW while it is in use (R226, R400). -/
def setArea (s : State) (used : Bool) (room unit : Nat) (r : Nat × Nat) (count : Bool) (v : Nat) (put : Nat × Nat → State) :
    State × MbStatus :=
  let r' := if count then (r.1, v) else (v, r.2)
  if !rangeFits room unit r' || (!count && v % unit != 0) then (s, .badparam)
  else if used then (s, .notnow)
  else (put r', .ok)

/-- The base or the size of a pool in HBM4E set, of frames or bytes of `unit` (R362, R381, R392): BADPARAM outside HBM4E (R400). -/
def setPool (s : State) (unit : Nat) (r : Nat × Nat) (put : State) : State × MbStatus :=
  if rangeFits Config.hbmBytes unit r then (put, .ok) else (s, .badparam)

/-- The bytes of a save frame, and of a dump frame (R362, R381). -/
def frameBytes : Nat := 0x600000

/-- The save frames of a die: four for each of its 128 cores (R362). -/
def dieFrames : Nat := 512

/-- The replay mode of a number (R392). -/
def replayModeOf (n : Nat) : ReplayMode :=
  match n with
  | 1 => .recordSync
  | 2 => .recordInputs
  | 3 => .replaySync
  | 4 => .replayInputs
  | _ => .off

/-- A replay mode set (R392): a recording starts with an empty log, and a replay has the whole log still to meet. -/
def State.setReplay (s : State) (v : Nat) : State × MbStatus :=
  if 4 < v then (s, .badparam)
  else if s.params.replayPds.any s.pdRuns then (s, .notnow)
  else
    let m := replayModeOf v
    let log := if m = .recordSync || m = .recordInputs then [] else s.replay.log
    ({ s with replay := { mode := m, status := .running, log := log, todo := log.map Prod.snd, held := [], waits := [], grc := 0 } }, .ok)

/-- The state with the trace pool of a core set (R383): its base, or its size of 4 KiB to 256 MiB. -/
def State.setTrace (s : State) (c : CoreId) (size : Bool) (v : Nat) : State × MbStatus :=
  let k := s.coreAt c
  if size then
    if v < 4096 || 268435456 < v || !rangeFits Config.hbmBytes 1 (k.trace.base.toNat, v) then (s, .badparam)
    else (s.setCoreAt c { k with trace := { k.trace with size := v, idx := 0 } }, .ok)
  else if !rangeFits Config.hbmBytes 1 (v, k.trace.size) then (s, .badparam)
  else (s.setCoreAt c { k with trace := { k.trace with base := BitVec.ofNat 64 v, idx := 0 } }, .ok)

/-- PARAM_SET of the model's parameter `p` (R400). -/
def State.setParam (s : State) (p v : Nat) : State × MbStatus :=
  let q := s.params
  let d : Fin 4 := Fin.ofNat 4 p
  match p / 4096 with
  | 0 =>
    match p with
    | 8 => inRange 100000 1000000000 v s (s.setParams { q with ageMax := v }, .ok)
    | 9 => inRange 100000 1000000000 v s (s.setParams { q with hnear := v }, .ok)
    | 10 => inRange 1000000 3600000000000 v s (s.setParams { q with hswap := v }, .ok)
    | 11 => inRange 1 64 v s (if s.anyRunning then (s, .notnow) else (s.setParams { q with npc := v }, .ok))
    | 12 => inRange 0 48 v s (s.setParams { q with nmin := v }, .ok)
    | 13 => s.setReplay v
    | p =>
      match p / 4 with
      | 0 => inRange 0 255 v s (s.setParams { q with shares := q.shares.set (Fin.ofNat 8 p) v }, .ok)
      | 1 => inRange 0 255 v s (s.setParams { q with shares := q.shares.set (Fin.ofNat 8 p) v }, .ok)
      | 4 => inRange 1000000 5000000 v s (s.setParams { q with imax := q.imax.set d v }, .ok)
      | 5 => setArea s (s.areaUsed d .hbm) Config.hbmBytes 65536 q.hbm[d] false v fun r => s.setParams { q with hbm := q.hbm.set d r }
      | 6 => setArea s (s.areaUsed d .hbm) Config.hbmBytes 65536 q.hbm[d] true v fun r => s.setParams { q with hbm := q.hbm.set d r }
      | 7 => setArea s (s.areaUsed d .pool) Config.poolBytes 65536 q.pool[d] false v fun r => s.setParams { q with pool := q.pool.set d r }
      | 8 => setArea s (s.areaUsed d .pool) Config.poolBytes 65536 q.pool[d] true v fun r => s.setParams { q with pool := q.pool.set d r }
      | 9 => setArea s (s.tablesUsed d) Config.hbmBytes 4096 q.tables[d] false v fun r => s.setParams { q with tables := q.tables.set d r }
      | 10 => setArea s (s.tablesUsed d) Config.hbmBytes 4096 q.tables[d] true v fun r => s.setParams { q with tables := q.tables.set d r }
      | 11 =>
        if s.saved.any fun x => dieOf x.core = d then (s, .notnow)
        else setPool s frameBytes (v, dieFrames) { s with savePool := s.savePool.set d (some (BitVec.ofNat 64 v)) }
      | 12 =>
        setPool s frameBytes (v, (s.dumpPool[d]).2) { s with dumpPool := s.dumpPool.set d (BitVec.ofNat 64 v, (s.dumpPool[d]).2) }
      | 13 =>
        inRange 0 256 v s
          (setPool s frameBytes ((s.dumpPool[d]).1.toNat, v) { s with dumpPool := s.dumpPool.set d ((s.dumpPool[d]).1, v) })
      | 14 => setPool s 1 (v, (q.logPool[d]).2) (s.setParams { q with logPool := q.logPool.set d (v, (q.logPool[d]).2) })
      | 15 => setPool s 1 ((q.logPool[d]).1, v) (s.setParams { q with logPool := q.logPool.set d ((q.logPool[d]).1, v) })
      | n => if 64 ≤ n && n < 80 then (s.setParams { q with routes := Tab.set 0 q.routes (p - 256) (BitVec.ofNat 64 v) }, .ok) else (s, .badparam)
  | 1 => inRange 0 255 v s (s.setParams { q with weights := Tab.set 1 q.weights (p % 4096) v }, .ok)
  | 2 => inRange 0 1 v s ({ s with dumpPds := setMember s.dumpPds (p % 4096) (v = 1) }, .ok)
  | 3 =>
    inRange 0 2 v s
      ({ s with
         tracePds := (s.tracePds.filter fun (e : Nat × Bool) => e.1 != p % 4096) ++ (if v = 0 then [] else [(p % 4096, v == 2)]) }, .ok)
  | 4 => inRange 0 1 v s ({ s with debugPds := setMember s.debugPds (p % 4096) (v = 1) }, .ok)
  | 5 =>
    inRange 0 1 v s
      (if s.pdRuns (p % 4096) then (s, .notnow)
       else (s.setParams { q with replayPds := setMember q.replayPds (p % 4096) (v = 1) }, .ok))
  | 6 => if p % 4096 < 512 then s.setStaging (Fin.ofNat 512 p) v else (s, .badparam)
  | 7 => if p % 4096 < 512 then s.setTrace (Fin.ofNat 512 p) false v else (s, .badparam)
  | 8 => if p % 4096 < 512 then s.setTrace (Fin.ofNat 512 p) true v else (s, .badparam)
  | _ => (s, .badparam)

/-- The number of a replay mode (R392). -/
def replayModeCode : ReplayMode → Nat
  | .off => 0
  | .recordSync => 1
  | .recordInputs => 2
  | .replaySync => 3
  | .replayInputs => 4

/-- PARAM_GET of the model's parameter `p`, or none where there is none of that number (R400). -/
def State.getParam (s : State) (p : Nat) : Option Nat :=
  let q := s.params
  let d : Fin 4 := Fin.ofNat 4 p
  let member : List Nat → Nat := fun l => if l.contains (p % 4096) then 1 else 0
  match p / 4096 with
  | 0 =>
    match p with
    | 8 => some q.ageMax
    | 9 => some q.hnear
    | 10 => some q.hswap
    | 11 => some q.npc
    | 12 => some q.nmin
    | 13 => some (replayModeCode s.replay.mode)
    | p =>
      match p / 4 with
      | 0 => some q.shares[Fin.ofNat 8 p]
      | 1 => some q.shares[Fin.ofNat 8 p]
      | 4 => some q.imax[d]
      | 5 => some (q.hbm[d]).1
      | 6 => some (q.hbm[d]).2
      | 7 => some (q.pool[d]).1
      | 8 => some (q.pool[d]).2
      | 9 => some (q.tables[d]).1
      | 10 => some (q.tables[d]).2
      | 11 => some ((s.savePool[d]).getD 0).toNat
      | 12 => some (s.dumpPool[d]).1.toNat
      | 13 => some (s.dumpPool[d]).2
      | 14 => some (q.logPool[d]).1
      | 15 => some (q.logPool[d]).2
      | n => if 64 ≤ n && n < 80 then some (Tab.get 0 q.routes (p - 256)).toNat else none
  | 1 => some (Tab.get 1 q.weights (p % 4096))
  | 2 => some (member s.dumpPds)
  | 3 => some (match s.tracePds.find? fun (e : Nat × Bool) => e.1 == p % 4096 with
      | some e => if e.2 then 2 else 1
      | none => 0)
  | 4 => some (member s.debugPds)
  | 5 => some (member q.replayPds)
  | 6 => if p % 4096 < 512 then some (if q.staging.contains (Fin.ofNat 512 p) then 1 else 0) else none
  | 7 => if p % 4096 < 512 then some (s.coreAt (Fin.ofNat 512 p)).trace.base.toNat else none
  | 8 => if p % 4096 < 512 then some (s.coreAt (Fin.ofNat 512 p)).trace.size else none
  | _ => none

/-- PARAM_SET (R400). -/
def State.mbParamSet (s : State) : State × MbStatus × List Byte :=
  let r := s.setParam (Config.paramNumber (BitVec.ofNat 64 (s.mbLE 0 8))) (s.mbLE 8 8)
  (r.1, r.2, [])

/-- PARAM_GET (R400). -/
def State.mbParamGet (s : State) : State × MbStatus × List Byte :=
  match s.getParam (Config.paramNumber (BitVec.ofNat 64 (s.mbLE 0 8))) with
  | some v => (s, .ok, leBytes 8 v)
  | none => (s, .badparam, [])

/-! ## Telemetry, SPDM, the image, the error log (R398, R401, R404, R405) -/

/-- A telemetry counter (R404). -/
def State.counter (s : State) (n : Nat) : Nat :=
  let core : Nat → Core := fun k => s.coreAt (Fin.ofNat 512 k)
  let v :=
    if n < 4 then s.mgmt.current[Fin.ofNat 4 n]
    else if n < 8 then s.mgmt.temp[Fin.ofNat 4 n]
    else if n < 12 then (s.nextRates[Fin.ofNat 4 n]).getD s.rates[Fin.ofNat 4 n]
    else if n = 12 then s.mgmt.lightDiscards
    else if n < 525 then (core (n - 13)).discards
    else if n = 525 then s.mgmt.tapPassed
    else if n = 526 then s.mgmt.tenderWaits
    else if n < 1039 then (core (n - 527)).trace.lost
    else if n < 1055 then s.mgmt.corrected[Fin.ofNat 16 (n - 1039)]
    else if n = 1055 then s.mgmt.uncorrected
    else (core (n - 1056)).refusedYields
  min v (2 ^ 64 - 1)

/-- TELEMETRY (R400, R404). -/
def State.mbTelemetry (s : State) : State × MbStatus × List Byte :=
  let first := s.mbLE 0 8
  let n := s.mbLE 8 8
  if n = 0 || 480 < n || 1568 < first + n then (s, .badparam, [])
  else (s, .ok, (List.range n).flatMap fun k => leBytes 8 (s.counter (first + k)))

/-- The request codes of the exchanges of R5, as the SPDM standard numbers them: GET_DIGESTS, GET_CERTIFICATE, CHALLENGE, GET_VERSION,
GET_MEASUREMENTS, GET_CAPABILITIES and NEGOTIATE_ALGORITHMS. PRESUMED (log entry 87). -/
def spdmCodes : List Nat := [0x81, 0x82, 0x83, 0x84, 0xE0, 0xE1, 0xE3]

/-- The ERROR response UnsupportedRequest of the SPDM standard to a request (R5). PRESUMED (log entry 87). -/
def spdmRefusal (req : List Byte) : List Byte := [req.getD 0 0, 0x7F, 0x07, req.getD 1 0]

/-- The 4,096-bit maps that measurement 4 takes: PDs with trace, debug, dump or replay enabled (R401). -/
def State.spdmMaps (s : State) : List (List Bool) :=
  [s.tracePds.map Prod.fst, s.debugPds, s.dumpPds, s.params.replayPds].map fun l => (List.range 4096).map l.contains

/-- SPDM (R401): the response rests on the requests so far, the running image and the maps; an exchange that R5 does not list is refused. -/
def State.mbSpdm (s : State) (len : Nat) : State × MbStatus × List Byte :=
  let req := (List.range len).map s.mbByte
  if !spdmCodes.contains (req.getD 1 0).toNat then (s, .ok, spdmRefusal req)
  else
    let all := s.mgmt.spdm ++ [req]
    ({ s with mgmt := { s.mgmt with spdm := all } }, .ok, (Config.spdmReply all s.mgmt.running s.spdmMaps).take 3840)

/-- IMAGE_WRITE (R400): data put into the new image, which the 64 MiB flash bounds. -/
def State.mbImageWrite (s : State) (len : Nat) : State × MbStatus × List Byte :=
  let off := s.mbLE 0 8
  if 67108864 < off + (len - 8) then (s, .badparam, [])
  else
    let t := (List.range (len - 8)).foldl (fun (t : Tab Byte) k => Tab.set 0 t (off + k) (s.mbByte (8 + k))) s.mgmt.newImage
    ({ s with mgmt := { s.mgmt with newImage := t } }, .ok, [])

/-- An image as its bytes that are not zero, each with its offset: what the signature check is given. -/
def imageOf (l : List (Nat × Byte)) : List (BitVec 8) := l.flatMap fun c => leBytes 4 c.1 ++ [c.2]

/-- IMAGE_COMMIT (R398, R400): the new image is verified before it replaces the old one. -/
def State.mbImageCommit (s : State) : State × MbStatus × List Byte :=
  let n := s.mbLE 0 8
  let img := s.mgmt.newImage.filter fun (e : Nat × Byte) => e.1 < n
  if 67108864 < n then (s, .badparam, [])
  else if !Config.imageVerifies (imageOf img) then (s, .badimage, [])
  else
    let m := clearRange s.mem (flashKey 0) 67108864
    ({ s with mem := writeCells m (img.map fun c => (flashKey c.1, c.2)) }, .ok, [])

/-- ERRLOG (R400, R405). -/
def State.mbErrlog (s : State) : State × MbStatus × List Byte :=
  (s, .ok, s.mgmt.errors.flatMap fun r => leBytes 16 (r.1.toNat + r.2.toNat * 2 ^ 64))

/-- The status of a number. -/
def mbStatusOf (n : Nat) : MbStatus := if n = 2 then .badparam else .notnow

/-- CTX_EXPORT (R46, R400). -/
def State.mbExport (s : State) (pick : Nat) : State × MbStatus × List Byte :=
  match s.exportCtx (BitVec.ofNat 32 (s.mbLE 0 8)) (s.mbLE 8 8) pick with
  | .ok (s, n) => (s, .ok, leBytes 8 n)
  | .error n => (s, mbStatusOf n, [])

/-- CTX_IMPORT (R46, R400). -/
def State.mbImport (s : State) (pick : Nat) : State × MbStatus × List Byte :=
  match s.importCtx (s.mbLE 0 8) (s.mbLE 8 8) (s.mbLE 16 8) pick with
  | .ok (s, h) => (s, .ok, leBytes 8 h.toNat)
  | .error n => (s, mbStatusOf n, [])

/-- The command of the mailbox by its OP (R400); every other value ends with BADOP. -/
def State.mbRun (s : State) (port : Fin 4) (pick : Nat) : State :=
  match s.mgmt.op.toNat with
  | 1 => s.mbCommand port 16 State.mbParamSet
  | 2 => s.mbCommand port 8 State.mbParamGet
  | 3 => s.mbCommand port 16 State.mbTelemetry
  | 4 => s.mbCommand port 0 fun s => s.mbSpdm s.mgmt.len.toNat
  | 5 => s.mbCommand port 8 fun s => s.mbImageWrite s.mgmt.len.toNat
  | 6 => s.mbCommand port 8 State.mbImageCommit
  | 7 => s.mbCommand port 0 State.mbErrlog
  | 8 => s.mbCommand port 16 fun s => s.mbExport pick
  | 9 => s.mbCommand port 24 fun s => s.mbImport pick
  | _ => s.mbEnd port .badop []

/-- The command that is running acts and ends: BUSY falls (R399; log entry 84). -/
def State.mbFinish (s : State) (pick : Nat) : State :=
  match s.mgmt.busy with
  | some port => s.mbRun port pick
  | none => s

/-- The word that a write of MBCMD carries (R399). -/
def mbWord (op : Nat) (len : BitVec 16) (tag : BitVec 32) : Word := BitVec.ofNat 64 (op * 2 ^ 48 + len.toNat * 2 ^ 32 + tag.toNat)

/-- A write of MBCMD with the whole of the command that it starts; it is discarded while a command runs (R399). The mailbox's writes
are host inputs that mode 2 logs (R395), and no mode refuses them (log entry 80). -/
def State.mbCmd (s : State) (port : Fin 4) (op : Nat) (len : BitVec 16) (tag : BitVec 32) (pick : Nat) : State :=
  let s := s.logInput port (bar0 port 0x600000 (mbWord op len tag))
  if s.mgmt.busy.isSome then s else (s.mbStart port op len tag).mbFinish pick

/-- PARAM_SET (R400). -/
def execParamSet (port : Fin 4) (len : BitVec 16) (tag : BitVec 32) (s : State) : Host.Outcome State Fault Refusal :=
  .next (s.mbCmd port 1 len tag 0)

/-- PARAM_GET (R400). -/
def execParamGet (port : Fin 4) (len : BitVec 16) (tag : BitVec 32) (s : State) : Host.Outcome State Fault Refusal :=
  .next (s.mbCmd port 2 len tag 0)

/-- TELEMETRY (R404). -/
def execTelemetry (port : Fin 4) (len : BitVec 16) (tag : BitVec 32) (s : State) : Host.Outcome State Fault Refusal :=
  .next (s.mbCmd port 3 len tag 0)

/-- SPDM (R401). -/
def execSpdm (port : Fin 4) (len : BitVec 16) (tag : BitVec 32) (s : State) : Host.Outcome State Fault Refusal :=
  .next (s.mbCmd port 4 len tag 0)

/-- IMAGE_WRITE (R400). -/
def execImageWrite (port : Fin 4) (len : BitVec 16) (tag : BitVec 32) (s : State) : Host.Outcome State Fault Refusal :=
  .next (s.mbCmd port 5 len tag 0)

/-- IMAGE_COMMIT (R398). -/
def execImageCommit (port : Fin 4) (len : BitVec 16) (tag : BitVec 32) (s : State) : Host.Outcome State Fault Refusal :=
  .next (s.mbCmd port 6 len tag 0)

/-- ERRLOG (R405). -/
def execErrlog (port : Fin 4) (len : BitVec 16) (tag : BitVec 32) (s : State) : Host.Outcome State Fault Refusal :=
  .next (s.mbCmd port 7 len tag 0)

/-- CTX_EXPORT (R46). -/
def execCtxExport (port : Fin 4) (len : BitVec 16) (tag : BitVec 32) (pick : Nat) (s : State) : Host.Outcome State Fault Refusal :=
  .next (s.mbCmd port 8 len tag pick)

/-- CTX_IMPORT (R46). -/
def execCtxImport (port : Fin 4) (len : BitVec 16) (tag : BitVec 32) (pick : Nat) (s : State) : Host.Outcome State Fault Refusal :=
  .next (s.mbCmd port 9 len tag pick)

/-! ## Power and time (R30, R90, R402, R403) -/

/-- PTM_EXCHANGE (R30): the offset found is to be slewed away. -/
def execPtmExchange (offset : Int) (s : State) : Host.Outcome State Fault Refusal := .next { s with slew := offset, slewPart := 0 }

/-- The least rate that holds a die's current within its ceiling (R403): 48 where none does. -/
def currentRate (i imax n : Nat) : Nat := ((List.range 49).find? fun m => i * (64 - m) ≤ imax * (64 - n)).getD 48

/-- The thermal rate of a junction temperature in thousandths of a degree (R403); `up` says which way a fraction of a rate goes. -/
def thermalRate (t : Nat) (up : Bool) : Nat :=
  if t ≤ 95000 then 0 else min 48 ((8 * (t - 95000) + (if up then 999 else 0)) / 1000)

/-- POWER_SAMPLE (R403): the die's new rate is the largest of the three; at 115 °C the package stops. -/
def execPowerSample (d : Fin 4) (current temp : Nat) (s : State) : Host.Outcome State Fault Refusal :=
  .next
    (let up := (Config.freeWord s.fresh).getLsbD 0
     let n := min 48 (max (currentRate current s.params.imax[d] s.rates[d]) (max (thermalRate temp up) s.params.nmin))
     let s := { s with
       mgmt := { s.mgmt with current := s.mgmt.current.set d current, temp := s.mgmt.temp.set d temp }
       nextRates := s.nextRates.set d (some n), fresh := s.fresh + 1 }
     if 115000 ≤ temp then s.fatal else s)

/-- SWALLOW_RATE_CHANGE (R403): the die's new rate takes effect. -/
def execSwallowRateChange (d : Fin 4) (s : State) : Host.Outcome State Fault Refusal :=
  .next
    (match s.nextRates[d] with
     | some n => { s with rates := s.rates.set d n, nextRates := s.nextRates.set d none }
     | none => s)

/-! ## Reset and boot (R398) -/

/-- The bytes that outlive a package reset: host memory, the CXL pool, the image flash and other packages. -/
def outlives (key : Nat) : Bool := (2 * spaceSize ≤ key && key < 4 * spaceSize) || 5 * spaceSize ≤ key

/-- PACKAGE_RESET (R398): the machine as after reset, with the memories outside the package and its flash as they are. -/
def execPackageReset (s : State) : Host.Outcome State Fault Refusal :=
  .next
    { State.reset with
      mem := s.mem.filter fun (e : Nat × Byte) => outlives e.1, poison := s.poison.filter fun w => outlives (w * 8)
      agenda := s.agenda, fresh := s.fresh }

/-- BOOT_COMPLETE (R398): the image in the flash is verified, and then runs. -/
def execBootComplete (s : State) : Host.Outcome State Fault Refusal :=
  .next
    (if s.mgmt.phase != .boot then s
     else
       let img := (s.mem.filter fun (e : Nat × Byte) => flashKey 0 ≤ e.1 && e.1 < flashKey 67108864).map fun e => (e.1 - flashKey 0, e.2)
       if Config.imageVerifies (imageOf img) then { s with mgmt := { s.mgmt with phase := .run, running := img } }
       else { s with mgmt := { s.mgmt with phase := .bootfail } })

/-! ## Writes of BAR0 (R3) -/

/-- A write of a mailbox word (R399): MBCMD starts its command unless one is running, and MBDATA takes the bytes. -/
def State.mbWrite (s : State) (port : Fin 4) (off : Nat) (v : Word) : State :=
  if off = 0x600000 then
    if s.mgmt.busy.isSome then s else s.mbStart port (fld v.toNat 48 16) (BitVec.ofNat 16 (fld v.toNat 32 16)) (BitVec.ofNat 32 v.toNat)
  else if 0x600100 ≤ off then
    { s with
      mgmt := { s.mgmt with
        data := (List.range 8).foldl (fun (t : Tab Byte) k => Tab.set 0 t (off - 0x600100 + k) (BitVec.ofNat 8 (v.toNat / 256 ^ k)))
          s.mgmt.data } }
  else s

/-- A write of a word of a debug block (R387). -/
def State.debugWrite (s : State) (c : CoreId) (k : Nat) (v : Word) : State :=
  match k with
  | 0 =>
    let s := s.modDebug c fun d => d.write v
    let s := if bit v.toNat 6 then s.stopReq c else s
    if bit v.toNat 5 then s.debugGo c else s
  | 1 => s.modDebug c fun d => { d with matchVal := v }
  | _ => s

/-- A write of a BAR0 register in its low pages (R42, R218, R222, R308, R310, R336, R381); a register that is RO or reserved ignores
it (R3). -/
def State.lowWrite (s : State) (port : Fin 4) (off : Nat) (v : Word) : State :=
  match off with
  | 0x00 =>
    match fld v.toNat 0 2 with
    | 1 => s.biasCmd port (BitVec.ofNat 24 (fld v.toNat 40 24)) false
    | 2 => s.biasCmd port (BitVec.ofNat 24 (fld v.toNat 40 24)) true
    | _ => s
  | 0x08 => if bit v.toNat 0 then { s with front := { s.front with biasFull := s.front.biasFull.set port false } } else s
  | 0x18 => s.hsyncWrite v
  | 0x28 => s.dirqWrite v
  | 0x38 => { s with front := { s.front with probeBase := v } }
  | 0x40 => { s with front := { s.front with steerBase := v } }
  | 0x48 => s.tapsyncWrite v
  | 0x50 => s.dumpFree v
  | 0x100 => if s.front.moorBusy then s else { s with front := { s.front with moorCmd := v &&& 0xFF000000FFFFFFFF#64 } }
  | 0x108 => if s.front.moorBusy then s else { s with front := { s.front with moorRange := v } }
  | 0x110 => s.moorStart v
  | _ => s

/-- A write of an 8-byte BAR0 register on a port (R3, R31, R216, R377, R387). -/
def State.regWrite (s : State) (port : Fin 4) (off : Nat) (v : Word) : State :=
  let q := port.val * 1024 + off % 65536 / 64
  let k := off % 64 / 8
  match off / 65536 with
  | 0 => s.lowWrite port off v
  | 0x10 => s.writeSq q k v
  | 0x18 => s.writeCq q k v
  | 0x20 => if off % 65536 < 32768 then { s with htbase := Tab.set 0 s.htbase (off % 65536 / 8) v } else s
  | 0x40 => if off % 65536 < 32768 then s.debugWrite (Fin.ofNat 512 (off % 65536 / 64)) k v else s
  | _ => s

/-- Does an offset of BAR0 lie in the mailbox (R399). -/
def inMailbox (off : Nat) : Bool := 0x600000 ≤ off && off < 0x601000

/-- The bytes of a base address register (R28). -/
def barBytes (n : Nat) : Nat :=
  match n with
  | 0 => 0x1000000
  | 2 => 0x400000
  | 4 => 0x4000000
  | _ => 0

/-- REGISTER_WRITE (R3): in BOOTFAIL only the mailbox takes a write (R398), and one beyond BAR0 is an unsupported request (R5, R28). A
write whose offset is not a multiple of 8 is ignored (log entry 88; DESIGN CHOICE). -/
def execRegisterWrite (port : Fin 4) (off : Nat) (v : Word) (s : State) : Host.Outcome State Fault Refusal :=
  .next
    (if off % 8 != 0 then s
     else if barBytes 0 ≤ off then s.refuseHost
     else if inMailbox off then (s.logInput port (bar0 port off v)).mbWrite port off v
     else s.hostInput port (bar0 port off v) fun s => s.regWrite port off v)

/-! ## Reads of the base address registers (R3, R7, R28, R42, R377) -/

/-- A number from whether a bit is set, at its place. -/
def atBit (b : Bool) (n : Nat) : Nat := if b then 2 ^ n else 0

/-- Word `k` of a submission queue's descriptor (R31). -/
def SqDesc.word (d : SqDesc) (k : Nat) : Nat :=
  match k with
  | 0 => d.base.toNat
  | 1 => d.log2n.toNat * 2 ^ 56 + atBit d.loc 55 + atBit d.en 54 + d.pd.toNat * 2 ^ 32 + d.vec.toNat
  | 2 => d.rlBase.toNat
  | 3 => d.rlLog2n.toNat
  | 4 => d.lastSeq.toNat * 2 ^ 48 + d.tail.toNat
  | 5 => d.rlLost.toNat * 2 ^ 32 + atBit d.overrun 17 + atBit d.malform 16 + d.head.toNat
  | 6 => d.mirror.toNat
  | 7 => d.rlTail.toNat * 2 ^ 16 + d.rlHead.toNat
  | _ => 0

/-- Word `k` of a completion queue's descriptor (R377). -/
def CqDesc.word (d : CqDesc) (k : Nat) : Nat :=
  match k with
  | 0 => d.base.toNat
  | 1 =>
    d.log2n.toNat * 2 ^ 56 + atBit d.en 55 + atBit d.pnote 54 + d.cn.toNat * 2 ^ 40 + d.ct.toNat * 2 ^ 32 + d.vec.toNat
  | 2 => d.plost.toNat * 2 ^ 32 + atBit d.malform 18 + atBit (!d.held.isEmpty) 17 + atBit d.phase 16 + d.tail.toNat
  | 3 => d.pd.toNat * 2 ^ 32 + d.head.toNat
  | _ => 0

/-- Word `k` of a debug block (R387). -/
def Debug.word (d : Debug) (k : Nat) : Nat :=
  match k with
  | 0 => atBit d.stopped 7 + atBit d.bken 4 + atBit d.cycen 3 + atBit d.reten 2 + atBit d.scope 0
  | 1 => d.matchVal.toNat
  | 2 => d.dumpId.toNat * 2 ^ 48 + d.src.toNat * 2 ^ 45
  | _ => 0

/-- The code of MBSTAT.STATE (R399). -/
def Phase.code : Phase → Nat
  | .boot => 0
  | .run => 1
  | .bootfail => 2
  | .fatal => 3

/-- A word of the mailbox (R399). -/
def State.mbRead (s : State) (off : Nat) : Nat :=
  let m := s.mgmt
  if off = 0x600000 then m.op.toNat * 2 ^ 48 + m.len.toNat * 2 ^ 32 + m.tag.toNat
  else if off = 0x600008 then
    atBit m.busy.isSome 63 + m.phase.code * 2 ^ 60 + m.status.toNat * 2 ^ 56 + m.rlen.toNat * 2 ^ 32 + m.rtag.toNat
  else if 0x600100 ≤ off then s.mbLE (off - 0x600100) 8
  else 0

/-- A word of the low pages of BAR0 (R42, R218, R222, R308, R310, R336). BIASDONE, whose read takes an entry, is apart. -/
def State.lowRead (s : State) (port : Fin 4) (off : Nat) : Nat :=
  let f := s.front
  match off with
  | 0x08 => atBit f.biasFull[port] 0
  | 0x18 => atBit f.hsync.isSome 0
  | 0x28 => f.dirq.toNat
  | 0x38 => f.probeBase.toNat
  | 0x40 => f.steerBase.toNat
  | 0x48 => atBit f.tapsync.isSome 0
  | 0x60 => f.dirData[0].toNat
  | 0x68 => f.dirData[1].toNat
  | 0x70 => f.dirData[2].toNat
  | 0x78 => f.dirData[3].toNat
  | 0x100 => f.moorCmd.toNat
  | 0x108 => f.moorRange.toNat
  | 0x118 => atBit f.moorBusy 63 + f.moorStatus.toNat * 2 ^ 32 + f.moorDone.toNat
  | _ => 0

/-- A word of a base address register as the host reads it (R3): fields marked WO or RSV read as zero, the doorbells of BAR2 among
them (R35, R377). -/
def State.barWord (s : State) (port : Fin 4) (n off : Nat) : Nat :=
  let q := port.val * 1024 + off % 65536 / 64
  let k := off % 64 / 8
  match n with
  | 0 =>
    if inMailbox off then s.mbRead off
    else
      (match off / 65536 with
       | 0 => s.lowRead port off
       | 0x10 => (s.sqAt q).word k
       | 0x18 => (s.cqAt q).word k
       | 0x20 => if off % 65536 < 32768 then (Tab.get 0 s.htbase (off % 65536 / 8)).toNat else 0
       | 0x40 => if off % 65536 < 32768 then (s.coreAt (Fin.ofNat 512 (off % 65536 / 64))).dbg.word k else 0
       | _ => 0)
  | 4 => if off < 67108864 then (s.ctxAt (off / 512)).word (off / 512) (off % 512 / 8) else 0
  | _ => 0

/-- The host reads a 64-bit word of a base address register (R3, R7): one beyond its end, or of a register that there is not, is an
unsupported request (R5, R28); in BOOTFAIL only the mailbox answers (R398), and every other read is one (log entry 88). -/
def State.barRead (s : State) (port : Fin 4) (n off : Nat) : Host.Outcome State Fault Refusal :=
  let off := off / 8 * 8
  if barBytes n ≤ off then .next s.refuseHost
  else if n = 0 && off = 0x10 then execBiasdone port s
  else if s.mgmt.phase = .bootfail && !(n = 0 && inMailbox off) then .next s.refuseHost
  else .next (s.answerHost (leBytes 8 (s.barWord port n off)) false)

end Sys2Proof.Machine
end

