-- ==== Sys2Proof/Machine/Outside.lean ====
section
/-! DEFINITION. The host and other packages at the package's memory ports (R29, R41, R45, R354). -/

namespace Sys2Proof.Machine

/-- The memory key of a host CXL.mem address (R29): the 1 TiB window of HBM4E, and above it the CXL pool window; none elsewhere. -/
def windowKey (a : Nat) : Option Nat :=
  if a < Config.hbmBytes then some (devKey a)
  else if a < Config.hbmBytes + Config.poolBytes then some (poolKey (a - Config.hbmBytes))
  else none

/-- The memory keys of bytes of the host's windows, none where some byte lies outside them. -/
def windowKeys (a n : Nat) : Option (List Nat) :=
  let keys := (List.range n).map fun k => windowKey (a + k)
  if keys.any Option.isNone then none else some (keys.filterMap id)

/-- HOST_MEM_READ (R41, R354): the data, with the poison indication where a word is poisoned, which also adds a record to the error log. An
address outside the windows gets the unsupported-request response (R5), and so does every address in BOOTFAIL (R398). -/
def execHostMemRead (a : Word) (n : Nat) (s : State) : Host.Outcome State Fault Refusal :=
  .next
    (match windowKeys a.toNat n with
     | none => s.refuseHost
     | some keys =>
       if s.mgmt.phase = .bootfail then s.refuseHost
       else
         let s' := s.answerHost (keys.map (readByte s.mem)) (keys.any fun k => s.poisoned k 1)
         match keys.find? fun k => s.poisoned k 1 with
         | some k => s'.logError 2 (keyDie k) (k % spaceSize)
         | none => s')

/-- HOST_MEM_WRITE (R41, R354): an input of a replay (R395), refused outside the windows, in BOOTFAIL (R398), and by a replay of
inputs (R396). -/
def execHostMemWrite (a : Word) (bytes : List Byte) (s : State) : Host.Outcome State Fault Refusal :=
  .next
    (match windowKeys a.toNat bytes.length with
     | none => s.refuseHost
     | some keys =>
       if s.mgmt.phase = .bootfail || s.inputRefused (.mem a bytes) then s.refuseHost
       else (s.logInput 0 (.mem a bytes)).hostStore (keys.zip bytes))

/-- CXL_SNOOP (R29): no line is held between transfers, so the answer is invalid: no data. -/
def execCxlSnoop (_a : Word) (s : State) : Host.Outcome State Fault Refusal := .next (s.answerHost [] false)

/-- The host writes its own memory, which the device reads over CXL.cache (R29). -/
def State.hostMemory (s : State) (a : Word) (bytes : List Byte) : State :=
  s.hostStore (((List.range bytes.length).zip bytes).map fun b => (hostKey ((a.toNat + b.1) % spaceSize), b.2))

/-- A request over UALink acted on at a device address (R45, R247, R251): the bytes of its answer, and the state after it. -/
def State.fabric (s : State) (a : Nat) (q : FabricReq) : List Byte × State :=
  match q with
  | .read n => ((List.range n).map fun k => readByte s.mem (devKey (a + k)), s)
  | .write bytes => ([], s.writeMem (((List.range bytes.length).zip bytes).map fun b => (devKey (a + b.1), b.2)))
  | .combine ty op sat v =>
    let n := combineWidth ty / 8
    let old := readLE s.mem (devKey a) n
    (leBytes n old, s.writeMem (leCells (devKey a) n (combineValue ty op sat old v.toNat).1))
  | .cas n cmp new =>
    let old := readLE s.mem (devKey a) n
    (leBytes n old, if old = cmp.toNat % 256 ^ n then s.writeMem (leCells (devKey a) n new.toNat) else s)

/-- The bytes that a request touches. -/
def fabricSize : FabricReq → Nat
  | .read n => n
  | .write bytes => bytes.length
  | .combine ty _ _ _ => combineWidth ty / 8
  | .cas n _ _ => n

/-- Does a request change memory: those are the inputs of a replay (R395). -/
def fabricChanges : FabricReq → Bool
  | .read _ => false
  | _ => true

/-- Is a request one that the fabric carries (R5, R45): a read, a write, or an atomic of R247 on an aligned element. -/
def fabricServed (a : Nat) (q : FabricReq) : Bool :=
  match q with
  | .read _ | .write _ => true
  | .combine ty op sat _ =>
    let w := combineWidth ty
    ty < 16 && op < 8 && combineOpt true (ty + 16 * op + 128 * bitN sat) w && a % (w / 8) = 0
  | .cas n _ _ => (n = 4 || n = 8) && a % n = 0

/-- A request acted on, and answered. -/
def State.serveFabric (s : State) (a : Word) (q : FabricReq) : State :=
  let r := s.fabric a.toNat q
  { r.2 with fabricOut := .data r.1 }

/-- FABRIC_REQUEST (R45): a write or combining step is an input of a replay (R395). An address outside device memory gets the
unsupported-request response (R5), and so does an atomic that R247 lacks, every request in BOOTFAIL (R398) and an input that a replay
refuses (R396). -/
def execFabricRequest (a : Word) (q : FabricReq) (s : State) : Host.Outcome State Fault Refusal :=
  .next
    (if !fabricServed a.toNat q || Config.hbmBytes < a.toNat + fabricSize q || s.mgmt.phase = .bootfail || (fabricChanges q && s.inputRefused (.fabric a q)) then
       { s with fabricOut := .refused }
     else if fabricChanges q then (s.logInput 0 (.fabric a q)).serveFabric a q
     else s.serveFabric a q)

/-! ## The inputs that a replay delivers (R396) -/

/-- A logged input delivered. -/
def State.deliverInput (s : State) : HostIn → State
  | .bar port 0 off v => if inMailbox off then s.mbWrite port off v else s.regWrite port off v
  | .bar port 2 off v =>
    let q := port.val * 1024 + off / 4096
    if off % 4096 = 0 then s.ringSq q v else if off % 4096 = 8 then s.cqHead q v else s
  | .bar _ 4 off v => s.lightWrite (off / 512) (off % 512 / 8) v
  | .bar _ _ _ _ => s
  | .mem a bytes => s.hostStore (((windowKeys a.toNat bytes.length).getD []).zip bytes)
  | .fabric a q => s.serveFabric a q

/-- The logged inputs whose stamp GRC has reached delivered in turn, at most as many as given (R396). -/
def State.deliverDue (s : State) : Nat → State
  | 0 => s
  | n + 1 =>
    match s.dueInput with
    | some e => State.deliverDue ((s.met (.input e.1 e.2)).deliverInput e.2) n
    | none => s

end Sys2Proof.Machine
end

