-- ==== Sys2Proof/Machine/Scalar.lean ====
section
/-! DEFINITION. Class 0 and 1 integer words (R129 to R132, R136). -/

namespace Sys2Proof.Machine

/-- The operand of an integer word after the ABS and NEG of its modifier, as an exact integer (R132). -/
def signInt (absv neg : Bool) (v : Int) : Int :=
  let v := if absv then (v.natAbs : Int) else v
  if neg then -v else v

/-- An integer word under its modifiers: exact, then scaled, clamped, saturated or wrapped (R132). -/
def intModified (c : NumCtl) (op : Int → Int → Int) (a b : Word) : Word × Flags :=
  let r := intFinish c true 64 (op (signInt c.mod.absA c.mod.negA a.toInt) (signInt c.mod.absB c.mod.negB b.toInt))
  (BitVec.ofInt 64 r.1, r.2)

/-- An integer word that takes modifiers: two operands and a result after `lat` issue cycles. -/
def State.intWord (s : State) (lat : Nat) (d : RegNum) (op : Int → Int → Int) (a b : Word) : State :=
  let r := intModified s.numCtl op a b
  s.xResult lat d r.1 r.2

/-- The shift count of a register form (R129). -/
def shiftBy (b : Word) : Nat := fld b.toNat 0 6

/-- The length of a bit field, 0 for 64 (R131). -/
def fieldLen (b : Word) : Nat := if fld b.toNat 8 6 = 0 then 64 else fld b.toNat 8 6

/-- The mask of `l` low bits (R131). -/
def maskOf (l : Nat) : Word := BitVec.ofNat 64 (2 ^ l - 1)

/-- The quotient of DIV, which truncates toward zero (R130). -/
def divS (a b : Word) : Word :=
  if b = 0 then 0xFFFFFFFFFFFFFFFF#64 else BitVec.ofInt 64 (Int.tdiv a.toInt b.toInt)

/-- The remainder of REM, with the sign of the dividend (R130). -/
def remS (a b : Word) : Word := if b = 0 then a else BitVec.ofInt 64 (Int.tmod a.toInt b.toInt)

/-- The quotient of DIVU (R130). -/
def divU (a b : Word) : Word :=
  if b = 0 then 0xFFFFFFFFFFFFFFFF#64 else BitVec.ofNat 64 (a.toNat / b.toNat)

/-- The remainder of REMU (R130). -/
def remU (a b : Word) : Word := if b = 0 then a else BitVec.ofNat 64 (a.toNat % b.toNat)

/-- A divide: the divider is taken until the result is written, and a zero divisor sets DZ but raises no trap (R85, R130). -/
def State.divWord (s : State) (d : RegNum) (b v : Word) : State :=
  (s.modSeq fun q => { q with divDue := q.ic + 18 }).quietResult 18 (.x d) v (flagIf (b == 0) Flg.dz)

/-- BFX (R131). -/
def bfxOf (a b : Word) : Word := (a >>> shiftBy b) &&& maskOf (fieldLen b)

/-- BFXS (R131). -/
def bfxsOf (a b : Word) : Word := BitVec.ofInt 64 (sext (fieldLen b) (bfxOf a b).toNat)

/-- BFI (R131). -/
def bfiOf (d a b : Word) : Word :=
  let m := maskOf (fieldLen b) <<< shiftBy b
  (d &&& ~~~m) ||| ((a <<< shiftBy b) &&& m)

/-- FSHL: the high word of {XD, XA} shifted left (R131). -/
def fshlOf (d a b : Word) : Word := BitVec.ofNat 64 ((d.toNat * 2 ^ 64 + a.toNat) * 2 ^ shiftBy b / 2 ^ 64)

/-- FSHR: the low word of {XA, XD} shifted right (R131). -/
def fshrOf (d a b : Word) : Word := BitVec.ofNat 64 ((a.toNat * 2 ^ 64 + d.toNat) / 2 ^ shiftBy b)

/-- ROTL (R129). -/
def rotlOf (a : Word) (n : Nat) : Word := (a <<< n) ||| (a >>> (64 - n))

/-- Leading zero bits, counted from bit `n` − 1 down (R129). -/
def leadingZeros (v : Nat) : Nat → Nat
  | 0 => 0
  | n + 1 => if v.testBit n then 0 else 1 + leadingZeros v n

/-- Trailing zero bits of the `n` low bits (R129). -/
def trailingZeros : Nat → Nat → Nat
  | _, 0 => 0
  | v, n + 1 => if v % 2 = 1 then 0 else 1 + trailingZeros (v / 2) n

/-- One bits among the `n` low bits (R129). -/
def oneBits : Nat → Nat → Nat
  | _, 0 => 0
  | v, n + 1 => v % 2 + oneBits (v / 2) n

/-- BSWAP: the bytes in the other order (R129). -/
def bswapOf (a : Word) : Word := BitVec.ofNat 64 ((List.range 8).foldl (fun acc k => acc * 256 + fld a.toNat (8 * k) 8) 0)

/-- An integer word's result without modifiers. -/
def State.plainWord (s : State) (lat : Nat) (d : RegNum) (v : Word) : State := s.xResult lat d v Flg.none

/-- The immediate of a class 1 word, sign-extended (R105). -/
def immS (i : BitVec 12) : Word := i.signExtend 64

/-- The immediate of ORI and XORI, zero-extended (R105). -/
def immZ (i : BitVec 12) : Word := i.setWidth 64


/-- ADD (R129): XA + XB. -/
def execAdd (d a b : RegNum) (g : Fin 16) (s : State) : Host.Outcome State Fault Refusal :=
  issue (.add d a b g) s fun s =>
    let x := s.seq.getX
    s.intWord 1 d (· + ·) (x a) (x b)

/-- SUB (R129): XA − XB. -/
def execSub (d a b : RegNum) (g : Fin 16) (s : State) : Host.Outcome State Fault Refusal :=
  issue (.sub d a b g) s fun s =>
    let x := s.seq.getX
    s.intWord 1 d (· - ·) (x a) (x b)

/-- MUL (R129): the product, low 64 bits. -/
def execMul (d a b : RegNum) (g : Fin 16) (s : State) : Host.Outcome State Fault Refusal :=
  issue (.mul d a b g) s fun s =>
    let x := s.seq.getX
    s.intWord 3 d (· * ·) (x a) (x b)

/-- MULH (R129): the high word of the signed product. -/
def execMulh (d a b : RegNum) (g : Fin 16) (s : State) : Host.Outcome State Fault Refusal :=
  issue (.mulh d a b g) s fun s =>
    let x := s.seq.getX
    s.plainWord 3 d (BitVec.ofInt 64 ((x a).toInt * (x b).toInt / 2 ^ 64))

/-- MULHU (R129): the high word of the unsigned product. -/
def execMulhu (d a b : RegNum) (g : Fin 16) (s : State) : Host.Outcome State Fault Refusal :=
  issue (.mulhu d a b g) s fun s =>
    let x := s.seq.getX
    s.plainWord 3 d (BitVec.ofNat 64 ((x a).toNat * (x b).toNat / 2 ^ 64))

/-- DIV (R130). -/
def execDiv (d a b : RegNum) (g : Fin 16) (s : State) : Host.Outcome State Fault Refusal :=
  issue (.div d a b g) s fun s =>
    let x := s.seq.getX
    s.divWord d (x b) (divS (x a) (x b))

/-- DIVU (R130). -/
def execDivu (d a b : RegNum) (g : Fin 16) (s : State) : Host.Outcome State Fault Refusal :=
  issue (.divu d a b g) s fun s =>
    let x := s.seq.getX
    s.divWord d (x b) (divU (x a) (x b))

/-- REM (R130). -/
def execRem (d a b : RegNum) (g : Fin 16) (s : State) : Host.Outcome State Fault Refusal :=
  issue (.rem d a b g) s fun s =>
    let x := s.seq.getX
    s.divWord d (x b) (remS (x a) (x b))

/-- REMU (R130). -/
def execRemu (d a b : RegNum) (g : Fin 16) (s : State) : Host.Outcome State Fault Refusal :=
  issue (.remu d a b g) s fun s =>
    let x := s.seq.getX
    s.divWord d (x b) (remU (x a) (x b))

/-- AND (R129). -/
def execAnd (d a b : RegNum) (g : Fin 16) (s : State) : Host.Outcome State Fault Refusal :=
  issue (.and_ d a b g) s fun s =>
    let x := s.seq.getX
    s.plainWord 1 d (x a &&& x b)

/-- OR (R129). -/
def execOr (d a b : RegNum) (g : Fin 16) (s : State) : Host.Outcome State Fault Refusal :=
  issue (.or_ d a b g) s fun s =>
    let x := s.seq.getX
    s.plainWord 1 d (x a ||| x b)

/-- XOR (R129). -/
def execXor (d a b : RegNum) (g : Fin 16) (s : State) : Host.Outcome State Fault Refusal :=
  issue (.xor_ d a b g) s fun s =>
    let x := s.seq.getX
    s.plainWord 1 d (x a ^^^ x b)

/-- ANDN (R129): XA AND NOT XB. -/
def execAndn (d a b : RegNum) (g : Fin 16) (s : State) : Host.Outcome State Fault Refusal :=
  issue (.andn d a b g) s fun s =>
    let x := s.seq.getX
    s.plainWord 1 d (x a &&& ~~~x b)

/-- SHL (R129). -/
def execShl (d a b : RegNum) (g : Fin 16) (s : State) : Host.Outcome State Fault Refusal :=
  issue (.shl d a b g) s fun s =>
    let x := s.seq.getX
    s.plainWord 1 d (x a <<< shiftBy (x b))

/-- SHR (R129). -/
def execShr (d a b : RegNum) (g : Fin 16) (s : State) : Host.Outcome State Fault Refusal :=
  issue (.shr d a b g) s fun s =>
    let x := s.seq.getX
    s.plainWord 1 d (x a >>> shiftBy (x b))

/-- SAR (R129). -/
def execSar (d a b : RegNum) (g : Fin 16) (s : State) : Host.Outcome State Fault Refusal :=
  issue (.sar d a b g) s fun s =>
    let x := s.seq.getX
    s.plainWord 1 d ((x a).sshiftRight (shiftBy (x b)))

/-- ROTL (R129). -/
def execRotl (d a b : RegNum) (g : Fin 16) (s : State) : Host.Outcome State Fault Refusal :=
  issue (.rotl d a b g) s fun s =>
    let x := s.seq.getX
    s.plainWord 1 d (rotlOf (x a) (shiftBy (x b)))

/-- MIN (R129), signed. -/
def execMin (d a b : RegNum) (g : Fin 16) (s : State) : Host.Outcome State Fault Refusal :=
  issue (.min d a b g) s fun s =>
    let x := s.seq.getX
    s.intWord 1 d (fun u v => if v < u then v else u) (x a) (x b)

/-- MAX (R129), signed. -/
def execMax (d a b : RegNum) (g : Fin 16) (s : State) : Host.Outcome State Fault Refusal :=
  issue (.max d a b g) s fun s =>
    let x := s.seq.getX
    s.intWord 1 d (fun u v => if u < v then v else u) (x a) (x b)

/-- MINU (R129), unsigned. -/
def execMinu (d a b : RegNum) (g : Fin 16) (s : State) : Host.Outcome State Fault Refusal :=
  issue (.minu d a b g) s fun s =>
    let x := s.seq.getX
    s.plainWord 1 d (if (x b).toNat < (x a).toNat then x b else x a)

/-- MAXU (R129), unsigned. -/
def execMaxu (d a b : RegNum) (g : Fin 16) (s : State) : Host.Outcome State Fault Refusal :=
  issue (.maxu d a b g) s fun s =>
    let x := s.seq.getX
    s.plainWord 1 d (if (x a).toNat < (x b).toNat then x b else x a)

/-- SEL (R129): XA when the predicate that G names is true, XB otherwise. -/
def execSel (d a b : RegNum) (p : Fin 16) (s : State) : Host.Outcome State Fault Refusal :=
  issue (.sel d a b p) s fun s =>
    let x := s.seq.getX
    s.plainWord 1 d (if s.seq.getP (Fin.ofNat 64 p.val) then x a else x b)

/-- FSHL (R131). -/
def execFshl (d a b : RegNum) (g : Fin 16) (s : State) : Host.Outcome State Fault Refusal :=
  issue (.fshl d a b g) s fun s =>
    let x := s.seq.getX
    s.plainWord 1 d (fshlOf (x d) (x a) (x b))

/-- FSHR (R131). -/
def execFshr (d a b : RegNum) (g : Fin 16) (s : State) : Host.Outcome State Fault Refusal :=
  issue (.fshr d a b g) s fun s =>
    let x := s.seq.getX
    s.plainWord 1 d (fshrOf (x d) (x a) (x b))

/-- BFX (R131). -/
def execBfx (d a b : RegNum) (g : Fin 16) (s : State) : Host.Outcome State Fault Refusal :=
  issue (.bfx d a b g) s fun s =>
    let x := s.seq.getX
    s.plainWord 1 d (bfxOf (x a) (x b))

/-- BFXS (R131). -/
def execBfxs (d a b : RegNum) (g : Fin 16) (s : State) : Host.Outcome State Fault Refusal :=
  issue (.bfxs d a b g) s fun s =>
    let x := s.seq.getX
    s.plainWord 1 d (bfxsOf (x a) (x b))

/-- BFI (R131). -/
def execBfi (d a b : RegNum) (g : Fin 16) (s : State) : Host.Outcome State Fault Refusal :=
  issue (.bfi d a b g) s fun s =>
    let x := s.seq.getX
    s.plainWord 1 d (bfiOf (x d) (x a) (x b))

/-- CLZ (R129). -/
def execClz (d a : RegNum) (g : Fin 16) (s : State) : Host.Outcome State Fault Refusal :=
  issue (.clz d a g) s fun s =>
    let x := s.seq.getX
    s.plainWord 1 d (BitVec.ofNat 64 (leadingZeros (x a).toNat 64))

/-- CTZ (R129). -/
def execCtz (d a : RegNum) (g : Fin 16) (s : State) : Host.Outcome State Fault Refusal :=
  issue (.ctz d a g) s fun s =>
    let x := s.seq.getX
    s.plainWord 1 d (BitVec.ofNat 64 (trailingZeros (x a).toNat 64))

/-- POPC (R129). -/
def execPopc (d a : RegNum) (g : Fin 16) (s : State) : Host.Outcome State Fault Refusal :=
  issue (.popc d a g) s fun s =>
    let x := s.seq.getX
    s.plainWord 1 d (BitVec.ofNat 64 (oneBits (x a).toNat 64))

/-- BSWAP (R129). -/
def execBswap (d a : RegNum) (g : Fin 16) (s : State) : Host.Outcome State Fault Refusal :=
  issue (.bswap d a g) s fun s =>
    let x := s.seq.getX
    s.plainWord 1 d (bswapOf (x a))

/-- MOV (R129). -/
def execMov (d a : RegNum) (g : Fin 16) (s : State) : Host.Outcome State Fault Refusal :=
  issue (.mov d a g) s fun s =>
    let x := s.seq.getX
    s.plainWord 1 d (x a)

/-- ADDI (R136). -/
def execAddi (d a : RegNum) (i : BitVec 12) (s : State) : Host.Outcome State Fault Refusal :=
  issue (.addi d a i) s fun s =>
    let x := s.seq.getX
    s.intWord 1 d (· + ·) (x a) (immS i)

/-- ANDI (R136). -/
def execAndi (d a : RegNum) (i : BitVec 12) (s : State) : Host.Outcome State Fault Refusal :=
  issue (.andi d a i) s fun s =>
    let x := s.seq.getX
    s.plainWord 1 d (x a &&& immS i)

/-- ORI (R136). -/
def execOri (d a : RegNum) (i : BitVec 12) (s : State) : Host.Outcome State Fault Refusal :=
  issue (.ori d a i) s fun s =>
    let x := s.seq.getX
    s.plainWord 1 d (x a ||| immZ i)

/-- XORI (R136). -/
def execXori (d a : RegNum) (i : BitVec 12) (s : State) : Host.Outcome State Fault Refusal :=
  issue (.xori d a i) s fun s =>
    let x := s.seq.getX
    s.plainWord 1 d (x a ^^^ immZ i)

/-- SHLI (R136). -/
def execShli (d a : RegNum) (k : Fin 64) (s : State) : Host.Outcome State Fault Refusal :=
  issue (.shli d a k) s fun s =>
    let x := s.seq.getX
    s.plainWord 1 d (x a <<< k.val)

/-- SHRI (R136). -/
def execShri (d a : RegNum) (k : Fin 64) (s : State) : Host.Outcome State Fault Refusal :=
  issue (.shri d a k) s fun s =>
    let x := s.seq.getX
    s.plainWord 1 d (x a >>> k.val)

/-- SARI (R136). -/
def execSari (d a : RegNum) (k : Fin 64) (s : State) : Host.Outcome State Fault Refusal :=
  issue (.sari d a k) s fun s =>
    let x := s.seq.getX
    s.plainWord 1 d ((x a).sshiftRight k.val)

/-- MULI (R136). -/
def execMuli (d a : RegNum) (i : BitVec 12) (s : State) : Host.Outcome State Fault Refusal :=
  issue (.muli d a i) s fun s =>
    let x := s.seq.getX
    s.intWord 3 d (· * ·) (x a) (immS i)

/-- MINI (R136), signed. -/
def execMini (d a : RegNum) (i : BitVec 12) (s : State) : Host.Outcome State Fault Refusal :=
  issue (.mini d a i) s fun s =>
    let x := s.seq.getX
    s.plainWord 1 d (if (immS i).toInt < (x a).toInt then immS i else x a)

/-- MAXI (R136), signed. -/
def execMaxi (d a : RegNum) (i : BitVec 12) (s : State) : Host.Outcome State Fault Refusal :=
  issue (.maxi d a i) s fun s =>
    let x := s.seq.getX
    s.plainWord 1 d (if (x a).toInt < (immS i).toInt then immS i else x a)

/-- LI (R136). -/
def execLi (d : RegNum) (i : BitVec 18) (s : State) : Host.Outcome State Fault Refusal :=
  issue (.li d i) s fun s => s.plainWord 1 d (i.signExtend 64)

/-- LISH (R136): XD shifted left by 18, with 18 new bits. -/
def execLish (d : RegNum) (i : BitVec 18) (s : State) : Host.Outcome State Fault Refusal :=
  issue (.lish d i) s fun s => s.plainWord 1 d ((s.seq.getX d <<< 18) ||| i.setWidth 64)

end Sys2Proof.Machine
end

