-- ==== Sys2Proof/Machine/System.lean ====
section
/-! DEFINITION. The modifier word and the class 7 system words (R83, R113, R346, R348, R350, R359, R360, R372, R373). -/

namespace Sys2Proof.Machine

/-- MODIFIER (R113, R114): it applies to the next word of its group. One that a group does not allow raises ILLEGAL_OPCODE at the
group's check; by itself it only waits for its word. -/
def execModifier (m : Modifier) (s : State) : Host.Outcome State Fault Refusal :=
  .next (s.modSeq fun q => { q with mod := some m })

/-! ## Control registers (R78, R82, R83) -/

/-- A control register as the sequencer at work reads it (R78). -/
def State.readCr (s : State) (n : Nat) : Word := s.cur.crWord s.side n

/-- The control registers whose reads a recording logs: CYCLE, the ring PCs and the write pointers (R394). -/
def loggedCr (n : Nat) : Bool := n = 0x11 || (0x13 ≤ n && n ≤ 0x17)

/-- RDCR (R83), with latency 1. -/
def execRdcr (d : RegNum) (c : Fin 128) (s : State) : Host.Outcome State Fault Refusal :=
  issue (.rdcr d c) s fun s =>
    let r := if loggedCr c.val then s.loggedRead s.focus (s.readCr c.val) else (s, s.readCr c.val)
    r.1.xResult 1 d r.2 Flg.none

/-- WRCR (R83): in effect for the groups after its own. -/
def execWrcr (a : RegNum) (c : Fin 128) (s : State) : Host.Outcome State Fault Refusal :=
  issue (.wrcr a c) s fun s => s.result 1 (.cr c.val) (s.seq.getX a) Flg.none

/-! ## Traps and the end of a row group -/

/-- TRAP (R346): raises SOFTWARE. -/
def execTrap (n : BitVec 16) (s : State) : Host.Outcome State Fault Refusal :=
  issue (.trap n) s fun s =>
    s.takeTrap { cause := .software, pc := s.seq.grpStart, word := s.seq.idx, detail := n.setWidth 32, shape := false } s.seq.pc

/-- BKPT (R340, R346): raises BREAKPOINT. -/
def execBkpt (n : BitVec 16) (s : State) : Host.Outcome State Fault Refusal :=
  issue (.bkpt n) s fun s =>
    s.takeTrap { cause := .breakpoint, pc := s.seq.grpStart, word := s.seq.idx, detail := n.setWidth 32, shape := false } s.seq.pc

/-- RETT (R346). -/
def execRett (s : State) : Host.Outcome State Fault Refusal := issue .rett s fun s => s.returnFromTrap

/-- TERMG (R346): in handler mode it records the cause, PC and DETAIL being handled, and outside it SOFTWARE. -/
def execTermg (s : State) : Host.Outcome State Fault Refusal :=
  issue .termg s fun s =>
    let g := s.g
    let rec? : Word :=
      if g.handler.isSome then
        termRecord g.trapCause.toNat .xs false (BitVec.ofNat 32 (fld g.trapInfo.toNat 48 16)) (g.trapInfo.setWidth 32)
      else termRecord Cause.software.code .xs false s.seq.grpStart 0
    s.countIssued.terminate s.focus rec?

/-- EXIT (R372, R373). -/
def execExit (s : State) : Host.Outcome State Fault Refusal :=
  issue .exit s fun s =>
    if s.side = .xs && s.g.held ≠ 0 then
      s.countIssued.terminate s.focus (termRecord Cause.bankLeak.code .xs false s.seq.grpStart (BitVec.ofNat 32 s.g.held))
    else s.modSeq fun q => { q with exited := true }

/-- Has a core a free save frame (R360, R362). -/
def State.frameFree (s : State) (c : CoreId) : Bool :=
  (s.savePool[dieOf c]).isSome && (s.saved.filter fun f => f.core = c).length < 4

/-- YIELD (R360, R361). -/
def execYield (s : State) : Host.Outcome State Fault Refusal :=
  issue .yield s fun s =>
    if !s.anyLive s.focus then s.endGroup s.focus .yielded 0 0xFFFF
    else if s.frameFree s.focus then s.modCore fun k => { k with haltReq := some (k.haltReq.getD .yield) }
    else s.modCore fun k => { k with refusedYields := k.refusedYields + 1 }

/-- CTXSW (R359): a pending halt request is taken at the boundary after this group, which is where every halt is taken. -/
def execCtxsw (s : State) : Host.Outcome State Fault Refusal := issue .ctxsw s fun s => s

/-- The two words of FRQPOP for the head of the store-fault queue (R350). -/
def faultWords (g : Group) : Word × Word :=
  let lost := if g.faultLost then 2 ^ 62 else 0
  match g.faultQ with
  | [] => (0, BitVec.ofNat 64 lost)
  | r :: _ =>
    (r.addr, BitVec.ofNat 64
      (2 ^ 63 + lost + (if r.vec then 2 ^ 61 else 0) + r.blk % 8 * 2 ^ 58 + r.cause % 256 * 2 ^ 48 + r.pc.toNat % 65536 * 2 ^ 32
        + r.grp % 2 ^ 32))

/-- FRQPOP (R350), with latency 1. -/
def execFrqpop (d : RegNum) (s : State) : Host.Outcome State Fault Refusal :=
  issue (.frqpop d) s fun s =>
    let w := faultWords s.g
    let s := s.modG fun g => { g with faultQ := g.faultQ.drop 1, faultLost := false }
    (s.xResult 1 d w.1 Flg.none).xResult 1 (d + 1) w.2 Flg.none

/-- ROWMASK (R348). -/
def execRowmask (a : RegNum) (s : State) : Host.Outcome State Fault Refusal :=
  issue (.rowmask a) s fun s =>
    let v := (s.seq.getX a).toNat
    s.rowTrap s.focus (fld v 32 10) (fld v 56 8) 0 0 (fld v 16 16) 0

end Sys2Proof.Machine
end

