-- ==== Sys2Proof/Machine/Special.lean ====
section
/-! DEFINITION. The special functions of R195 on exact values: EXP, EXP2, LOG2, RCP, RSQ, SQRT, TANH, SIGM and ERF.

RCP, RSQ and SQRT are exact up to a sticky mark. The transcendental functions are computed in fixed point with `fb` fraction
bits, truncated, and marked sticky: R195 asks for the correctly rounded value, and 320 bits decide every rounding of an operand
of at most 24 bits unless a value lies within 2^-280 of a rounding boundary (log entry 12). -/

namespace Sys2Proof.Machine

/-- The fraction bits of the fixed-point values below. -/
def fb : Nat := 320

/-- One, in fixed point. -/
def fone : Nat := 2 ^ fb

/-- The fixed-point product, truncated. -/
def fmulF (a b : Nat) : Nat := (a * b) >>> fb

/-- The sum of the series t, t·r/1, t·r²/2, … with the k-th term divided by `d k`, over `fuel` terms. -/
def expSeries (r : Nat) : Nat → Nat → Nat → Nat
  | 0, _, _ => 0
  | fuel + 1, k, t => t + expSeries r fuel (k + 1) (fmulF t r / (k + 1))

/-- e^r for a fixed-point r below 1. -/
def expFix (r : Nat) : Nat := expSeries r 90 0 fone

/-- The sum of z^(2k+1) / (2k+1), where `t` is the current power of z and `z2` is z². -/
def atanhSeries (z2 : Nat) : Nat → Nat → Nat → Nat
  | 0, _, _ => 0
  | fuel + 1, k, t => t / (2 * k + 1) + atanhSeries z2 fuel (k + 1) (fmulF t z2)

/-- The natural logarithm of a fixed-point f from 1 to 2: 2 artanh((f − 1)/(f + 1)). -/
def lnFix (f : Nat) : Nat :=
  let z := ((f - fone) <<< fb) / (f + fone)
  2 * atanhSeries (fmulF z z) 110 0 z

/-- ln 2 in fixed point. -/
def ln2Fix : Nat := lnFix (2 * fone)

/-- π by Machin's formula, in fixed point: one arctangent series of 1/x. -/
def arctanInv (x : Nat) : Nat → Nat → Nat → Nat
  | 0, _, _ => 0
  | fuel + 1, k, t => t / (2 * k + 1) - arctanInv x fuel (k + 1) (t / (x * x))

/-- π in fixed point. -/
def piFix : Nat := 4 * (4 * arctanInv 5 80 0 (fone / 5) - arctanInv 239 30 0 (fone / 239))

/-- The integer square root of `n`, one bit at a time from bit `k` − 1 down. -/
def isqrtBits (n : Nat) : Nat → Nat → Nat
  | 0, r => r
  | k + 1, r => if (r + 2 ^ k) * (r + 2 ^ k) ≤ n then isqrtBits n k (r + 2 ^ k) else isqrtBits n k r

/-- The integer square root of `n`. -/
def isqrt (n : Nat) : Nat := isqrtBits n (Nat.log2 n / 2 + 1) 0

/-- A value slightly less in magnitude than m × 2^e. -/
def justBelow (neg : Bool) (m : Nat) (e : Int) : Val := .fin neg (m * 2 ^ 300 - 1) (e - 300) true

/-- A positive real of a sign, in fixed point times 2^k, known to be inexact. -/
def approx (neg : Bool) (n : Nat) (k : Int) : Val := .fin neg n (k - (fb : Int)) true

/-- A real larger than every finite value of any type, or smaller than every non-zero one. -/
def hugeVal : Val := .fin false 1 70000 true

/-- A positive real below every non-zero value of any type. -/
def tinyVal : Val := .fin false 1 (-70000) true

/-- The fixed-point magnitude of m × 2^e, truncated. -/
def toFix (m : Nat) (e : Int) : Nat :=
  let k := e + (fb : Int)
  if 0 ≤ k then m <<< k.toNat else m >>> (-k).toNat

/-- e^x for x = (-1)^neg × X in fixed point: the pair (mantissa in fixed point, exponent). -/
def expPair (neg : Bool) (x : Nat) : Nat × Int :=
  let k := x / ln2Fix
  let r := x % ln2Fix
  if neg then
    (if r = 0 then (fone, -(k : Int)) else (expFix (ln2Fix - r), -(k : Int) - 1))
  else (expFix r, (k : Int))

/-- EXP (R195). -/
def fnExp (v : Val) : Val × Flags :=
  match v with
  | .nan s => (.nan s, flagIf s Flg.iv)
  | .inf n => (if n then .zero false else .inf false, Flg.none)
  | .fin n m e _ =>
    if m = 0 then (.ofInt 1, Flg.none)
    else if Val.floorLog m e ≥ 20 then (if n then tinyVal else hugeVal, Flg.none)
    else
      let (p, k) := expPair n (toFix m e)
      (approx false p k, Flg.none)

/-- EXP2 (R195): exact at an integer. -/
def fnExp2 (v : Val) : Val × Flags :=
  match v with
  | .nan s => (.nan s, flagIf s Flg.iv)
  | .inf n => (if n then .zero false else .inf false, Flg.none)
  | .fin n m e _ =>
    if m = 0 then (.ofInt 1, Flg.none)
    else if Val.floorLog m e ≥ 20 then (if n then tinyVal else hugeVal, Flg.none)
    else
      let x := toFix m e
      let k := x / fone
      let f := x % fone
      if f = 0 then (.fin false 1 (if n then -(k : Int) else (k : Int)) false, Flg.none)
      else if n then (approx false (expFix (fmulF (fone - f) ln2Fix)) (-(k : Int) - 1), Flg.none)
      else (approx false (expFix (fmulF f ln2Fix)) (k : Int), Flg.none)

/-- LOG2 (R195): exact at a power of two. -/
def fnLog2 (v : Val) : Val × Flags :=
  match v with
  | .nan s => (.nan s, flagIf s Flg.iv)
  | .inf n => if n then (.nan false, Flg.iv) else (.inf false, Flg.none)
  | .fin n m e _ =>
    if m = 0 then (.inf true, Flg.dz)
    else if n then (.nan false, Flg.iv)
    else
      let l := Nat.log2 m
      if m = 2 ^ l then (.ofInt ((l : Int) + e), Flg.none)
      else
        let frac := (lnFix ((m <<< fb) / 2 ^ l) <<< fb) / ln2Fix
        let t : Int := ((l : Int) + e) * (fone : Int) + (frac : Int)
        (approx (decide (t < 0)) t.natAbs 0, Flg.none)

/-- RCP (R195): exact at a power of two. -/
def fnRcp (v : Val) : Val × Flags :=
  match v with
  | .nan s => (.nan s, flagIf s Flg.iv)
  | .inf n => (.zero n, Flg.none)
  | .fin n m e _ =>
    if m = 0 then (.inf n, Flg.dz)
    else (.fin n (fone / m) (-e - (fb : Int)) (fone % m != 0), Flg.none)

/-- SQRT (R195): exact at a square. -/
def fnSqrt (v : Val) : Val × Flags :=
  match v with
  | .nan s => (.nan s, flagIf s Flg.iv)
  | .inf n => if n then (.nan false, Flg.iv) else (.inf false, Flg.none)
  | .fin n m e _ =>
    if m = 0 then (.zero n, Flg.none)
    else if n then (.nan false, Flg.iv)
    else
      let e' := if e % 2 = 0 then e - 2 * 128 else e - 1 - 2 * 128
      let m' := m <<< (e - e').toNat
      let r := isqrt m'
      (.fin false r (e' / 2) (r * r != m'), Flg.none)

/-- RSQ (R195). -/
def fnRsq (v : Val) : Val × Flags :=
  match v with
  | .nan s => (.nan s, flagIf s Flg.iv)
  | .inf n => if n then (.nan false, Flg.iv) else (.zero false, Flg.none)
  | .fin n m e _ =>
    if m = 0 then (.inf n, Flg.dz)
    else if n then (.nan false, Flg.iv)
    else
      let e' := if e % 2 = 0 then e else e - 1
      let m' := m <<< (e - e').toNat
      let r := isqrt (2 ^ (2 * fb) / m')
      (.fin false r (-(e' / 2) - (fb : Int)) (r * r * m' != 2 ^ (2 * fb)), Flg.none)

/-- TANH (R195): x − x³/3 + … for a small operand, (e^2x − 1)/(e^2x + 1) otherwise. -/
def fnTanh (v : Val) : Val × Flags :=
  match v with
  | .nan s => (.nan s, flagIf s Flg.iv)
  | .inf n => (.ofInt (if n then -1 else 1), Flg.none)
  | .fin n m e _ =>
    if m = 0 then (.zero n, Flg.none)
    else if Val.floorLog m e < -40 then (justBelow n m e, Flg.none)
    else if Val.floorLog m e ≥ 6 then (justBelow n 1 0, Flg.none)
    else
      let (p, k) := expPair false (toFix m (e + 1))
      let big := p <<< k.toNat
      (approx n (((big - fone) <<< fb) / (big + fone)) 0, Flg.none)

/-- SIGM (R195): 1 / (1 + e^−a). -/
def fnSigm (v : Val) : Val × Flags :=
  match v with
  | .nan s => (.nan s, flagIf s Flg.iv)
  | .inf n => (if n then .zero false else .ofInt 1, Flg.none)
  | .fin n m e _ =>
    if m = 0 then (.fin false 1 (-1) false, Flg.none)
    else if Val.floorLog m e ≥ 20 then (if n then tinyVal else justBelow false 1 0, Flg.none)
    else if Val.floorLog m e < -200 then
      (if n then justBelow false 1 (-1) else .fin false (2 ^ 299 + 1) (-300) true, Flg.none)
    else
      let (p, k) := expPair (!n) (toFix m e)
      if 0 ≤ k then
        let d := fone + p <<< k.toNat
        (approx false ((fone <<< (fb + k.toNat)) / d) (-k), Flg.none)
      else if Val.floorLog m e ≥ 7 then (justBelow false 1 0, Flg.none)
      else (approx false ((fone <<< fb) / (fone + p >>> (-k).toNat)) 0, Flg.none)

/-- The terms t_k = t_(k−1) × 2x² / (2k + 1) of the series of erf. -/
def erfSeries (x2 : Nat) : Nat → Nat → Nat → Nat
  | 0, _, _ => 0
  | fuel + 1, k, t => t + erfSeries x2 fuel (k + 1) (fmulF t (2 * x2) / (2 * k + 3))

/-- ERF (R195): 2/√π × x × e^(−x²) × Σ (2x²)^k / (1 · 3 ⋯ (2k + 1)). -/
def fnErf (v : Val) : Val × Flags :=
  match v with
  | .nan s => (.nan s, flagIf s Flg.iv)
  | .inf n => (.ofInt (if n then -1 else 1), Flg.none)
  | .fin n m e _ =>
    if m = 0 then (.zero n, Flg.none)
    else if Val.floorLog m e ≥ 3 then (justBelow n 1 0, Flg.none)
    else
      let x := toFix m e
      let x2 := fmulF x x
      let (p, k) := expPair true x2
      let s := fmulF (erfSeries x2 400 0 fone) p >>> (-k).toNat
      let c := (2 * fone * fone) / isqrt (piFix * fone)
      (.fin n (fmulF s c * m) (e - (fb : Int)) true, Flg.none)

end Sys2Proof.Machine
end

