-- ==== Sys2Proof/Machine/Vector.lean ====
section
/-! DEFINITION. Class 4 and 5 words on the XS (R182 to R201): elements and rows, the element-wise words, bits and fields, compares,
generated values and lookup, special functions, conversions, reductions and scans, VQUANT and VDEQ. VTAP is in VecMem. -/

namespace Sys2Proof.Machine

/-! ## Rows (R182 to R186) -/

/-- The elements of a row for a type that governs a word (R182). -/
def rowElems (g : Group) (t : NumTy) : Nat := shpLanes g.shp * t.perLane

/-- The code of element `e` of row `i` of an operand, in the layout of a type (R163, R182). -/
def elemCode (g : Group) (v : VOp) (t : NumTy) (i e : Nat) : Nat := subElem t.slot (e % t.perLane) (vLane g v i (e / t.perLane))

/-- The codes of the first `n` elements of a row. -/
def rowCodes (g : Group) (v : VOp) (t : NumTy) (i n : Nat) : List Nat := (List.range n).map (elemCode g v t i)

/-- A row's codes as lanes; lanes without an element are zero (R163, R196). -/
def packRow (g : Group) (t : NumTy) (codes : List Nat) : List Lane :=
  (List.range (shpLanes g.shp)).map fun j => packLane t.slot ((codes.drop (j * t.perLane)).take t.perLane)

/-- The lanes of a row of an operand. -/
def rowLanes (g : Group) (v : VOp) (i : Nat) : List Lane := (List.range (shpLanes g.shp)).map (vLane g v i)

/-- Operand A of an arithmetic word (R184). -/
def vecA (c : NumCtl) (t : NumTy) (code : Nat) : Val := applySign t c.mod.absA c.mod.negA (decodeNum t c.fza code)

/-- Operand B of an arithmetic word (R184). -/
def vecB (c : NumCtl) (t : NumTy) (code : Nat) : Val := applySign t c.mod.absB c.mod.negB (decodeNum t c.fzb code)

/-- A finished element, with the flag of an invalid operation beside those of the finish (R184). -/
def vecFinish (c : NumCtl) (e d : NumTy) (v : Val) (invalid : Bool) : Nat × Flags :=
  let r := finishNum c e.isFlt d v
  (r.1, flagIf invalid Flg.iv ||| r.2)

/-- The register as an operand without a direction. -/
def plainOp (r : RegNum) : VOp := { dir := .plain, reg := r }

/-- One row of a result: the lanes of each register written, by physical number, and the row's flags. -/
structure RowOut where
  regs : List (Nat × List Lane)
  flags : Flags
  deriving DecidableEq, Repr

/-- The lanes that a row writes. -/
def RowOut.writes (r : RowOut) (i : Nat) : List LaneWrite :=
  r.regs.flatMap fun x =>
    ((List.range x.2.length).zip x.2).map fun l => { key := laneKey x.1 i l.1, mask := 0xFFFFFFFF#32, val := l.2 }

/-- The rows of a result made pending, one row-block after the other or all at once (R86, R185). -/
def State.tileResult (s : State) (lat : Nat) (step : Bool) (rows : List RowOut) : State :=
  (List.range (rowBlocks rows.length)).foldl (fun s b =>
    let blk := (rows.drop (8 * b)).take 8
    let writes := ((List.range blk.length).zip blk).flatMap fun r => r.2.writes (8 * b + r.1)
    s.result (lat + (if step then b else 0)) (.v writes) 0 (blk.foldl (fun f r => f ||| r.flags) 0)) s

/-- The rows of a result, one for each row of the shape. -/
def tileRows (g : Group) (f : Nat → RowOut) : List RowOut := (List.range (shpRows g.shp)).map f

/-- A row for one register. -/
def rowTo (g : Group) (d : RegNum) (lanes : List Lane) (fl : Flags) : RowOut := { regs := [(g.physV d, lanes)], flags := fl }

/-- A row of finished elements for one register. -/
def rowOfElems (g : Group) (d : RegNum) (t : NumTy) (es : List (Nat × Flags)) : RowOut :=
  rowTo g d (packRow g t (es.map Prod.fst)) (es.foldl (fun f e => f ||| e.2) 0)

/-! ## Element-wise arithmetic (R187, R188) -/

/-- An element-wise arithmetic word: `f` gives the value of an element from A, B and the old destination, and whether the operation
is invalid. -/
def State.arithWord (s : State) (lat : Nat) (d : RegNum) (a b : VOp) (f : NumCtl → Val → Val → Val → Val × Bool) : State :=
  let g := s.g
  let c := s.numCtl
  let et := shpEty g.shp
  let dt := shpDty g.shp
  s.tileResult lat true (tileRows g fun i =>
    rowOfElems g d dt ((List.range (rowElems g et)).map fun e =>
      let z := decodeNum dt c.fzc (elemCode g (plainOp d) dt i e)
      let r := f c (vecA c et (elemCode g a et i e)) (vecB c et (elemCode g b et i e)) z
      vecFinish c et dt r.1 r.2))

/-- a + b (R187). -/
def vecAdd (c : NumCtl) (a b _z : Val) : Val × Bool := (Val.add c.rm a b, addInvalid a b)

/-- a − b (R187). -/
def vecSub (c : NumCtl) (a b _z : Val) : Val × Bool := (Val.add c.rm a b.neg, addInvalid a b.neg)

/-- a × b (R187). -/
def vecMul (_c : NumCtl) (a b _z : Val) : Val × Bool := (Val.mul a b, mulInvalid a b)

/-- a × b + c (R188). -/
def vecFma (c : NumCtl) (a b z : Val) : Val × Bool :=
  (Val.add c.rm (Val.mul a b) z, mulInvalid a b || addInvalid (Val.mul a b) z)

/-- a × b − c (R188). -/
def vecFms (c : NumCtl) (a b z : Val) : Val × Bool := vecFma c a b z.neg

/-- The lesser (R187). -/
def vecMin (_c : NumCtl) (a b _z : Val) : Val × Bool := (Val.minNum a b, a.isSig || b.isSig)

/-- The greater (R187). -/
def vecMax (_c : NumCtl) (a b _z : Val) : Val × Bool := (Val.maxNum a b, a.isSig || b.isSig)

/-- |a − b| (R187). -/
def vecAbsd (c : NumCtl) (a b _z : Val) : Val × Bool := ((Val.add c.rm a b.neg).abs, addInvalid a b.neg)

/-- NEG or ABS of an element (R187): with equal floating types the sign alone changes, without a flag; otherwise the value is
converted with its flags. -/
def signElem (c : NumCtl) (e d : NumTy) (f : Val → Val) (code : Nat) : Nat × Flags :=
  let x := f (decodeNum e c.fza code)
  if e.isFlt && e = d then ((finishNum NumCtl.plain true d x).1, Flg.none) else vecFinish c e d x x.isSig

/-- A word of NEG or ABS. -/
def State.signWord (s : State) (d : RegNum) (a : VOp) (f : Val → Val) : State :=
  let g := s.g
  let et := shpEty g.shp
  let dt := shpDty g.shp
  s.tileResult 2 true (tileRows g fun i =>
    rowOfElems g d dt ((rowCodes g a et i (rowElems g et)).map (signElem s.numCtl et dt f)))

/-! ## Raw, bit and field words (R189 to R191) -/

/-- A word on 32-bit lanes of A, B and the old destination. -/
def State.laneWord (s : State) (d : RegNum) (a b : VOp) (f : Lane → Lane → Lane → Lane) : State :=
  let g := s.g
  s.tileResult 2 true (tileRows g fun i =>
    rowTo g d ((List.range (shpLanes g.shp)).map fun j => f (vLane g a i j) (vLane g b i j) (vLane g (plainOp d) i j)) 0)

/-- A word on bit strings of w(ETYPE) bits: `f` takes the width, A, B and the old destination. -/
def State.bitWord (s : State) (d : RegNum) (a b : VOp) (f : Nat → Nat → Nat → Nat → Nat) : State :=
  let g := s.g
  let et := shpEty g.shp
  s.tileResult 2 true (tileRows g fun i =>
    rowTo g d (packRow g et ((List.range (rowElems g et)).map fun e =>
      f et.slot (elemCode g a et i e) (elemCode g b et i e) (elemCode g (plainOp d) et i e))) 0)

/-- A shift left in `w` bits; a count of `w` or more gives 0 (R190). -/
def bitShl (w a k _d : Nat) : Nat := if w ≤ k then 0 else a * 2 ^ k % 2 ^ w

/-- A logical shift right in `w` bits (R190). -/
def bitShr (w a k _d : Nat) : Nat := if w ≤ k then 0 else a / 2 ^ k

/-- An arithmetic shift right in `w` bits (R190). -/
def bitSar (w a k _d : Nat) : Nat := wrapInt w (sext w a / (2 : Int) ^ (if w ≤ k then w else k))

/-- VFSH (R190). -/
def bitFsh (w a b d : Nat) : Nat :=
  let k := b % w
  if k = 0 then d else (d * 2 ^ k + a / 2 ^ (w - k)) % 2 ^ w

/-- The leading zero bits of `a` in `w` bits (R190). -/
def bitClz (w a _b _d : Nat) : Nat := if a = 0 then w else w - 1 - Nat.log2 a

/-- The one bits of `a` (R190). -/
def bitPopc (w a _b _d : Nat) : Nat := ((List.range w).filter fun k => bit a k).length

/-- VBFX on a lane (R191). -/
def laneBfx (signed : Bool) (a b : Lane) : Lane :=
  let p := fld b.toNat 0 6
  let l0 := fld b.toNat 8 6
  let l := if l0 = 0 || 32 < l0 then 32 else l0
  let f := a.toNat / 2 ^ p % 2 ^ l
  if signed then BitVec.ofInt 32 (sext l f) else BitVec.ofNat 32 f

/-! ## Compares (R192) -/

/-- A compare word: a mask of the slot's width for each element, and IV. -/
def State.compareTile (s : State) (d : RegNum) (a b : VOp) (quiet : Bool) (rel : Val → Val → Bool) : State :=
  let g := s.g
  let c := s.numCtl
  let et := shpEty g.shp
  s.tileResult 2 true (tileRows g fun i =>
    rowOfElems g d et ((List.range (rowElems g et)).map fun e =>
      let x := decodeNum et c.fza (elemCode g a et i e)
      let y := decodeNum et c.fzb (elemCode g b et i e)
      let iv := if quiet then x.isSig || y.isSig else x.isNan || y.isNan
      (if rel x y then 2 ^ et.slot - 1 else 0, flagIf iv Flg.iv)))

/-! ## Special functions and conversions (R195 to R197) -/

/-- A special sub-op: Finish applied to the exact function value (R195). -/
def State.specialWord (s : State) (d : RegNum) (a : VOp) (f : Val → Val × Flags) : State :=
  let g := s.g
  let c := s.numCtl
  let et := shpEty g.shp
  let dt := shpDty g.shp
  s.tileResult 12 true (tileRows g fun i =>
    rowOfElems g d dt ((rowCodes g a et i (rowElems g et)).map fun code =>
      let v := f (vecA c et code)
      let r := finishNum c true dt v.1
      (r.1, v.2 ||| r.2)))

/-- One converted element (R171, R196). -/
def cvtElem (c : NumCtl) (e d : NumTy) (code : Nat) : Nat × Flags :=
  let x := vecA c e code
  vecFinish c e d x x.isSig

/-! ## Reductions and scans (R178 to R180, R198, R199) -/

/-- A value of a reduction, with the flags that making it raised and whether an infinite operand went into it (R159, rule 2). -/
structure RedVal where
  val : Val
  flags : Flags
  infinite : Bool
  deriving DecidableEq, Repr

/-- A rounded addition of a reduction (R179): finished by FloatFinish for the floating type, without SCALE, CLAMP, SAT or the rules of
R159, which are for the final value. For an integer DTYPE R179 names no finish: the model converts the sum to DTYPE at each step (log
entry 22; DESIGN CHOICE). -/
def redStep (c : NumCtl) (e d : NumTy) (v : Val) : Val × Flags :=
  match d, v with
  | .flt _, .nan _ => (.nan false, Flg.none)
  | .flt f, _ =>
    let r := floatRound { c with mod := OpMod.plain } f v
    (r.1.val, r.2)
  | _, _ =>
    let r := vecFinish { c with mod := OpMod.plain } e d v false
    (decodeNum d false r.1, r.2)

/-- The combining operation ⊕ of a reduction on ETYPE values (R179, R198). -/
def redOp (c : NumCtl) (e d : NumTy) (o : RedOp) (a b : RedVal) : RedVal :=
  let fl := a.flags ||| b.flags
  let inf := a.infinite || b.infinite
  let sig := flagIf (a.val.isSig || b.val.isSig) Flg.iv
  match o with
  | .min => { val := Val.minNum a.val b.val, flags := fl ||| sig, infinite := inf }
  | .max => { val := Val.maxNum a.val b.val, flags := fl ||| sig, infinite := inf }
  | _ =>
    let v := Val.add c.rm a.val b.val
    if e.isFlt then
      let r := redStep c e d v
      { val := r.1, flags := fl ||| flagIf (addInvalid a.val b.val) Flg.iv ||| r.2, infinite := inf }
    else { val := v, flags := fl, infinite := inf }

/-- Does an infinity that rounding has made reach the end of a reduction into a type without infinities: its code is the NaN, and it
sets no flag more (R159, rule 2). -/
def RedVal.overflowed (v : RedVal) (sat : Bool) (d : NumTy) : Bool :=
  match d, v.val with
  | .flt (.b8 _ _ i), .inf _ => !i && !sat && !v.infinite
  | _, _ => false

/-- The final value of a reduction: SCALE, CLAMP and SAT apply, and for binary8 the rules of R159 (R179, R198). -/
def redFinish (c : NumCtl) (e d : NumTy) (v : RedVal) : Nat × Flags :=
  let r := vecFinish c e d v.val v.val.isSig
  (r.1, v.flags ||| (if v.overflowed c.mod.sat d then Flg.none else r.2))

/-- The bitwise operation of a reduction. -/
def redBits (o : RedOp) (a b : Nat) : Nat :=
  match o with
  | .and => a &&& b
  | .or => a ||| b
  | _ => a ^^^ b

/-- Is the operation of a reduction bitwise. -/
def isBitwise : RedOp → Bool
  | .and | .or | .xor => true
  | _ => false

/-- A list of codes reduced or scanned: Tree gives one value to every place, a scan gives each place its own (R178, R180). -/
def combineCodes (c : NumCtl) (e d : NumTy) (o : RedOp) (scan : Bool) (codes : List Nat) : List (Nat × Flags) :=
  let spread : {α : Type} → (α → α → α) → α → List α → List α := fun op z l =>
    if scan then scanFold op 16 1 l else List.replicate l.length (treeFold op z 16 l)
  if isBitwise o then (spread (redBits o) 0 codes).map fun v => (v, Flg.none)
  else
    let leaves : List RedVal := codes.map fun k =>
      let x := vecA c e k
      { val := x, flags := Flg.none, infinite := x.isInf }
    (spread (redOp c e d o) { val := .zero false, flags := Flg.none, infinite := false } leaves).map (redFinish c e d)

/-- VRED and VSCAN (R198, R199). -/
def State.reduceWord (s : State) (d : RegNum) (a : VOp) (x : Axis) (o : RedOp) (scan : Bool) : State :=
  let g := s.g
  let c := s.numCtl
  let et := shpEty g.shp
  let dt := shpDty g.shp
  let n := rowElems g et
  match x with
  | .lanes =>
    s.tileResult 6 true (tileRows g fun i => rowOfElems g d dt (combineCodes c et dt o scan (rowCodes g a et i n)))
  | .rows =>
    let cols := (List.range n).map fun e =>
      combineCodes c et dt o scan ((List.range (shpRows g.shp)).map fun i => elemCode g a et i e)
    s.tileResult (6 + rowBlocks (shpRows g.shp)) false (tileRows g fun i =>
      rowOfElems g d dt (cols.map fun col => col.getD i (0, 0)))

/-! ## Quantise and dequantise (R165 to R167, R200, R201) -/

/-- The range of the exponents of the non-zero finite elements (R167). -/
def expRange (l : List Val) : Int :=
  let es := l.filterMap fun v =>
    match v with
    | .fin _ m e _ => if m = 0 then none else some (Val.floorLog m e)
    | _ => none
  match es with
  | [] => 0
  | e :: rest => rest.foldl max e - rest.foldl min e

/-- Blocks of R167: the block being filled, and the elements still to come. -/
def vbsBlocks (t : Int) : List Val → List Val → List (List Val)
  | cur, [] => [cur]
  | cur, x :: rest =>
    if cur.length = 256 || (8 ≤ cur.length && t < expRange (cur ++ [x])) then cur :: vbsBlocks t [x] rest
    else vbsBlocks t (cur ++ [x]) rest

/-- The exact quotient of a value by the value of an S9 code (R164, R167). -/
def divS9 (v : Val) (code : Nat) : Val :=
  match v with
  | .fin n m e st =>
    let k : Int := (code / 2 : Nat) - 127 - 1
    if code % 2 = 0 then .fin n m (e - k - 1) st
    else .fin n ((m <<< 96) / 3) (e - 96 - k) (st || (m <<< 96) % 3 != 0)
  | v => v

/-- QuantBlock of R167: the scale, the codes and the flags. -/
def quantBlock (c : NumCtl) (d : NumTy) (xs : List Val) : Nat × List Nat × Flags :=
  if xs.any Val.isSpecial then (0x1FF, xs.map fun _ => 0, Flg.iv)
  else
    let a := xs.foldl (fun (m : Val) x => if Val.lt m x.abs then x.abs else m) (Val.zero false)
    if a.isZero then (0x0FE, xs.map fun _ => 0, Flg.none)
    else
      let k := s9For a d
      let ctl : NumCtl := { NumCtl.plain with rm := c.rm, mod := { OpMod.plain with sat := c.mod.sat } }
      let rs := xs.map fun x => finishNum ctl true d (divS9 x k)
      (k, rs.map Prod.fst, rs.foldl (fun f r => f ||| r.2) 0)

/-- A row of VQUANT: its codes, its blocks' lengths and scales, and its flags (R200). -/
def quantRow (c : NumCtl) (e d : NumTy) (t : Int) (codes : List Nat) : List Nat × List (Nat × Nat) × Flags :=
  let xs := codes.map fun k => clampVal c.mod.clamp e.maxVal ((vecA c e k).scale c.mod.scale)
  let bs := match xs with
    | [] => []
    | x :: rest => vbsBlocks t [x] rest
  let qs := bs.map fun b => (b.length, quantBlock c d b)
  (qs.flatMap fun q => q.2.2.1, qs.map fun q => (q.1, q.2.1), qs.foldl (fun f q => f ||| q.2.2.2) 0)

/-- The boundary bits of blocks of given lengths (R165). -/
def boundaryBits : Nat → List (Nat × Nat) → Nat
  | _, [] => 0
  | off, b :: rest => 2 ^ off + boundaryBits (off + b.1) rest

/-- The scale string of blocks (R165). -/
def scaleString (bs : List (Nat × Nat)) : Nat := bs.foldr (fun b acc => acc * 512 + b.2) 0

/-- The lanes of VQUANT's second register (R200). -/
def quantSide (g : Group) (bs : List (Nat × Nat)) : List Lane :=
  let bm := boundaryBits 0 bs
  let sc := scaleString bs
  let l : List Nat := [bm, bm / 2 ^ 32, sc, sc / 2 ^ 32, sc / 2 ^ 64, bs.length]
  (List.range (shpLanes g.shp)).map fun j => BitVec.ofNat 32 (l.getD j 0)

/-- VQUANT's rows; the flags of all rows are set with the last row-block (R200). -/
def quantRows (g : Group) (c : NumCtl) (d : RegNum) (a b : VOp) : List RowOut :=
  let et := shpEty g.shp
  let dt := shpDty g.shp
  let rows := (List.range (shpRows g.shp)).map fun i =>
    quantRow c et dt (vLane g b i 0).toInt (rowCodes g a et i (rowElems g et))
  let fl := rows.foldl (fun f r => f ||| r.2.2) 0
  ((List.range rows.length).zip rows).map fun r =>
    { regs := [(g.physV d, packRow g dt r.2.1), (g.physV (d + 1), quantSide g r.2.2.1)]
      flags := if r.1 + 1 = rows.length then fl else 0 }

/-- The scale of an element from a bitmap and a scale string (R166). A block whose scale lies beyond the 96 bits that R200 gives the string
reads zeros there (log entry 77; DESIGN CHOICE). -/
def scaleAt (bm sc e : Nat) : Nat :=
  let j := ((List.range e).filter fun k => bit bm (k + 1)).length
  fld sc (9 * j) 9

/-- One dequantised element: NaN and IV under a NaN scale (R166, R201). -/
def deqElem (c : NumCtl) (e d : NumTy) (bm sc k code : Nat) : Nat × Flags :=
  let s9 := scaleAt bm sc k
  if s9 = 0x1FF then vecFinish c e d (.nan false) true
  else
    let x := vecA c e code
    vecFinish c e d (match x with
      | .fin .. => Val.mul x (s9Val s9)
      | v => v) false

/-- Rows of which only the first that raises IV keeps it: it is raised once for the word (R166, R201). -/
def ivOnce : List RowOut → List RowOut
  | [] => []
  | r :: rest => if r.flags &&& Flg.iv = 0 then r :: ivOnce rest else r :: rest.map fun x => { x with flags := x.flags &&& ~~~Flg.iv }

/-- VDEQ (R201). -/
def State.deqWord (s : State) (d : RegNum) (a b : VOp) : State :=
  let g := s.g
  let c := s.numCtl
  let et := shpEty g.shp
  let dt := shpDty g.shp
  s.tileResult 4 true (ivOnce (tileRows g fun i =>
    let l : Nat → Nat := fun j => (vLane g b i j).toNat
    let bm := l 0 + l 1 * 2 ^ 32
    let sc := l 2 + l 3 * 2 ^ 32 + l 4 * 2 ^ 64
    rowOfElems g d dt ((List.range (rowElems g dt)).map fun e => deqElem c et dt bm sc e (elemCode g a et i e))))

/-! ## The words -/

/-- VADD (R187). -/
def execVadd (d : RegNum) (a b : VOp) (s : State) : Host.Outcome State Fault Refusal :=
  issue (.vadd d a b) s fun s => s.arithWord 2 d a b vecAdd

/-- VSUB (R187). -/
def execVsub (d : RegNum) (a b : VOp) (s : State) : Host.Outcome State Fault Refusal :=
  issue (.vsub d a b) s fun s => s.arithWord 2 d a b vecSub

/-- VMUL (R187). -/
def execVmul (d : RegNum) (a b : VOp) (s : State) : Host.Outcome State Fault Refusal :=
  issue (.vmul d a b) s fun s => s.arithWord 4 d a b vecMul

/-- VFMA (R188). -/
def execVfma (d : RegNum) (a b : VOp) (s : State) : Host.Outcome State Fault Refusal :=
  issue (.vfma d a b) s fun s => s.arithWord 4 d a b vecFma

/-- VFMS (R188). -/
def execVfms (d : RegNum) (a b : VOp) (s : State) : Host.Outcome State Fault Refusal :=
  issue (.vfms d a b) s fun s => s.arithWord 4 d a b vecFms

/-- VMIN (R187). -/
def execVmin (d : RegNum) (a b : VOp) (s : State) : Host.Outcome State Fault Refusal :=
  issue (.vmin d a b) s fun s => s.arithWord 2 d a b vecMin

/-- VMAX (R187). -/
def execVmax (d : RegNum) (a b : VOp) (s : State) : Host.Outcome State Fault Refusal :=
  issue (.vmax d a b) s fun s => s.arithWord 2 d a b vecMax

/-- VABSD (R187). -/
def execVabsd (d : RegNum) (a b : VOp) (s : State) : Host.Outcome State Fault Refusal :=
  issue (.vabsd d a b) s fun s => s.arithWord 2 d a b vecAbsd

/-- VAND (R189). -/
def execVand (d : RegNum) (a b : VOp) (s : State) : Host.Outcome State Fault Refusal :=
  issue (.vand d a b) s fun s => s.laneWord d a b fun x y _ => x &&& y

/-- VOR (R189). -/
def execVor (d : RegNum) (a b : VOp) (s : State) : Host.Outcome State Fault Refusal :=
  issue (.vor d a b) s fun s => s.laneWord d a b fun x y _ => x ||| y

/-- VXOR (R189). -/
def execVxor (d : RegNum) (a b : VOp) (s : State) : Host.Outcome State Fault Refusal :=
  issue (.vxor d a b) s fun s => s.laneWord d a b fun x y _ => x ^^^ y

/-- VANDN (R189). -/
def execVandn (d : RegNum) (a b : VOp) (s : State) : Host.Outcome State Fault Refusal :=
  issue (.vandn d a b) s fun s => s.laneWord d a b fun x y _ => x &&& ~~~y

/-- VSHL (R190). -/
def execVshl (d : RegNum) (a b : VOp) (s : State) : Host.Outcome State Fault Refusal :=
  issue (.vshl d a b) s fun s => s.bitWord d a b bitShl

/-- VSHR (R190). -/
def execVshr (d : RegNum) (a b : VOp) (s : State) : Host.Outcome State Fault Refusal :=
  issue (.vshr d a b) s fun s => s.bitWord d a b bitShr

/-- VSAR (R190). -/
def execVsar (d : RegNum) (a b : VOp) (s : State) : Host.Outcome State Fault Refusal :=
  issue (.vsar d a b) s fun s => s.bitWord d a b bitSar

/-- VSEL (R189): the bits of A where the old VD has ones, those of B elsewhere. -/
def execVsel (d : RegNum) (a b : VOp) (s : State) : Host.Outcome State Fault Refusal :=
  issue (.vsel d a b) s fun s => s.laneWord d a b fun x y m => (m &&& x) ||| (~~~m &&& y)

/-- VCMPEQ (R192). -/
def execVcmpeq (d : RegNum) (a b : VOp) (s : State) : Host.Outcome State Fault Refusal :=
  issue (.vcmpeq d a b) s fun s => s.compareTile d a b true Val.eqv

/-- VCMPNE (R192). -/
def execVcmpne (d : RegNum) (a b : VOp) (s : State) : Host.Outcome State Fault Refusal :=
  issue (.vcmpne d a b) s fun s => s.compareTile d a b true fun x y => !Val.eqv x y

/-- VCMPLT (R192). -/
def execVcmplt (d : RegNum) (a b : VOp) (s : State) : Host.Outcome State Fault Refusal :=
  issue (.vcmplt d a b) s fun s => s.compareTile d a b false Val.lt

/-- VCMPLE (R192). -/
def execVcmple (d : RegNum) (a b : VOp) (s : State) : Host.Outcome State Fault Refusal :=
  issue (.vcmple d a b) s fun s => s.compareTile d a b false fun x y => Val.lt x y || Val.eqv x y

/-- VUN MOV (R189). -/
def execVunMov (d : RegNum) (a : VOp) (s : State) : Host.Outcome State Fault Refusal :=
  issue (.vunMov d a) s fun s => s.laneWord d a a fun x _ _ => x

/-- VUN NEG (R187). -/
def execVunNeg (d : RegNum) (a : VOp) (s : State) : Host.Outcome State Fault Refusal :=
  issue (.vunNeg d a) s fun s => s.signWord d a Val.neg

/-- VUN ABS (R187). -/
def execVunAbs (d : RegNum) (a : VOp) (s : State) : Host.Outcome State Fault Refusal :=
  issue (.vunAbs d a) s fun s => s.signWord d a Val.abs

/-- VUN NOT (R189). -/
def execVunNot (d : RegNum) (a : VOp) (s : State) : Host.Outcome State Fault Refusal :=
  issue (.vunNot d a) s fun s => s.laneWord d a a fun x _ _ => ~~~x

/-- VUN CVT (R196). -/
def execVunCvt (d : RegNum) (a : VOp) (s : State) : Host.Outcome State Fault Refusal :=
  issue (.vunCvt d a) s fun s =>
    let g := s.g
    let et := shpEty g.shp
    let dt := shpDty g.shp
    let n := shpLanes g.shp * min et.perLane dt.perLane
    s.tileResult 2 true (tileRows g fun i => rowOfElems g d dt ((rowCodes g a et i n).map (cvtElem s.numCtl et dt)))

/-- VUN EXP (R195). -/
def execVunExp (d : RegNum) (a : VOp) (s : State) : Host.Outcome State Fault Refusal :=
  issue (.vunExp d a) s fun s => s.specialWord d a fnExp

/-- VUN EXP2 (R195). -/
def execVunExp2 (d : RegNum) (a : VOp) (s : State) : Host.Outcome State Fault Refusal :=
  issue (.vunExp2 d a) s fun s => s.specialWord d a fnExp2

/-- VUN LOG2 (R195). -/
def execVunLog2 (d : RegNum) (a : VOp) (s : State) : Host.Outcome State Fault Refusal :=
  issue (.vunLog2 d a) s fun s => s.specialWord d a fnLog2

/-- VUN RCP (R195). -/
def execVunRcp (d : RegNum) (a : VOp) (s : State) : Host.Outcome State Fault Refusal :=
  issue (.vunRcp d a) s fun s => s.specialWord d a fnRcp

/-- VUN RSQ (R195). -/
def execVunRsq (d : RegNum) (a : VOp) (s : State) : Host.Outcome State Fault Refusal :=
  issue (.vunRsq d a) s fun s => s.specialWord d a fnRsq

/-- VUN SQRT (R195). -/
def execVunSqrt (d : RegNum) (a : VOp) (s : State) : Host.Outcome State Fault Refusal :=
  issue (.vunSqrt d a) s fun s => s.specialWord d a fnSqrt

/-- VUN TANH (R195). -/
def execVunTanh (d : RegNum) (a : VOp) (s : State) : Host.Outcome State Fault Refusal :=
  issue (.vunTanh d a) s fun s => s.specialWord d a fnTanh

/-- VUN SIGM (R195). -/
def execVunSigm (d : RegNum) (a : VOp) (s : State) : Host.Outcome State Fault Refusal :=
  issue (.vunSigm d a) s fun s => s.specialWord d a fnSigm

/-- VUN ERF (R195). -/
def execVunErf (d : RegNum) (a : VOp) (s : State) : Host.Outcome State Fault Refusal :=
  issue (.vunErf d a) s fun s => s.specialWord d a fnErf

/-- VUN CLZ (R190). -/
def execVunClz (d : RegNum) (a : VOp) (s : State) : Host.Outcome State Fault Refusal :=
  issue (.vunClz d a) s fun s => s.bitWord d a a bitClz

/-- VUN POPC (R190). -/
def execVunPopc (d : RegNum) (a : VOp) (s : State) : Host.Outcome State Fault Refusal :=
  issue (.vunPopc d a) s fun s => s.bitWord d a a bitPopc

/-- VUN IOTA (R193). -/
def execVunIota (d : RegNum) (s : State) : Host.Outcome State Fault Refusal :=
  issue (.vunIota d) s fun s =>
    let g := s.g
    let dt := shpDty g.shp
    let n := rowElems g dt
    s.tileResult 2 true (tileRows g fun i =>
      rowOfElems g d dt ((List.range n).map fun e => finishNum s.numCtl false dt (.ofInt ((i * n + e : Nat) : Int))))

/-- VUN PACK (R197). -/
def execVunPack (d : RegNum) (a : VOp) (s : State) : Host.Outcome State Fault Refusal :=
  issue (.vunPack d a) s fun s =>
    let g := s.g
    let et := shpEty g.shp
    let dt := shpDty g.shp
    let n := rowElems g et
    s.tileResult 2 true (tileRows g fun i =>
      rowOfElems g d dt
        ((rowCodes g a et i n ++ rowCodes g (plainOp (a.reg + 1)) et i n).map (cvtElem s.numCtl et dt)))

/-- VUN UNPK (R197). -/
def execVunUnpk (d : RegNum) (a : VOp) (s : State) : Host.Outcome State Fault Refusal :=
  issue (.vunUnpk d a) s fun s =>
    let g := s.g
    let et := shpEty g.shp
    let dt := shpDty g.shp
    let n := rowElems g dt
    s.tileResult 2 true (tileRows g fun i =>
      let es := (rowCodes g a et i (rowElems g et)).map (cvtElem s.numCtl et dt)
      let cs := es.map Prod.fst
      { regs := [(g.physV d, packRow g dt (cs.take n)), (g.physV (d + 1), packRow g dt (cs.drop n))]
        flags := es.foldl (fun f e => f ||| e.2) 0 })

/-- VRED (R198). -/
def execVred (d : RegNum) (a : VOp) (x : Axis) (o : RedOp) (s : State) : Host.Outcome State Fault Refusal :=
  issue (.vred d a x o) s fun s => s.reduceWord d a x o false

/-- VSCAN (R199). -/
def execVscan (d : RegNum) (a : VOp) (x : Axis) (o : RedOp) (s : State) : Host.Outcome State Fault Refusal :=
  issue (.vscan d a x o) s fun s => s.reduceWord d a x o true

/-- VSHLI (R190). -/
def execVshli (d : RegNum) (a : VOp) (k : Fin 32) (s : State) : Host.Outcome State Fault Refusal :=
  issue (.vshli d a k) s fun s => s.bitWord d a a fun w x _ z => bitShl w x k.val z

/-- VSHRI (R190). -/
def execVshri (d : RegNum) (a : VOp) (k : Fin 32) (s : State) : Host.Outcome State Fault Refusal :=
  issue (.vshri d a k) s fun s => s.bitWord d a a fun w x _ z => bitShr w x k.val z

/-- VSARI (R190). -/
def execVsari (d : RegNum) (a : VOp) (k : Fin 32) (s : State) : Host.Outcome State Fault Refusal :=
  issue (.vsari d a k) s fun s => s.bitWord d a a fun w x _ z => bitSar w x k.val z

/-- VBFX (R191): sign-extended when ETYPE is i32. -/
def execVbfx (d : RegNum) (a b : VOp) (s : State) : Host.Outcome State Fault Refusal :=
  issue (.vbfx d a b) s fun s => s.laneWord d a b fun x y _ => laneBfx (shpEty s.g.shp = .int true 32) x y

/-- VFSH (R190). -/
def execVfsh (d : RegNum) (a b : VOp) (s : State) : Host.Outcome State Fault Refusal :=
  issue (.vfsh d a b) s fun s => s.bitWord d a b bitFsh

/-- VLUT (R194). -/
def execVlut (d : RegNum) (a b : VOp) (s : State) : Host.Outcome State Fault Refusal :=
  issue (.vlut d a b) s fun s =>
    let g := s.g
    let et := shpEty g.shp
    let dt := shpDty g.shp
    let n := shpLanes g.shp
    s.tileResult 4 true (tileRows g fun i =>
      rowTo g d (packRow g dt ((rowCodes g a et i (rowElems g et)).map fun x =>
        let q := x % (shpRows g.shp * n)
        (vLane g b (q / n) (q % n)).toNat % 2 ^ dt.slot)) 0)

/-- VSPLAT (R193). -/
def execVsplat (d : RegNum) (x : RegNum) (s : State) : Host.Outcome State Fault Refusal :=
  issue (.vsplat d x) s fun s =>
    let g := s.g
    let dt := shpDty g.shp
    let v := fld (s.seq.getX x).toNat 0 dt.slot
    s.tileResult 2 true (tileRows g fun _ => rowTo g d (packRow g dt (List.replicate (rowElems g dt) v)) 0)

/-- VQUANT (R200). -/
def execVquant (d : RegNum) (a b : VOp) (s : State) : Host.Outcome State Fault Refusal :=
  issue (.vquant d a b) s fun s => s.tileResult 4 true (quantRows s.g s.numCtl d a b)

/-- VDEQ (R201). -/
def execVdeq (d : RegNum) (a b : VOp) (s : State) : Host.Outcome State Fault Refusal :=
  issue (.vdeq d a b) s fun s => s.deqWord d a b

end Sys2Proof.Machine
end

