-- ==== Sys2Proof/Machine/VecMem.lean ====
section
/-! DEFINITION. The class 3 vector words (R202 to R209, R315, R316): tile loads and stores, single lanes, VSHAPE, VMASKROW and
VTAP. -/

namespace Sys2Proof.Machine

/-- The first address of the loads of a word whose 64-bit word is poisoned (R354). -/
def State.poisonRows (s : State) (addrs : List Word) (n : Nat) : Option Word := addrs.findSome? (s.poisonIn · n)

/-- VLD (R202): every byte is sampled at issue, and row-block b is written at t + 5 + b. -/
def execVld (d a b : RegNum) (s : State) : Host.Outcome State Fault Refusal :=
  issue (.vld d a b) s fun s =>
    let g := s.g
    let n := shpLanes g.shp
    let addrs := rowAddrs g (s.seq.getX a) (s.seq.getX b)
    match s.poisonRows addrs (4 * n) with
    | some bad => s.softError .xs s.seq.grpStart bad
    | none =>
      (s.countReads g.bank.pd (4 * n) addrs).tileResult 5 true (addrs.map fun p =>
        rowTo g d ((List.range n).map fun j => BitVec.ofNat 32 (s.loadLE (p + BitVec.ofNat 64 (4 * j)) 4)) 0)

/-- A list cut into parts of eight rows. -/
def blocksOf8 {α : Type} (l : List α) : List (List α) := (List.range (rowBlocks l.length)).map fun b => (l.drop (8 * b)).take 8

/-- VST (R203): one store-queue entry for each row-block. -/
def execVst (v : VOp) (a b : RegNum) (s : State) : Host.Outcome State Fault Refusal :=
  issue (.vst v a b) s fun s =>
    let g := s.g
    let addrs := rowAddrs g (s.seq.getX a) (s.seq.getX b)
    let rows := ((List.range addrs.length).zip addrs).map fun r =>
      (r.2, (rowLanes g v r.1).flatMap fun l => leBytes 4 l.toNat)
    s.queueStore true (blocksOf8 rows)

/-- VLDX (R204). -/
def execVldx (d a : RegNum) (i : VOp) (s : State) : Host.Outcome State Fault Refusal :=
  issue (.vldx d a i) s fun s =>
    let g := s.g
    let base := s.seq.getX a
    match s.poisonRows (gatherAddrs base (cornerLanes g i)) 4 with
    | some bad => s.softError .xs s.seq.grpStart bad
    | none =>
      (s.countReads g.bank.pd 4 (gatherAddrs base (cornerLanes g i))).tileResult 7 true (tileRows g fun r =>
        rowTo g d ((gatherAddrs base (rowLanes g i r)).map fun p => BitVec.ofNat 32 (s.loadLE p 4)) 0)

/-- The row and lane that an index names in the corner (R205). -/
def cornerPlace (g : Group) (v : Word) : Nat × Nat :=
  let n := shpLanes g.shp
  let q := fld v.toNat 0 16 % (shpRows g.shp * n)
  (q / n, q % n)

/-- VEXTR (R205). -/
def execVextr (d : RegNum) (v : VOp) (b : RegNum) (s : State) : Host.Outcome State Fault Refusal :=
  issue (.vextr d v b) s fun s =>
    let p := cornerPlace s.g (s.seq.getX b)
    s.xResult 2 d ((vLane s.g v p.1 p.2).setWidth 64) Flg.none

/-- VINS (R205): one lane is written, and no other. -/
def execVins (d a b : RegNum) (s : State) : Host.Outcome State Fault Refusal :=
  issue (.vins d a b) s fun s =>
    let p := cornerPlace s.g (s.seq.getX b)
    s.result 2 (.v [{ key := laneKey (s.g.physV d) p.1 p.2, mask := 0xFFFFFFFF#32, val := (s.seq.getX a).setWidth 32 }]) 0
      Flg.none

/-- The SHP that VSHAPE gives: EP, EU, EI, DP, DU and DI are cleared (R108, R207). -/
def shapeWord (r l : Fin 32) (t u : Fin 16) : Word :=
  BitVec.ofNat 64 ((r.val + 1) * 2 ^ 26 + (l.val + 1) * 2 ^ 20 + t.val * 2 ^ 16 + u.val * 2 ^ 7)

/-- VSHAPE (R207): it takes effect as a WRCR of SHP does. -/
def execVshape (r l : Fin 32) (t u : Fin 16) (s : State) : Host.Outcome State Fault Refusal :=
  issue (.vshape r l t u) s fun s => s.result 1 (.cr 0x00) (shapeWord r l t u) Flg.none

/-- VMASKROW (R209). -/
def execVmaskrow (d a : RegNum) (s : State) : Host.Outcome State Fault Refusal :=
  issue (.vmaskrow d a) s fun s =>
    let g := s.g
    let first := (s.seq.getX a).toNat
    s.tileResult 2 true (tileRows g fun i =>
      let on := first + i < g.rowCount && s.rowLive s.focus (first + i)
      rowTo g d (List.replicate (shpLanes g.shp) (if on then 0xFFFFFFFF#32 else 0)) 0)

/-! ## VTAP (R315, R316) -/

/-- An element of an operator's vector in device memory: its value as f32 or bf16 (R308, R309). -/
def State.tapVector (s : State) (bf16 : Bool) (addr : Word) (k : Nat) : Val :=
  if bf16 then decodeFlt .bf16 (readLE s.mem (devKey (addr.toNat + 2 * k)) 2)
  else decodeFlt .f32 (readLE s.mem (devKey (addr.toNat + 4 * k)) 4)

/-- The rounded product of a probe's weight and an element (R181, R315). -/
def State.tapTerm (s : State) (p : Probe) (k : Nat) (h : Val) : Lane := f32Of (Val.mul (s.tapVector p.bf16 p.waddr k) h)

/-- An element steered by a binding: one rounding to the operand type (R315). -/
def State.tapSteer (s : State) (t : FltTy) (b : TapBind) (k code : Nat) : Nat :=
  match b.steer with
  | none => code
  | some (_, bf16, addr) =>
    let v := Val.mul (f32Val b.coef) (s.tapVector bf16 addr k)
    (floatFinish NumCtl.plain t (Val.add .rne (decodeFlt t code) v)).1

/-- The products of a token with a probe from element `k0` on, put into their places behind those of its earlier chunks (R315, R321). -/
def addTerms (ps : List Partial) (site tok probe k0 : Nat) (terms : List Lane) : List Partial :=
  let place : List (Option Lane) → List (Option Lane) := fun l => l ++ List.replicate (k0 - l.length) none ++ terms.map some
  if ps.any fun (q : Partial) => q.site = site && q.tok = tok && q.probe = probe then
    ps.map fun q => if q.site = site && q.tok = tok && q.probe = probe then { q with terms := place q.terms } else q
  else ps ++ [{ site := site, tok := tok, probe := probe, terms := place [] }]

/-- The binding of a row at a site (R309); a row without one is neither probed nor steered. -/
def Group.tapBind (g : Group) (row site : Nat) : TapBind :=
  (g.tapTable.find? fun b => b.row = row && b.site = site).getD { row := row, site := site, probeSet := 0, coefs := 0, probes := [], steer := none, coef := 0 }

/-- The addresses of the operator's vectors that a binding reads for the elements from `k0` on, with their lengths. -/
def tapReads (b : TapBind) (k0 n : Nat) : List (Nat × Nat) :=
  let one : Bool → Word → Nat × Nat := fun bf16 a => let w := if bf16 then 2 else 4; (devKey (a.toNat + w * k0), w * n)
  b.probes.map (fun p => one p.bf16 p.waddr) ++ (b.steer.toList.map fun x => one x.2.1 x.2.2)

/-- One token of a VTAP: the lanes that are written, and each probe's products (R315). -/
def State.tapToken (s : State) (v : VOp) (x : TapSite) (b : TapBind) (i k0 n : Nat) :
    List LaneWrite × List (Nat × List Lane) :=
  let g := s.g
  let t := shpEty g.shp
  let ft : FltTy := match t with
    | .flt f => f
    | .int _ _ => .f32
  let codes := rowCodes g v t i n
  let steered := ((List.range n).zip codes).map fun e => s.tapSteer ft b (k0 + e.1) e.2
  let seen := if x.probeFirst then codes else steered
  let terms := b.probes.map fun p =>
    (p.idx, ((List.range n).zip seen).map fun e => s.tapTerm p (k0 + e.1) (decodeFlt ft e.2))
  let lanes := (List.range ((n + t.perLane - 1) / t.perLane)).map fun j =>
    let here := (steered.drop (j * t.perLane)).take t.perLane
    { key := laneKey (g.physV v.reg) i j, mask := packLane t.slot (here.map fun _ => 2 ^ t.slot - 1)
      val := packLane t.slot here : LaneWrite }
  (lanes, terms)

/-- The tokens of a VTAP's block with the record of each: tile row, token, record (R313, R315). -/
def State.tapBlock (s : State) (site : Fin 8) : List (Nat × Nat × Nat) :=
  (List.range (shpRows s.g.shp)).filterMap fun i =>
    let tok := (s.g.sites[site]).tcur + i
    (s.walk s.focus tok).map fun w => (i, tok, w.1)

/-- VTAP (R315, R316): a token's products begin anew at chunk 0. -/
def execVtap (v : VOp) (k : Fin 8) (s : State) : Host.Outcome State Fault Refusal :=
  issue (.vtap v k) s fun s =>
    let g := s.g
    let st := g.sites[k]
    let x := ((g.run.map Run.taps).getD [])[k.val]?.getD { layer := 0, d := 1, probeFirst := false, post := false, sslot := 0 }
    let el := tapElems g
    let k0 := st.chunk * el
    let n := min el (x.d - k0)
    let block := s.tapBlock k
    let bad := block.findSome? fun r =>
      (tapReads (g.tapBind r.2.2 k.val) k0 n).find? fun a => s.poisoned a.1 a.2
    match bad with
    | some a => s.countIssued.terminate s.focus (termRecord Cause.softError.code .sector g.handler.isSome s.seq.grpStart (BitVec.ofNat 32 a.1))
    | none =>
      let outs := block.map fun r => (r, s.tapToken v x (g.tapBind r.2.2 k.val) r.1 k0 n)
      let rb := rowBlocks (shpRows g.shp)
      let s := (List.range rb).foldl (fun s b =>
        let lanes := (outs.filter fun o => o.1.1 / 8 = b).flatMap fun o => o.2.1
        if lanes.isEmpty then s else s.result (6 + b) (.v lanes) 0 Flg.none) s
      let done := x.d ≤ (st.chunk + 1) * el
      let st' : SiteState :=
        if done then { chunk := 0, tcur := min (st.tcur + shpRows g.shp) (s.tapTotal s.focus), e := el, ahead := st.ahead - 1 }
        else { chunk := st.chunk + 1, tcur := st.tcur, e := el, ahead := st.ahead - 1 }
      let s := s.modG fun g =>
        let kept := if st.chunk = 0 then
            g.partials.filter fun (q : Partial) => !(q.site = k.val && st.tcur ≤ q.tok)
          else g.partials
        { g with
          sites := g.sites.set k st'
          partials := outs.foldl (fun ps o => o.2.2.foldl (fun ps t => addTerms ps k.val o.1.2.1 t.1 k0 t.2) ps) kept }
      if done then s.result (16 + rb) (.decide k st.tcur (shpRows g.shp)) 0 Flg.none else s

end Sys2Proof.Machine
end

