-- ==== Sys2Proof/Machine/Dispatch.lean ====
section
/-! DEFINITION. The dispatch: one arm for each instruction, a direct call of its meaning. -/

namespace Sys2Proof.Machine

/-- The meaning of an instruction. -/
def exec (i : Instr) (s : State) : Host.Outcome State Fault Refusal :=
  match i with
  | .add d a b g => Sys2Proof.Machine.execAdd d a b g s
  | .sub d a b g => Sys2Proof.Machine.execSub d a b g s
  | .mul d a b g => Sys2Proof.Machine.execMul d a b g s
  | .mulh d a b g => Sys2Proof.Machine.execMulh d a b g s
  | .mulhu d a b g => Sys2Proof.Machine.execMulhu d a b g s
  | .div d a b g => Sys2Proof.Machine.execDiv d a b g s
  | .divu d a b g => Sys2Proof.Machine.execDivu d a b g s
  | .rem d a b g => Sys2Proof.Machine.execRem d a b g s
  | .remu d a b g => Sys2Proof.Machine.execRemu d a b g s
  | .and_ d a b g => Sys2Proof.Machine.execAnd d a b g s
  | .or_ d a b g => Sys2Proof.Machine.execOr d a b g s
  | .xor_ d a b g => Sys2Proof.Machine.execXor d a b g s
  | .andn d a b g => Sys2Proof.Machine.execAndn d a b g s
  | .shl d a b g => Sys2Proof.Machine.execShl d a b g s
  | .shr d a b g => Sys2Proof.Machine.execShr d a b g s
  | .sar d a b g => Sys2Proof.Machine.execSar d a b g s
  | .rotl d a b g => Sys2Proof.Machine.execRotl d a b g s
  | .min d a b g => Sys2Proof.Machine.execMin d a b g s
  | .max d a b g => Sys2Proof.Machine.execMax d a b g s
  | .minu d a b g => Sys2Proof.Machine.execMinu d a b g s
  | .maxu d a b g => Sys2Proof.Machine.execMaxu d a b g s
  | .sel d a b p => Sys2Proof.Machine.execSel d a b p s
  | .fshl d a b g => Sys2Proof.Machine.execFshl d a b g s
  | .fshr d a b g => Sys2Proof.Machine.execFshr d a b g s
  | .bfx d a b g => Sys2Proof.Machine.execBfx d a b g s
  | .bfxs d a b g => Sys2Proof.Machine.execBfxs d a b g s
  | .bfi d a b g => Sys2Proof.Machine.execBfi d a b g s
  | .clz d a g => Sys2Proof.Machine.execClz d a g s
  | .ctz d a g => Sys2Proof.Machine.execCtz d a g s
  | .popc d a g => Sys2Proof.Machine.execPopc d a g s
  | .bswap d a g => Sys2Proof.Machine.execBswap d a g s
  | .mov d a g => Sys2Proof.Machine.execMov d a g s
  | .fadd d a b g => Sys2Proof.Machine.execFadd d a b g s
  | .fsub d a b g => Sys2Proof.Machine.execFsub d a b g s
  | .fmul d a b g => Sys2Proof.Machine.execFmul d a b g s
  | .fmin d a b g => Sys2Proof.Machine.execFmin d a b g s
  | .fmax d a b g => Sys2Proof.Machine.execFmax d a b g s
  | .ffma d a b g => Sys2Proof.Machine.execFfma d a b g s
  | .fcvt d a y t g => Sys2Proof.Machine.execFcvt d a y t g s
  | .addi d a j => Sys2Proof.Machine.execAddi d a j s
  | .andi d a j => Sys2Proof.Machine.execAndi d a j s
  | .ori d a j => Sys2Proof.Machine.execOri d a j s
  | .xori d a j => Sys2Proof.Machine.execXori d a j s
  | .shli d a y => Sys2Proof.Machine.execShli d a y s
  | .shri d a y => Sys2Proof.Machine.execShri d a y s
  | .sari d a y => Sys2Proof.Machine.execSari d a y s
  | .muli d a j => Sys2Proof.Machine.execMuli d a j s
  | .mini d a j => Sys2Proof.Machine.execMini d a j s
  | .maxi d a j => Sys2Proof.Machine.execMaxi d a j s
  | .li d j => Sys2Proof.Machine.execLi d j s
  | .lish d j => Sys2Proof.Machine.execLish d j s
  | .br o => Sys2Proof.Machine.execBr o s
  | .brp n p o => Sys2Proof.Machine.execBrp n p o s
  | .brq n o => Sys2Proof.Machine.execBrq n o s
  | .jr a => Sys2Proof.Machine.execJr a s
  | .call d o => Sys2Proof.Machine.execCall d o s
  | .callr d a => Sys2Proof.Machine.execCallr d a s
  | .ret a => Sys2Proof.Machine.execRet a s
  | .loop c a t => Sys2Proof.Machine.execLoop c a t s
  | .loopi c n t => Sys2Proof.Machine.execLoopi c n t s
  | .loopr c a v p t => Sys2Proof.Machine.execLoopr c a v p t s
  | .cmp k p a b => Sys2Proof.Machine.execCmp k p a b s
  | .cmpi k p a j => Sys2Proof.Machine.execCmpi k p a j s
  | .plog d a b t => Sys2Proof.Machine.execPlog d a b t s
  | .nop => Sys2Proof.Machine.execNop s
  | .ld d a z x o => Sys2Proof.Machine.execLd d a z x o s
  | .st b a z o => Sys2Proof.Machine.execSt b a z o s
  | .ldq q a z x o => Sys2Proof.Machine.execLdq q a z x o s
  | .qpush q a => Sys2Proof.Machine.execQpush q a s
  | .qpop q d => Sys2Proof.Machine.execQpop q d s
  | .qpeek q d => Sys2Proof.Machine.execQpeek q d s
  | .qcnt q d => Sys2Proof.Machine.execQcnt q d s
  | .qpushb p n => Sys2Proof.Machine.execQpushb p n s
  | .agdef g a => Sys2Proof.Machine.execAgdef g a s
  | .agset g a f => Sys2Proof.Machine.execAgset g a f s
  | .agadv g a k => Sys2Proof.Machine.execAgadv g a k s
  | .agld g q => Sys2Proof.Machine.execAgld g q s
  | .aggath g q a => Sys2Proof.Machine.execAggath g q a s
  | .pgref d a => Sys2Proof.Machine.execPgref d a s
  | .cmdw r a => Sys2Proof.Machine.execCmdw r a s
  | .cmdpub r => Sys2Proof.Machine.execCmdpub r s
  | .wpwait c a => Sys2Proof.Machine.execWpwait c a s
  | .vld d a b => Sys2Proof.Machine.execVld d a b s
  | .vst v a b => Sys2Proof.Machine.execVst v a b s
  | .vldx d a j => Sys2Proof.Machine.execVldx d a j s
  | .vextr d v b => Sys2Proof.Machine.execVextr d v b s
  | .vins d a b => Sys2Proof.Machine.execVins d a b s
  | .vshape r l t u => Sys2Proof.Machine.execVshape r l t u s
  | .vtap v y => Sys2Proof.Machine.execVtap v y s
  | .vmaskrow d a => Sys2Proof.Machine.execVmaskrow d a s
  | .vadd d a b => Sys2Proof.Machine.execVadd d a b s
  | .vsub d a b => Sys2Proof.Machine.execVsub d a b s
  | .vmul d a b => Sys2Proof.Machine.execVmul d a b s
  | .vfma d a b => Sys2Proof.Machine.execVfma d a b s
  | .vfms d a b => Sys2Proof.Machine.execVfms d a b s
  | .vmin d a b => Sys2Proof.Machine.execVmin d a b s
  | .vmax d a b => Sys2Proof.Machine.execVmax d a b s
  | .vabsd d a b => Sys2Proof.Machine.execVabsd d a b s
  | .vand d a b => Sys2Proof.Machine.execVand d a b s
  | .vor d a b => Sys2Proof.Machine.execVor d a b s
  | .vxor d a b => Sys2Proof.Machine.execVxor d a b s
  | .vandn d a b => Sys2Proof.Machine.execVandn d a b s
  | .vshl d a b => Sys2Proof.Machine.execVshl d a b s
  | .vshr d a b => Sys2Proof.Machine.execVshr d a b s
  | .vsar d a b => Sys2Proof.Machine.execVsar d a b s
  | .vsel d a b => Sys2Proof.Machine.execVsel d a b s
  | .vcmpeq d a b => Sys2Proof.Machine.execVcmpeq d a b s
  | .vcmpne d a b => Sys2Proof.Machine.execVcmpne d a b s
  | .vcmplt d a b => Sys2Proof.Machine.execVcmplt d a b s
  | .vcmple d a b => Sys2Proof.Machine.execVcmple d a b s
  | .vunMov d a => Sys2Proof.Machine.execVunMov d a s
  | .vunNeg d a => Sys2Proof.Machine.execVunNeg d a s
  | .vunAbs d a => Sys2Proof.Machine.execVunAbs d a s
  | .vunNot d a => Sys2Proof.Machine.execVunNot d a s
  | .vunCvt d a => Sys2Proof.Machine.execVunCvt d a s
  | .vunExp d a => Sys2Proof.Machine.execVunExp d a s
  | .vunExp2 d a => Sys2Proof.Machine.execVunExp2 d a s
  | .vunLog2 d a => Sys2Proof.Machine.execVunLog2 d a s
  | .vunRcp d a => Sys2Proof.Machine.execVunRcp d a s
  | .vunRsq d a => Sys2Proof.Machine.execVunRsq d a s
  | .vunSqrt d a => Sys2Proof.Machine.execVunSqrt d a s
  | .vunTanh d a => Sys2Proof.Machine.execVunTanh d a s
  | .vunSigm d a => Sys2Proof.Machine.execVunSigm d a s
  | .vunErf d a => Sys2Proof.Machine.execVunErf d a s
  | .vunClz d a => Sys2Proof.Machine.execVunClz d a s
  | .vunPopc d a => Sys2Proof.Machine.execVunPopc d a s
  | .vunIota d => Sys2Proof.Machine.execVunIota d s
  | .vunPack d a => Sys2Proof.Machine.execVunPack d a s
  | .vunUnpk d a => Sys2Proof.Machine.execVunUnpk d a s
  | .vred d a x o => Sys2Proof.Machine.execVred d a x o s
  | .vscan d a x o => Sys2Proof.Machine.execVscan d a x o s
  | .vshli d a y => Sys2Proof.Machine.execVshli d a y s
  | .vshri d a y => Sys2Proof.Machine.execVshri d a y s
  | .vsari d a y => Sys2Proof.Machine.execVsari d a y s
  | .vbfx d a b => Sys2Proof.Machine.execVbfx d a b s
  | .vfsh d a b => Sys2Proof.Machine.execVfsh d a b s
  | .vlut d a b => Sys2Proof.Machine.execVlut d a b s
  | .vsplat d x => Sys2Proof.Machine.execVsplat d x s
  | .vquant d a b => Sys2Proof.Machine.execVquant d a b s
  | .vdeq d a b => Sys2Proof.Machine.execVdeq d a b s
  | .semwait t y => Sys2Proof.Machine.execSemwait t y s
  | .semwaitb t y => Sys2Proof.Machine.execSemwaitb t y s
  | .semsigLocal a y => Sys2Proof.Machine.execSemsigLocal a y s
  | .semsigRemote a b => Sys2Proof.Machine.execSemsigRemote a b s
  | .semsetLocal a y => Sys2Proof.Machine.execSemsetLocal a y s
  | .semsetRemote a b => Sys2Proof.Machine.execSemsetRemote a b s
  | .semrdLocal d y => Sys2Proof.Machine.execSemrdLocal d y s
  | .semrdRemote d b => Sys2Proof.Machine.execSemrdRemote d b s
  | .tokpop y => Sys2Proof.Machine.execTokpop y s
  | .tokpush y => Sys2Proof.Machine.execTokpush y s
  | .fence b a => Sys2Proof.Machine.execFence b a s
  | .acq m t b => Sys2Proof.Machine.execAcq m t b s
  | .rel m a b => Sys2Proof.Machine.execRel m a b s
  | .bind k a => Sys2Proof.Machine.execBind k a s
  | .sdrain => Sys2Proof.Machine.execSdrain s
  | .aballoc d n => Sys2Proof.Machine.execAballoc d n s
  | .abfree a n => Sys2Proof.Machine.execAbfree a n s
  | .rngdrawRaw d a => Sys2Proof.Machine.execRngdrawRaw d a s
  | .rngdrawUnit d a => Sys2Proof.Machine.execRngdrawUnit d a s
  | .rngskip a b => Sys2Proof.Machine.execRngskip a b s
  | .modifier m => Sys2Proof.Machine.execModifier m s
  | .trap j => Sys2Proof.Machine.execTrap j s
  | .rett => Sys2Proof.Machine.execRett s
  | .termg => Sys2Proof.Machine.execTermg s
  | .exit => Sys2Proof.Machine.execExit s
  | .yield => Sys2Proof.Machine.execYield s
  | .ctxsw => Sys2Proof.Machine.execCtxsw s
  | .rdcr d c => Sys2Proof.Machine.execRdcr d c s
  | .wrcr a c => Sys2Proof.Machine.execWrcr a c s
  | .bkpt j => Sys2Proof.Machine.execBkpt j s
  | .frqpop d => Sys2Proof.Machine.execFrqpop d s
  | .rowmask a => Sys2Proof.Machine.execRowmask a s
  | .mnop h => Sys2Proof.Machine.execMnop h s
  | .mma h a0 a1 a2 => Sys2Proof.Machine.execMma h a0 a1 a2 s
  | .mmar h a0 a1 a2 a3 => Sys2Proof.Machine.execMmar h a0 a1 a2 a3 s
  | .mzero h a0 => Sys2Proof.Machine.execMzero h a0 s
  | .anchor h a0 => Sys2Proof.Machine.execAnchor h a0 s
  | .resolve h a0 a1 => Sys2Proof.Machine.execResolve h a0 a1 s
  | .drain h a0 a1 => Sys2Proof.Machine.execDrain h a0 a1 s
  | .topk h a0 a1 => Sys2Proof.Machine.execTopk h a0 a1 s
  | .acccmp h a0 a1 => Sys2Proof.Machine.execAcccmp h a0 a1 s
  | .accspill h a0 a1 => Sys2Proof.Machine.execAccspill h a0 a1 s
  | .accfill h a0 a1 => Sys2Proof.Machine.execAccfill h a0 a1 s
  | .accmov h a0 a1 => Sys2Proof.Machine.execAccmov h a0 a1 s
  | .accadd h a0 a1 => Sys2Proof.Machine.execAccadd h a0 a1 s
  | .epcfg h a0 a1 => Sys2Proof.Machine.execEpcfg h a0 a1 s
  | .msig h a0 => Sys2Proof.Machine.execMsig h a0 s
  | .cnop h => Sys2Proof.Machine.execCnop h s
  | .copy h a0 => Sys2Proof.Machine.execCopy h a0 s
  | .gather h a0 a1 => Sys2Proof.Machine.execGather h a0 a1 s
  | .scatter h a0 a1 => Sys2Proof.Machine.execScatter h a0 a1 s
  | .fill h a0 a1 => Sys2Proof.Machine.execFill h a0 a1 s
  | .accw h a0 => Sys2Proof.Machine.execAccw h a0 s
  | .fetchop h a0 a1 => Sys2Proof.Machine.execFetchop h a0 a1 s
  | .cas h a0 a1 => Sys2Proof.Machine.execCas h a0 a1 s
  | .csig h a0 => Sys2Proof.Machine.execCsig h a0 s
  | .pagein h a0 => Sys2Proof.Machine.execPagein h a0 s
  | .pageout h a0 => Sys2Proof.Machine.execPageout h a0 s
  | .ringFetch c r => Sys2Proof.Machine.execRingFetch c r s
  | .commandComplete c r => Sys2Proof.Machine.execCommandComplete c r s
  | .writeArrival k => Sys2Proof.Machine.execWriteArrival k s
  | .combiningStep k => Sys2Proof.Machine.execCombiningStep k s
  | .resultWrite c xs => Sys2Proof.Machine.execResultWrite c xs s
  | .storeCheck c => Sys2Proof.Machine.execStoreCheck c s
  | .waitTimeout c e => Sys2Proof.Machine.execWaitTimeout c e s
  | .asReadReturn c no => Sys2Proof.Machine.execAsReadReturn c no s
  | .pgrefResult c no => Sys2Proof.Machine.execPgrefResult c no s
  | .budgetExhausted c => Sys2Proof.Machine.execBudgetExhausted c s
  | .vtapDecision c => Sys2Proof.Machine.execVtapDecision c s
  | .releaseUpdate c => Sys2Proof.Machine.execReleaseUpdate c s
  | .tokenReady c => Sys2Proof.Machine.execTokenReady c s
  | .semAccessArrival k => Sys2Proof.Machine.execSemAccessArrival k s
  | .remoteWaitSample c xs => Sys2Proof.Machine.execRemoteWaitSample c xs s
  | .migrationReturn c => Sys2Proof.Machine.execMigrationReturn c s
  | .swapIn c => Sys2Proof.Machine.execSwapIn c s
  | .coreHalted c => Sys2Proof.Machine.execCoreHalted c s
  | .saveComplete c => Sys2Proof.Machine.execSaveComplete c s
  | .retirement c => Sys2Proof.Machine.execRetirement c s
  | .stage w => Sys2Proof.Machine.execStage w s
  | .withdraw w => Sys2Proof.Machine.execWithdraw w s
  | .preempt w => Sys2Proof.Machine.execPreempt w s
  | .resume w => Sys2Proof.Machine.execResume w s
  | .started w => Sys2Proof.Machine.execStarted w s
  | .wdone w => Sys2Proof.Machine.execWdone w s
  | .ended w => Sys2Proof.Machine.execEnded w s
  | .rowevent w => Sys2Proof.Machine.execRowevent w s
  | .saved w => Sys2Proof.Machine.execSaved w s
  | .cqCoalesceTimeout q => Sys2Proof.Machine.execCqCoalesceTimeout q s
  | .formationTurn cores => Sys2Proof.Machine.execFormationTurn cores s
  | .rowAged j => Sys2Proof.Machine.execRowAged j s
  | .launch => Sys2Proof.Machine.execLaunch s
  | .release => Sys2Proof.Machine.execRelease s
  | .sqDoorbell q v => Sys2Proof.Machine.execSqDoorbell q v s
  | .reconcilePass => Sys2Proof.Machine.execReconcilePass s
  | .sqDescriptorWrite q k v => Sys2Proof.Machine.execSqDescriptorWrite q k v s
  | .cqDescriptorWrite q k v => Sys2Proof.Machine.execCqDescriptorWrite q k v s
  | .cqHeadDoorbell q v => Sys2Proof.Machine.execCqHeadDoorbell q v s
  | .lightListWrite j k v => Sys2Proof.Machine.execLightListWrite j k v s
  | .registerWrite port off v => Sys2Proof.Machine.execRegisterWrite port off v s
  | .biasToDevice port page => Sys2Proof.Machine.execBiasToDevice port page s
  | .biasToHost port page => Sys2Proof.Machine.execBiasToHost port page s
  | .biasFlipComplete port => Sys2Proof.Machine.execBiasFlipComplete port s
  | .biasFlipTimeout port => Sys2Proof.Machine.execBiasFlipTimeout port s
  | .biasdone port => Sys2Proof.Machine.execBiasdone port s
  | .hsync v => Sys2Proof.Machine.execHsync v s
  | .hsyncComplete => Sys2Proof.Machine.execHsyncComplete s
  | .dirq v => Sys2Proof.Machine.execDirq v s
  | .tapsync v => Sys2Proof.Machine.execTapsync v s
  | .tapsyncComplete => Sys2Proof.Machine.execTapsyncComplete s
  | .dumpfree v => Sys2Proof.Machine.execDumpfree v s
  | .attach keys => Sys2Proof.Machine.execAttach keys s
  | .publish keys => Sys2Proof.Machine.execPublish keys s
  | .paramSet port len tag => Sys2Proof.Machine.execParamSet port len tag s
  | .paramGet port len tag => Sys2Proof.Machine.execParamGet port len tag s
  | .telemetry port len tag => Sys2Proof.Machine.execTelemetry port len tag s
  | .spdm port len tag => Sys2Proof.Machine.execSpdm port len tag s
  | .imageWrite port len tag => Sys2Proof.Machine.execImageWrite port len tag s
  | .imageCommit port len tag => Sys2Proof.Machine.execImageCommit port len tag s
  | .errlog port len tag => Sys2Proof.Machine.execErrlog port len tag s
  | .ctxExport port len tag pick => Sys2Proof.Machine.execCtxExport port len tag pick s
  | .ctxImport port len tag pick => Sys2Proof.Machine.execCtxImport port len tag pick s
  | .need d k gpn pick => Sys2Proof.Machine.execNeed d k gpn pick s
  | .swapinReq d k pick => Sys2Proof.Machine.execSwapinReq d k pick s
  | .hint d k => Sys2Proof.Machine.execHint d k s
  | .released d k => Sys2Proof.Machine.execReleased d k s
  | .resident d => Sys2Proof.Machine.execResident d s
  | .swappedout d => Sys2Proof.Machine.execSwappedout d s
  | .swappedin d => Sys2Proof.Machine.execSwappedin d s
  | .tenderNear j pick => Sys2Proof.Machine.execTenderNear j pick s
  | .tenderSwapOut j pick => Sys2Proof.Machine.execTenderSwapOut j pick s
  | .pageMoveComplete gpn pick => Sys2Proof.Machine.execPageMoveComplete gpn pick s
  | .debugStopreq c => Sys2Proof.Machine.execDebugStopreq c s
  | .debugResume c => Sys2Proof.Machine.execDebugResume c s
  | .cycleMatchStop c => Sys2Proof.Machine.execCycleMatchStop c s
  | .retiredMatchStop c => Sys2Proof.Machine.execRetiredMatchStop c s
  | .scopeStop c => Sys2Proof.Machine.execScopeStop c s
  | .ptmExchange offset => Sys2Proof.Machine.execPtmExchange offset s
  | .powerSample d current temp => Sys2Proof.Machine.execPowerSample d current temp s
  | .swallowRateChange d => Sys2Proof.Machine.execSwallowRateChange d s
  | .packageReset => Sys2Proof.Machine.execPackageReset s
  | .bootComplete => Sys2Proof.Machine.execBootComplete s
  | .hostMemRead a n => Sys2Proof.Machine.execHostMemRead a n s
  | .hostMemWrite a bytes => Sys2Proof.Machine.execHostMemWrite a bytes s
  | .cxlSnoop a => Sys2Proof.Machine.execCxlSnoop a s
  | .fabricRequest a q => Sys2Proof.Machine.execFabricRequest a q s
  | .tapChunkStaged c site => Sys2Proof.Machine.execTapChunkStaged c site s
  | .remoteSemrdReply k => Sys2Proof.Machine.execRemoteSemrdReply k s

end Sys2Proof.Machine
end

