-- ==== Sys2Proof/Machine/Turn.lean ====
section
/-! DEFINITION. One clock cycle of a core (R84 to R101, R288, R329, R342, R388, R393): fetching the group of each sequencer, the checks
of the whole group in the order of R101, holds and freezes, and the issue of its words through `exec`; the XS moves first, then
the AS (log entry 41). -/

namespace Sys2Proof.Machine

/-! ## Issue -/

/-- The place of a word in the order in which a group's words act: reads of control registers and scalar words, class 6, VTAP and
the other VA-only words, vector words, class 3, class 7, control transfers, RETT after the whole group, and EXIT (R97, R346, R372). Every
word's sources are read before another's effect: a result is written in a later cycle, and where an effect is at once this order
keeps it from the other words. -/
def issueRank (i : Instr) : Nat :=
  match i with
  | .rdcr .. => 0
  | .rett => 7
  | .exit => 8
  | _ =>
    if isVecWord i then (if vaOnly i then 2 else 3)
    else match i.cls with
      | some .c0 | some .c1 => 0
      | some .c6 => 1
      | some .c3 => 4
      | some .c2 => 6
      | _ => 5

/-- The words of a group in the order in which they act; modifier words go with their targets. -/
def issueOrder (ws : List GWord) : List (Nat × GWord × Instr) :=
  let l := (numbered ws).filterMap fun e => e.2.instr.bind fun i => if i.isModifier then none else some (e.1, e.2, i)
  (List.range 9).flatMap fun n => l.filter fun e => issueRank e.2.2 = n

/-- Issue words in order, each through its meaning; the group stops where its row group does not run on. A modifier word gives its
fields to its target by its own meaning. -/
def State.runWords (s : State) : List (Nat × GWord × Instr) → Host.Outcome State Fault Refusal
  | [] => .next s
  | (k, w, i) :: rest =>
    if !s.cur.runs then .next s
    else
      let pre : Host.Outcome State Fault Refusal := match w.mod with
        | some m => exec (.modifier m) s
        | none => .next s
      match pre with
      | .next s =>
        (match exec i (s.modSeq fun q => { q with raw := BitVec.ofNat 32 w.raw, idx := k }) with
         | .next s => State.runWords s rest
         | o => o)
      | o => o

/-- RETT and EXIT act after words that change predicates at once: their guards are those of the group's issue (R97, R115, R147). -/
def State.guardNow (s : State) (e : Nat × GWord × Instr) : Option (Nat × GWord × Instr) :=
  match e.2.2 with
  | .rett | .exit => if (s.atWord e.1 e.2.1).guardTrue e.2.2 then some (e.1, { e.2.1 with mod := none }, e.2.2) else none
  | _ => some e

/-- The words of a group that act: TERMG alone, where its guard is true (R346). -/
def State.actingWords (s : State) (ws : List GWord) : List (Nat × GWord × Instr) :=
  match (s.guarded ws).find? fun (e : Nat × GWord × Instr) => e.2.2 = .termg with
  | some e => [e]
  | none => (issueOrder ws).filterMap s.guardNow

/-- A group at issue: its next fetch is at `ret`, and the wait that held it is over (R97, R288). -/
def State.beginIssue (s : State) (ret : BitVec 32) : State :=
  s.endWait.modSeq fun q => { q with pc := ret, took := false, passed := true, mod := none }

/-- After the words of a group but EXIT have issued: the back edge of the loops that end at it, unless it has taken a transfer or
holds a loop word (R141). -/
def State.turnLoops (s : State) (ws : List GWord) : State :=
  if !s.cur.runs || s.seq.took || (groupInstrs ws).any isLoopWord then s else s.backEdge 4

/-- EXIT acts after its whole group (R372): where it is to end the row group for banks still held, the group's writes of control
registers have their effect first. -/
def State.runExit (s : State) (ws : List (Nat × GWord × Instr)) : Host.Outcome State Fault Refusal :=
  if ws.isEmpty then .next s else (if s.cur.runs && s.g.held ≠ 0 then s.writeCrs else s).runWords ws

/-- After a group has issued. -/
def State.endIssue (s : State) : State := s.modSeq fun q => { q with passed := false, mod := none }

/-- The group in issue. -/
def State.issueGroup (s : State) (ws : List GWord) (ret : BitVec 32) : Host.Outcome State Fault Refusal :=
  let acting := s.actingWords ws
  match (s.beginIssue ret).runWords (acting.filter fun e => e.2.2 != .exit) with
  | .next s =>
    (match (s.turnLoops ws).runExit (acting.filter fun e => e.2.2 = .exit) with
     | .next s => .next s.endIssue
     | o => o)
  | o => o

/-! ## The end of a cycle of a sequencer -/

/-- Debug acts on the core in focus (R387). -/
def State.debugOn (s : State) : Bool := s.g.run.isSome && s.debugPds.contains s.g.bank.pd.toNat

/-- A replay that has gone wrong ends with DIVERGED, naming the entry that did not come about: what it held is made, and the core stops,
with SRC 0, where debug is enabled (R388, R396; log entry 95; DESIGN CHOICE). -/
def State.diverge (s : State) (c : CoreId) (e : LogEntry) : State :=
  match s.replay.status with
  | .diverged _ => s
  | _ =>
    let held := s.replay.held
    let s := { s with
      replay := { s.replay with
        status := .diverged (s.replay.placeOf e), mode := .off, held := [], waits := [] } }
    let s := held.foldl (fun s (h : HeldStep) => s.semMake h.home h.num h.core h.eng h.upd) s
    if s.debugPds.contains (s.coreAt c).g.bank.pd.toNat then s.stopCore c 0 else s

/-- Is a log entry a hash of a core's XS. -/
def LogEntry.hashOf (c : CoreId) : LogEntry → Bool
  | .hash _ c' _ _ => c' = c
  | _ => false

/-- The hash entry of a row group of the core in focus, when RETIRED has become a multiple of 2^20: recorded, or compared in a replay (R393,
R396). -/
def State.hashEntry (s : State) (g : Group) : State :=
  if g.retired % 1048576 ≠ 0 then s
  else
    let e : LogEntry := .hash g.bank.inst s.focus g.retired (hashWords (hashInput g))
    match s.replayFor g.bank.pd with
    | .recordSync | .recordInputs => s.logEntry (dieOf s.focus) e
    | .replaySync | .replayInputs =>
      (match s.replay.next (LogEntry.hashOf s.focus) with
       | some x => if x = e then s.met x else s.diverge s.focus x
       | none => s)
    | .off => s

/-- An issue cycle of the XS is over: BUDGET falls unless the window opened in it (R329), and the issue-cycle count rises; `issued`
says that RETIRED counts a group, the one that ended its row group included (R78, R361, R393). `pre` is the row group before that group
issued: its values are those of a row group that has ended. -/
def State.endXs (s : State) (pre : Group) (issued : Bool) : State :=
  let s := if issued then { s with replay := { s.replay with grc := s.replay.grc + 1 } } else s
  if !s.cur.runs then
    (if issued then (s.modG fun g => { g with retired := pre.retired + 1 }).hashEntry { pre with retired := pre.retired + 1 } else s)
  else
    let s := s.modG fun g =>
      { g with xs := { g.xs with ic := g.xs.ic + 1, passed := false, mod := none }, retired := if issued then g.retired + 1 else g.retired }
    let s := if s.g.win = pre.win then s.tickBudget else s
    if issued then s.hashEntry s.writeCrs.g else s

/-- A cycle of the AS is over: its group's writes of control registers are in effect from the next (R83). -/
def State.endAs (s : State) : State :=
  if !s.cur.runs then s
  else (s.modG fun g => { g with as_ := { g.as_ with ic := g.as_.ic + 1, passed := false, mod := none } }).writeCrs

/-- Would the XS in focus make RETIRED exceed MATCH by issuing a group (R388). -/
def State.retiredMatch (s : State) : Bool :=
  s.debugOn && s.cur.dbg.reten && BitVec.ofNat 64 s.g.retired = s.cur.dbg.matchVal

/-- A RETIRED match stops the core in focus, and RETEN is cleared (R387, R388). -/
def State.stopRetired (s : State) : State :=
  (s.modCore fun k => { k with dbg := { k.dbg with reten := false } }).stopCore s.focus 3

/-- A BKPT stops the core in focus, which goes on with the group after it (R388). -/
def State.stopBkpt (s : State) (ret : BitVec 32) : State :=
  (s.modSeq fun q => { q with pc := ret, waited := 0, waitFrom := 0 }).stopCore s.focus 1

/-! ## The XS -/

/-- How what the XS does in a cycle stands beside what else that cycle brings (R342): it is firm, or it is a termination by a TERMG or
by an EXIT or ABFREE, which a SOFT_ERROR precedes, or an exception, which every termination precedes. -/
inductive XsRank where
  | firm | termg | cause
  deriving DecidableEq, Repr

/-- What the XS does in a cycle: the state after it, and the state in which what it does has lost to a termination (R342). -/
structure XsTurn where
  st : State
  quiet : State
  rank : XsRank
  deriving DecidableEq, Repr

/-- A turn of the XS that nothing precedes. -/
def XsTurn.firm (s : State) : XsTurn := { st := s, quiet := s, rank := .firm }

/-- The record of the termination of core `c`'s row group, which ran before this cycle (R352): none where it has not been terminated. -/
def State.termOf (s : State) (c : CoreId) : Option Word :=
  match (s.coreAt c).ending with
  | some (how, w, _) => if how = .terminated then some w else none
  | none =>
    if (s.coreAt c).g.run.isSome then none
    else
      let l := s.up[clusterOf c]
      ((l.sent ++ l.held).reverse.find? fun (m : UpMsg) => match m with
        | .ended d .. => d = c
        | _ => false).bind fun m => match m with
        | .ended _ _ how w _ _ _ => if how = .terminated then some w else none
        | _ => none

/-- Is a termination record's cause SOFT_ERROR. -/
def isSoftError (w : Word) : Bool := fld w.toNat 56 8 = Cause.softError.code

/-- May a word end its row group by itself (R259, R346, R373). -/
def endsGroup : Instr → Bool
  | .termg | .exit | .abfree .. => true
  | _ => false

/-- How a group that has issued stands in the order of R342: an uncorrectable error that it met, a termination, or neither. -/
def State.issueRank (s : State) (ws : List GWord) (c : CoreId) : XsRank :=
  match s.termOf c with
  | some w => if !isSoftError w && (groupInstrs ws).any endsGroup then .termg else .firm
  | none => .firm

/-- The request of a remote SEMRD of a group that is ready leaves, if it has not left yet (R290). `v` is the state whose registers the group
reads. -/
def State.askGroup (s v : State) (ws : List GWord) : State := (v.guarded ws).foldl (fun s e => s.askReady v e.2.2) s

/-- What the XS does with the group that is ready, `s` having this cycle's results: it takes the group's exception, which an open
window may absorb in an issue cycle (R331), or holds, or issues. The flag says whether RETIRED counts the cycle. -/
def State.readyXs (s : State) : Host.Outcome (State × Bool × XsRank) Fault Refusal :=
  match s.fetchGroup with
  | .inl t => .next (s.takeTrap t s.seq.pc, false, .cause)
  | .inr raw =>
    let ws := groupWords none raw
    let ret := s.seq.pc + BitVec.ofNat 32 (4 * raw.length)
    let s := s.modSeq fun q => { q with grpStart := q.pc }
    match s.groupTrap ws with
    | some t => .next (s.takeTrap t ret, t.cause.absorbed && s.g.win.isSome, .cause)
    | none =>
      if s.groupHolds ws then .next (s.askGroup s ws, false, .firm)
      else match s.issueGroup ws ret with
        | .next t => .next (t, true, t.issueRank ws s.focus)
        | .fault f => .fault f
        | .refused r => .refused r

/-- The stop that the ready group of the XS meets before it issues: a BKPT's, with the offset of the group after it, or a RETIRED match
(R388). -/
inductive StopAt where
  | bkpt (ret : BitVec 32)
  | retired
  deriving DecidableEq, Repr

/-- The stop that the ready group meets, if any. -/
def State.stopsHere (s : State) : Option StopAt :=
  match s.fetchGroup with
  | .inl _ => none
  | .inr raw =>
    let ws := groupWords none raw
    let s := s.modSeq fun q => { q with grpStart := q.pc }
    match s.groupTrap ws with
    | some t =>
      if t.cause = .breakpoint && s.bkptStops then some (.bkpt (s.seq.pc + BitVec.ofNat 32 (4 * raw.length)))
      else if t.cause.absorbed && s.g.win.isSome && s.retiredMatch then some .retired else none
    | none => if !s.groupHolds ws && s.retiredMatch then some .retired else none

/-- A wait of the XS that has lasted too long: WAIT_TIMEOUT at the waiting group, which a window may absorb (R288, R331). -/
def State.xsTimeout (s : State) (e : Nat × GWord × Instr × (WaitKind × Nat)) : State × Bool :=
  let n := match s.groupAt s.side 6 s.seq.pc.toNat with
    | some ws => 4 * ws.length
    | none => 0
  let absorbed := s.g.win.isSome
  let s := (s.modSeq fun q => { q with grpStart := q.pc, pc := q.pc + BitVec.ofNat 32 n }).atWord e.1 e.2.1
  (s.timeOut e.2.2.2, absorbed)

/-- The exceptions of this cycle's landings are taken in the order of R342: the store check's, else NUMERIC. -/
def State.takeLanded (s : State) (landed : Option Trap) : State :=
  match landed with
  | some t => s.takeTrap t s.seq.pc
  | none => s

/-- The XS with this cycle's landings made in `s1`, which has no wait, and their exception: it is taken, unless the group that is
ready ends the row group by itself or by an uncorrectable error (R342); and otherwise the ready group has its turn. `s` is the state
before the landings, in which a stop finds the XS (R388). -/
def State.goXs (s s1 : State) (landed : Option Trap) : Host.Outcome XsTurn Fault Refusal :=
  let pre := s1.g
  let quiet := s1.endXs pre false
  let idle := s1.seq.exited || s1.seq.bubble ≠ 0
  let first : Option (State × Bool × XsRank) := match (if idle || landed.isNone then none else some s1.readyXs) with
    | some (.next r) => if r.2.2 = .termg || (r.2.2 = .firm && (r.1.termOf s1.focus).any isSoftError) then some r else none
    | _ => none
  match first with
  | some r => .next { st := r.1.endXs pre r.2.1, quiet := quiet, rank := r.2.2 }
  | none =>
    let s2 := s1.takeLanded landed
    let rank : XsRank := if landed.isSome then .cause else .firm
    if !s2.cur.runs || (s2.g.handler.isSome && s1.g.handler.isNone) || s2.seq.exited then
      .next { st := s2.endXs pre false, quiet := quiet, rank := rank }
    else if s2.seq.bubble ≠ 0 then
      .next { st := (s2.modSeq fun q => { q with bubble := q.bubble - 1 }).endXs pre false, quiet := quiet, rank := rank }
    else match s2.stopsHere with
      | some (.bkpt ret) => .next (.firm (s.stopBkpt ret))
      | some .retired => .next (.firm s.stopRetired)
      | none =>
        match s2.readyXs with
        | .next r => .next { st := r.1.endXs pre r.2.1, quiet := quiet, rank := if landed.isSome then .cause else r.2.2 }
        | .fault f => .fault f
        | .refused r => .refused r

/-- A cycle of the XS (R84): it is frozen, and then nothing in it advances; or it is an issue cycle, in which results and store checks land
first and what they raise is taken before any group issues (R342, R343). A RETIRED match stops a group before it freezes (R388). -/
def State.xsCycle (s : State) : Host.Outcome XsTurn Fault Refusal :=
  let s := s.onSeq s.focus .xs
  if !s.cur.runs || s.cur.haltReq.isSome then .next (.firm s)
  else
    let pre := s.g
    let w := s.writeResults
    let k := w.1.checkStores
    let s1 := k.1
    let landed := k.2.orElse fun _ => w.2
    match (if s1.cur.runs then s1.frozenXs else none) with
    | some e =>
      if s1.retiredMatch then .next (.firm s.stopRetired)
      else if s1.waitOver then
        let r := if landed.isSome then ((s1.endRecord (6, 0)).takeLanded landed, false) else s1.xsTimeout e
        .next { st := r.1.endXs pre r.2, quiet := s1.endXs pre false, rank := .cause }
      else
        let s := ((s.modSeq fun q => { q with grpStart := q.pc }).askGroup s1 s1.readyWords).atWord e.1 e.2.1
        .next (.firm (s.waitTick s1 e.2.2.1 e.2.2.2))
    | none =>
      if s1.cur.runs then
        s.goXs (if !s1.heldWait then s1.endWait else if landed.isSome then s1.endRecord (6, 0) else s1) landed
      else .next (.firm (s1.endXs pre false))

/-! ## The AS -/

/-- What the AS does with the group that is ready (R99, R101, R127, R288): every exception but a debug stop terminates. -/
def State.readyAs (s : State) : Host.Outcome State Fault Refusal :=
  match s.fetchGroup with
  | .inl t => .next (s.takeTrap t s.seq.pc)
  | .inr raw =>
    let ws := groupWords none raw
    let ret := s.seq.pc + BitVec.ofNat 32 (4 * raw.length)
    let s := s.modSeq fun q => { q with grpStart := q.pc }
    if (groupInstrs ws).any s.interlocked then .next s
    else match s.groupTrap ws with
      | some t => .next (s.takeTrap t ret)
      | none =>
        if s.groupHolds ws then .next (s.askGroup s ws)
        else match s.groupWait ws with
          | some e =>
            let v := s.atWord e.1 e.2.1
            if s.waitOver then .next ((v.modSeq fun q => { q with pc := ret }).timeOut e.2.2.2)
            else .next ((v.askGroup s ws).waitTick v e.2.2.1 e.2.2.2)
          | none => s.issueGroup ws ret

/-- The BKPT that stops the core before the AS's ready group issues, with the offset of the group after it (R388). -/
def State.asStops (s : State) : Option (BitVec 32) :=
  let s := s.onSeq s.focus .as
  if !s.cur.runs || s.cur.haltReq.isSome then none
  else
    let s := s.writeResults.1
    if s.seq.exited || s.seq.bubble ≠ 0 then none
    else match s.fetchGroup with
      | .inl _ => none
      | .inr raw =>
        let s := s.modSeq fun q => { q with grpStart := q.pc }
        if (groupInstrs (groupWords none raw)).any s.interlocked then none
        else match s.groupTrap (groupWords none raw) with
          | some t => if t.cause = .breakpoint && s.bkptStops then some (s.seq.pc + BitVec.ofNat 32 (4 * raw.length)) else none
          | none => none

/-- A BKPT of the AS stops every engine of the core in focus at the edge before its group issues (R388). -/
def State.stopAs (s : State) : State :=
  match s.asStops with
  | some ret => (s.onSeq s.focus .as).stopBkpt ret
  | none => s

/-- A cycle of the AS. -/
def State.asCycle (s : State) : Host.Outcome State Fault Refusal :=
  let s := s.onSeq s.focus .as
  if !s.cur.runs || s.cur.haltReq.isSome then .next s
  else
    let s := s.writeResults.1
    if s.seq.exited then .next s.endAs
    else if s.seq.bubble ≠ 0 then .next (s.modSeq fun q => { q with bubble := q.bubble - 1 }).endAs
    else match s.readyAs with
      | .next s => .next s.endAs
      | o => o

/-! ## A cycle of a core -/

/-- A cycle of the waits of the commands at the heads of the core's engines (R288). -/
def State.ringWaits (s : State) : State :=
  [Ring.me, .ch0, .ch1].foldl (fun s r => if s.cur.runs then ({ s with ring := r }).commandWait else s) s

/-- The writes of control registers by the XS's group of this cycle take effect for the cycles after it (R83). -/
def State.settleCrs (s : State) : State := if s.cur.runs then (s.onSeq s.focus .xs).writeCrs else s

/-- The start checks of the ME's command in hand, after the effects of the XS group that has issued in this cycle (R258, R262). -/
def State.startMe (s : State) : Host.Outcome State Fault Refusal :=
  let s := { s with ring := .me }
  if !s.cur.runs then .next s
  else match s.atWork with
    | some e => if e.2.phase = .starting then exec e.2.instr s else .next s
    | none => .next s

/-- The reads, waits, releases and tokens of the core in focus in this cycle, with the time that the ME's steps take, its own and
those of guest work on it; and the end of a row group none of whose rows is LIVE (R154, R215, R223, R282, R288, R292, R298, R361).
-/
def State.coreWork (s : State) : State :=
  let s := s.tickGuest s.focus
  if !s.cur.runs then s.haltCycle s.focus
  else
    let s := s.tickMe.returnLocal
    let s := if s.cur.runs then s.ringWaits else s
    let s := if s.cur.runs then s.slotWaits else s
    let s := if s.cur.runs then s.makeReleases s.focus s.g.releases.length else s
    let s := if s.cur.runs then s.readyTokens s.focus else s
    s.noLive s.focus

/-- What follows the XS in a cycle of a core: the AS, the engines and the core's waits. -/
def State.afterXs (s : State) : Host.Outcome State Fault Refusal :=
  match s.asCycle with
  | .next s =>
    (match s.settleCrs.startMe with
     | .next s => .next s.coreWork
     | o => o)
  | o => o

/-- The cycle of a core after the XS's turn. An exception of the XS, or its TERMG, is made only if no cause that precedes it ends
the row group in this cycle (R342). -/
def State.weighXs (c : CoreId) (x : XsTurn) : Host.Outcome State Fault Refusal :=
  let lost : Option State := match x.rank with
    | .firm => none
    | r =>
      match x.quiet.afterXs with
      | .next t =>
        (t.termOf c).bind fun w => if r = .cause || isSoftError w then some t else none
      | _ => none
  match lost with
  | some t => .next t
  | none => x.st.afterXs

/-- The entry whose turn an outcome waits for that has been held too long at the core in focus, or by the Lantern (R396). -/
def State.overdue (s : State) : Option LogEntry :=
  if s.replay.held.any fun h => h.home = s.focus && s.g.waitMax < s.cyc - h.since then s.replay.next (LogEntry.semAt s.focus)
  else (s.replay.waits.find? (s.heldTooLong s.focus)).bind fun e =>
    match e.1 with
    | .combine d p no =>
      (s.net.find? fun f => f.src = d && f.path = p && f.lo = no).bind fun f => match f.cargo with
        | .combine key .. | .cas key .. => s.replay.next (LogEntry.combineAt key)
        | _ => none
    | .pgref d no =>
      ((s.coreAt d).g.asReads.find? fun r => r.no = no).bind fun r => match r with
        | .pgref _ _ _ _ a _ => s.replay.next (LogEntry.pgrefAt (s.pgrefHome d a))
        | _ => none
    | .place => s.replay.next fun x => match x with
        | .place .. => true
        | _ => false
    | .rowEvent => s.replay.next fun x => match x with
        | .rowEvent .. => true
        | _ => false

/-- An outcome held by a replay whose turn has not come within WAITMAX cycles ends the replay (R396). -/
def State.heldTimeout (s : State) : State :=
  match s.overdue with
  | some e => s.diverge s.focus e
  | none => s

/-- A cycle in which the core in focus stands stopped takes nothing from the times of its reads and of what its channels have not sent
(R389, R391). -/
def State.standStill (s : State) : State :=
  if !s.cur.dbg.stopped then s
  else
    ({ s with
        net := s.net.map fun (f : Flight) => if s.ownFlight s.focus f && s.cyc < f.after then { f with after := f.after + 1 } else f
      } : State).modG fun g => { g with asReads := g.asReads.map AsRead.later }

/-- The cycle is over: CYCLE rises, and a CYCLE match stops the core (R78, R388). -/
def State.endCycle (s : State) : State :=
  let s := s.standStill.logSems s.focus
  let hit := s.debugOn && s.cur.dbg.cycen && BitVec.ofNat 64 s.cyc = s.cur.dbg.matchVal
  let s := s.modCore fun k => { k with cycle := k.cycle + 1 }
  if hit && s.cur.runs then
    (s.modCore fun k => { k with dbg := { k.dbg with cycen := false } }).stopCore s.focus 2
  else s

/-- One clock cycle of a core (R92). A restored row group whose last LIVE row left meanwhile ends at once (R361). -/
def State.coreCycle (s : State) (c : CoreId) : Host.Outcome State Fault Refusal :=
  let s := s.onCore c
  match (if s.cur.runs then s.noLive c else s).stopAs.xsCycle with
  | .next x =>
    (match State.weighXs c x with
     | .next s => .next s.heldTimeout.endCycle
     | o => o)
  | .fault f => .fault f
  | .refused r => .refused r

/-! ## The turns of the agents -/

/-- May an agenda name an instruction as an event: it is no sequencer word and no command of a core's ring. PAGEIN and PAGEOUT are
the Tender's own (R249). -/
def isEvent (i : Instr) : Bool :=
  match i with
  | .pagein .. | .pageout .. => true
  | i => !i.isWord && (commandParts i).isNone

/-- The turn of an engine of a core: the command at work starts or makes a unit of its work (R261), but the start checks of the
ME's, which are the core cycle's (R258); the ME of a core that works as a guest makes a step of that work (R280). -/
def State.engineTurn (s : State) (c : CoreId) (r : Ring) (mig : Bool) : Host.Outcome State Fault Refusal :=
  let s := { s with focus := c, ring := r, mig := mig }
  if r = .me && s.cur.guest.isSome then .next (s.guestStep c)
  else match s.atWork with
    | some e => if e.2.phase = .starting then .next s else exec e.2.instr s
    | none => .next s

/-- One turn of an agent, after the inputs that a replay is due to deliver (R396). -/
def State.runTurn (s : State) (t : Turn) : Host.Outcome State Fault Refusal :=
  let s := s.deliverDue s.replay.todo.length
  match t with
  | .cycle c => s.coreCycle c
  | .engine c r mig => s.engineTurn c r mig
  | .event i => if isEvent i then exec i s else .next s
  | .time ns => .next (s.passTime ns)
  | .corrected id => .next (s.countCorrected id)
  | .upset w => .next (s.upset w)
  | .controlUpset => .next s.controlUpset
  | .fileUpset c e => .next (s.fileUpset c e)
  | .barRead port n off => s.barRead port n off
  | .hostMemory a bytes => .next (s.hostMemory a bytes)
  | .wake i v => .next (s.writeWake i.val v)
  | .mailbox => .next (s.draw.mbFinish s.drawn)
  | .mooring => .next s.moorFinish

end Sys2Proof.Machine
end

