-- ==== Sys2Proof/Machine/Place.lean ====
section
/-! DEFINITION. One issue group put where a core fetches its next one: what `State.withFetchWord` needs. A row group of one LIVE row runs
on core 0 as if the Lantern had just staged it there (R62, R71). A word without E gets a second word that closes its group (R97); a
modifier word gets one that accepts it (R114). -/

namespace Sys2Proof.Machine

/-- An X register that a filler word may write: not X0, and none that the word names as a destination (R87). -/
def freeX (i : Instr) : Nat :=
  match (List.range 63).find? fun k => xDest i ≠ some (Fin.ofNat 64 (k + 1)) with
  | some k => k + 1
  | none => 1

/-- The words of the group of a word: the word itself, and, where its E is 0, one that ends the group: an FADD after a modifier word, an
ADD after a class 2 word, else a NOP (R97, R114). -/
def groupFor (w : Nat) : List Nat :=
  if bit w 31 then [w]
  else match wordInstr w with
    | some (.modifier _) => [w, 0x88000000]
    | some i =>
      if i.cls = some .c2 then
        let x := freeX i
        [w, 2 ^ 31 + x * 2 ^ 16 + x * 2 ^ 10]
      else [w, 0xAD000000]
    | none => [w, 0xAD000000]

/-- The sequencer that runs a word: the XS where the word is legal on it, else the AS (R100). -/
def sideFor (w : Nat) : Side2 :=
  match wordInstr w with
  | some i => if !xsLegal i && asLegal i then .as else .xs
  | none => .xs

/-- A row group of one row as the Lantern stages it, running on a core: both sequencers at offset 0, the other one having issued EXIT. -/
def placedGroup (side : Side2) : Group :=
  { Group.fresh with
    run := some
      { bank := { LaunchBank.empty with rowCount := 1, width := 1, nstages := 1 }
        desc := { NodeDesc.blank with vregs := 64, banks := 512 }
        taps := []
        rowBase := 0, lens := [1] }
    as_ := { Seq.fresh with exited := side != .as }
    xs := { Seq.fresh with exited := side != .xs } }

/-- The state with that row group on core 0, its row LIVE with one token (R22), its code sections filling their windows, and words
at the start of the window it fetches from. -/
def State.place (s : State) (side : Side2) (ws : List Nat) : State :=
  let s := s.setCoreAt 0 { Core.reset with g := placedGroup side, sections := Vector.replicate 4 (0, 65536) }
  let cells := leCells (codeKey 0 side false 0) (4 * ws.length) (ws.foldr (fun w acc => w + 4294967296 * acc) 0)
  { (s.onCore 0) with mem := writeCells (writeCells s.mem (leCells (sramKey 0 4) 4 0x00010001)) cells, agenda := [] }

end Sys2Proof.Machine
end

