-- ==== Sys2Proof/Machine/Step.lean ====
section
/-! DEFINITION. One step of the machine: the next turn of the agenda, or a clock cycle of the core in focus. -/

namespace Sys2Proof.Machine

/-- One step: the first turn of the agenda, and with an empty agenda a clock cycle of the core in focus. -/
def step (s : State) : Host.Outcome State Fault Refusal :=
  match s.agenda with
  | [] => s.runTurn (.cycle s.focus)
  | t :: rest => ({ s with agenda := rest } : State).runTurn t

/-- The state in which the next step fetches and runs the sequencer word of an opcode-table row: a row group that runs on core 0 has
the word's group at the offset from which it fetches next (log entry 8). -/
def State.withFetchWord (s : State) (nbits w : Nat) : State :=
  let v := w % 2 ^ min nbits 32
  s.place (sideFor v) (groupFor v)

end Sys2Proof.Machine
end

