-- ==== Sys2Proof/Safety.lean ====
section
/-! DEFINITION. The terms in which statements about the machine are made: when a word acts, the state in which it acts, the results that
it makes pending, what a step leaves as it was, and what a safe run is. -/

namespace Sys2Proof.Machine

/-! ## Safe runs -/

/-- A run of `n` steps meets no fault and no refusal. -/
def State.SafeFor (s : State) (n : Nat) : Prop := ∃ t, Host.Core.run Sys2Proof.core n s = .next t

/-- Memory is in its canonical form. -/
abbrev State.MemOk (s : State) : Prop := s.mem.wf = true

/-! ## When a word acts (R84, R88, R101, R115) -/

/-- A sequencer word has its effect: its guard is true, and either its group has passed the checks of its issue, or the word by itself
raises no exception, finds its pipe, and neither holds nor waits. -/
abbrev State.Acts (s : State) (i : Instr) : Prop :=
  s.guardTrue i = true ∧
    (s.seq.passed = true ∨
      (s.wordTrap i = none ∧ s.pipeHold [i] = false ∧ s.wordHold i = false ∧ s.waitOf i = none))

/-- The state in which an acting word has its effect: a wait that has ended is recorded where the word issues by itself (R383), and a
vector word has taken its pipe (R88). -/
def State.ready (s : State) (i : Instr) : State := (if s.seq.passed then s else s.endWait).takePipe i

/-- A result as a word makes it: its latency, its destination, its value and its flags (R85). -/
abbrev WordResult := Nat × Dest × Word × Flags

/-- The pending result that a word makes of a result in this state (R85). -/
def State.pendOf (s : State) (r : WordResult) : Pend :=
  { due := s.seq.ic + r.1, ord := s.groupIndex, ret := s.g.retired, pc := s.seq.grpStart, dest := r.2.1, val := r.2.2.1
    flags := r.2.2.2, ten := s.ten }

/-- The state after a word whose effect is to make results pending. The modifier before the word is used up. -/
def State.withPends (s : State) (ps : List Pend) : State := s.modSeq fun q => { q with mod := none, pend := q.pend ++ ps }

/-- The state after a word that makes results, each written so many issue cycles later (R85). -/
def State.withResults (s : State) (rs : List WordResult) : State := s.withPends (rs.map s.pendOf)

/-- A control transfer has been taken (R85, R137): the next group is fetched at the target after two hold cycles, and the results `rs`
are made pending. -/
structure State.Transferred (s t : State) (target : BitVec 32) (rs : List WordResult) : Prop where
  pc : t.seq.pc = target
  bubble : t.seq.bubble = 2
  took : t.seq.took = true
  pend : t.seq.pend = s.seq.pend ++ rs.map s.pendOf

/-- A group of the one word `w`, which decodes to `i`, at issue, its return point being `ret` (R97, R141, R372): its loops turn
after it, and before an EXIT, which ends its sequencer once the control registers that the group wrote are written. -/
def State.issueOne (s : State) (w : Nat) (i : Instr) (ret : BitVec 32) : Host.Outcome State Fault Refusal :=
  let ws := groupWords none [w]
  let at0 : State → State := fun s => s.modSeq fun q => { q with raw := BitVec.ofNat 32 w, idx := 0 }
  let b := s.beginIssue ret
  match (if i = .exit then (let t := b.turnLoops ws; exec i (at0 (if t.cur.runs && t.g.held ≠ 0 then t.writeCrs else t)))
    else match exec i (at0 b) with
      | .next t => .next (t.turnLoops ws)
      | o => o) with
  | .next t => .next t.endIssue
  | o => o

/-! ## What a step leaves as it was -/

/-- Two sequencers hold the same registers: X, P with PRB, and the loop counters with their records. -/
structure SameRegs (a b : Seq) : Prop where
  x : ∀ r, b.getX r = a.getX r
  p : ∀ r, b.getPhysP r = a.getPhysP r
  prb : b.prb = a.prb
  lc : b.lc = a.lc
  loops : b.loops = a.loops

/-- Two row groups hold the same vector registers. -/
def SameLanes (a b : Group) : Prop := ∀ key, b.lane key = a.lane key

/-- Two row groups hold the same control, flag and exception registers (R78 to R83, R343, R349). -/
structure SameControl (a b : Group) : Prop where
  shp : b.shp = a.shp
  fcr : b.fcr = a.fcr
  fsr : b.fsr = a.fsr
  vrb : b.vrb = a.vrb
  trapVec : b.trapVec = a.trapVec
  trapCause : b.trapCause = a.trapCause
  trapInfo : b.trapInfo = a.trapInfo
  handler : b.handler = a.handler
  budget : b.budget = a.budget
  win : b.win = a.win
  waitMax : b.waitMax = a.waitMax
  retired : b.retired = a.retired
  faultQ : b.faultQ = a.faultQ

/-- Two row groups hold the same accumulator banks and epilogue (R255, R275). -/
structure SameBanks (a b : Group) : Prop where
  acc : b.acc = a.acc
  banks : b.banks = a.banks
  held : b.held = a.held
  epi : b.epi = a.epi

/-- Two row groups hold the same queues, semaphores, tokens, stream registers, slots and rings (R75 to R77, R223, R241). -/
structure SameUnits (a b : Group) : Prop where
  queues : b.queues = a.queues
  sems : b.sems = a.sems
  fifos : b.fifos = a.fifos
  binds : b.binds = a.binds
  releases : b.releases = a.releases
  ags : b.ags = a.ags
  slots : b.slots = a.slots
  me : b.me = a.me
  ch0 : b.ch0 = a.ch0
  ch1 : b.ch1 = a.ch1
  storeQ : b.storeQ = a.storeQ
  fences : b.fences = a.fences

/-- Two states have the same row group on a core, but for the records of its waits and what its engines abandon at a halt. -/
structure State.SameGroup (s t : State) (c : CoreId) : Prop where
  xs : SameRegs (s.coreAt c).g.xs (t.coreAt c).g.xs
  as_ : SameRegs (s.coreAt c).g.as_ (t.coreAt c).g.as_
  lanes : SameLanes (s.coreAt c).g (t.coreAt c).g
  control : SameControl (s.coreAt c).g (t.coreAt c).g
  banks : SameBanks (s.coreAt c).g (t.coreAt c).g

/-- The key of the first of the 16 bytes that the next record of the trace pool of the core in focus takes (R383). -/
def State.recordKey (s : State) : Nat := devKey (s.cur.trace.base.toNat + s.cur.trace.idx * 16)

/-- Every byte of memory reads as it did, but for the record that ends a wait of a word issued by itself (R383). -/
def SameMemory (s t : State) : Prop :=
  ∀ key, (s.seq.passed = true ∨ s.seq.waited = 0 ∨ key < s.recordKey ∨ s.recordKey + 16 ≤ key) → readByte t.mem key = readByte s.mem key

/-! ## What the scalar words compute, in the words of R129 to R136 -/

/-- The bit-field length of R131: bits [13:8], 0 meaning 64. -/
def lenOf (b : Word) : Nat := if b.extractLsb' 8 6 = 0 then 64 else (b.extractLsb' 8 6).toNat

/-- Mask(l) of R131. -/
def lowMask (l : Nat) : Word := BitVec.allOnes 64 >>> (64 - l)

/-- A shift or rotate count: XB[5:0] (R129). -/
def countOf (b : Word) : Nat := (b.extractLsb' 0 6).toNat

/-- The latency, destination, value and flags of a class 0 or 1 integer word that no modifier precedes (R129 to R131, R136). -/
def integerResult (q : Seq) : Instr → Option (Nat × RegNum × Word × Flags)
  | .add d a b _ => some (1, d, q.getX a + q.getX b, 0)
  | .sub d a b _ => some (1, d, q.getX a - q.getX b, 0)
  | .mul d a b _ => some (3, d, q.getX a * q.getX b, 0)
  | .mulh d a b _ => some (3, d, (((q.getX a).signExtend 128 * (q.getX b).signExtend 128).extractLsb' 64 64), 0)
  | .mulhu d a b _ => some (3, d, (((q.getX a).setWidth 128 * (q.getX b).setWidth 128).extractLsb' 64 64), 0)
  | .div d a b _ =>
    some (18, d, if q.getX b = 0 then BitVec.allOnes 64 else (q.getX a).sdiv (q.getX b), if q.getX b = 0 then 0x02 else 0)
  | .divu d a b _ =>
    some (18, d, if q.getX b = 0 then BitVec.allOnes 64 else (q.getX a).udiv (q.getX b), if q.getX b = 0 then 0x02 else 0)
  | .rem d a b _ => some (18, d, if q.getX b = 0 then q.getX a else (q.getX a).srem (q.getX b), if q.getX b = 0 then 0x02 else 0)
  | .remu d a b _ => some (18, d, if q.getX b = 0 then q.getX a else (q.getX a).umod (q.getX b), if q.getX b = 0 then 0x02 else 0)
  | .and_ d a b _ => some (1, d, q.getX a &&& q.getX b, 0)
  | .or_ d a b _ => some (1, d, q.getX a ||| q.getX b, 0)
  | .xor_ d a b _ => some (1, d, q.getX a ^^^ q.getX b, 0)
  | .andn d a b _ => some (1, d, q.getX a &&& ~~~q.getX b, 0)
  | .shl d a b _ => some (1, d, q.getX a <<< countOf (q.getX b), 0)
  | .shr d a b _ => some (1, d, q.getX a >>> countOf (q.getX b), 0)
  | .sar d a b _ => some (1, d, (q.getX a).sshiftRight (countOf (q.getX b)), 0)
  | .rotl d a b _ => some (1, d, (q.getX a).rotateLeft (countOf (q.getX b)), 0)
  | .min d a b _ => some (1, d, if (q.getX b).slt (q.getX a) then q.getX b else q.getX a, 0)
  | .max d a b _ => some (1, d, if (q.getX a).slt (q.getX b) then q.getX b else q.getX a, 0)
  | .minu d a b _ => some (1, d, if (q.getX b).ult (q.getX a) then q.getX b else q.getX a, 0)
  | .maxu d a b _ => some (1, d, if (q.getX a).ult (q.getX b) then q.getX b else q.getX a, 0)
  | .sel d a b p => some (1, d, if q.getP (Fin.ofNat 64 p.val) then q.getX a else q.getX b, 0)
  | .fshl d a b _ => some (1, d, ((q.getX d ++ q.getX a) <<< countOf (q.getX b)).extractLsb' 64 64, 0)
  | .fshr d a b _ => some (1, d, ((q.getX a ++ q.getX d) >>> countOf (q.getX b)).extractLsb' 0 64, 0)
  | .bfx d a b _ => some (1, d, (q.getX a >>> countOf (q.getX b)) &&& lowMask (lenOf (q.getX b)), 0)
  | .bfxs d a b _ =>
    some (1, d, ((q.getX a >>> countOf (q.getX b)) <<< (64 - lenOf (q.getX b))).sshiftRight (64 - lenOf (q.getX b)), 0)
  | .bfi d a b _ =>
    some (1, d, (q.getX d &&& ~~~(lowMask (lenOf (q.getX b)) <<< countOf (q.getX b)))
      ||| ((q.getX a <<< countOf (q.getX b)) &&& (lowMask (lenOf (q.getX b)) <<< countOf (q.getX b))), 0)
  | .clz d a _ => some (1, d, (q.getX a).clz, 0)
  | .ctz d a _ => some (1, d, (q.getX a).reverse.clz, 0)
  | .popc d a _ => some (1, d, (q.getX a).cpop, 0)
  | .bswap d a _ =>
    some (1, d, (q.getX a).extractLsb' 0 8 ++ (q.getX a).extractLsb' 8 8 ++ (q.getX a).extractLsb' 16 8 ++ (q.getX a).extractLsb' 24 8
      ++ (q.getX a).extractLsb' 32 8 ++ (q.getX a).extractLsb' 40 8 ++ (q.getX a).extractLsb' 48 8 ++ (q.getX a).extractLsb' 56 8, 0)
  | .mov d a _ => some (1, d, q.getX a, 0)
  | .addi d a i => some (1, d, q.getX a + i.signExtend 64, 0)
  | .andi d a i => some (1, d, q.getX a &&& i.signExtend 64, 0)
  | .ori d a i => some (1, d, q.getX a ||| i.setWidth 64, 0)
  | .xori d a i => some (1, d, q.getX a ^^^ i.setWidth 64, 0)
  | .shli d a k => some (1, d, q.getX a <<< k.val, 0)
  | .shri d a k => some (1, d, q.getX a >>> k.val, 0)
  | .sari d a k => some (1, d, (q.getX a).sshiftRight k.val, 0)
  | .muli d a i => some (3, d, q.getX a * i.signExtend 64, 0)
  | .mini d a i => some (1, d, if (i.signExtend 64).slt (q.getX a) then i.signExtend 64 else q.getX a, 0)
  | .maxi d a i => some (1, d, if (q.getX a).slt (i.signExtend 64) then i.signExtend 64 else q.getX a, 0)
  | .li d i => some (1, d, i.signExtend 64, 0)
  | .lish d i => some (1, d, (q.getX d <<< 18) ||| i.setWidth 64, 0)
  | _ => none

/-- Is a word one of the four divides. -/
def isDivide : Instr → Bool
  | .div .. | .divu .. | .rem .. | .remu .. => true
  | _ => false

/-- The pending result of an integer word: the flags of a divide raise no NUMERIC (R130). -/
def State.integerPend (s : State) (i : Instr) (r : WordResult) : Pend :=
  if isDivide i then { s.pendOf r with ten := 0 } else s.pendOf r

/-- The exact operation of an integer word that accepts the modifiers of R132, with its latency, destination and operands. -/
def exactOp (q : Seq) : Instr → Option (Nat × RegNum × (Int → Int → Int) × Int × Int)
  | .add d a b _ => some (1, d, (· + ·), (q.getX a).toInt, (q.getX b).toInt)
  | .sub d a b _ => some (1, d, (· - ·), (q.getX a).toInt, (q.getX b).toInt)
  | .mul d a b _ => some (3, d, (· * ·), (q.getX a).toInt, (q.getX b).toInt)
  | .min d a b _ => some (1, d, min, (q.getX a).toInt, (q.getX b).toInt)
  | .max d a b _ => some (1, d, max, (q.getX a).toInt, (q.getX b).toInt)
  | .addi d a i => some (1, d, (· + ·), (q.getX a).toInt, i.toInt)
  | .muli d a i => some (3, d, (· * ·), (q.getX a).toInt, i.toInt)
  | _ => none

/-- An operand after ABS and then NEG (R132). -/
def signedOperand (absv neg : Bool) (v : Int) : Int :=
  let u := if absv then (v.natAbs : Int) else v
  if neg then -u else u

/-- SCALE and CLAMP of R132. -/
def scaledClamped (m : Modifier) (v : Int) : Int :=
  let u := if 0 ≤ m.scale.toInt then v * 2 ^ m.scale.toInt.toNat else v / 2 ^ (-m.scale.toInt).toNat
  if m.clamp = 1 then min (max u 0) (2 ^ 63 - 1)
  else if m.clamp = 2 then min (max u (-1)) 1
  else if m.clamp = 3 then min (max u 0) 1
  else u

/-! ## What the floating words compute (R133 to R135) -/

/-- The value and flags of a scalar floating word, as captured controls `c` give them: its operands flushed, then under ABS and NEG, the
exact result, and the finish of R134. -/
def floatResult (c : NumCtl) (q : Seq) : Instr → Option (RegNum × Word × Flags)
  | .fadd d a b _ =>
    let u := f32Operand c.fza c.mod.absA c.mod.negA (q.getX a)
    let v := f32Operand c.fzb c.mod.absB c.mod.negB (q.getX b)
    let r := floatFinish c .f32 (Val.add c.rm u v)
    some (d, BitVec.ofNat 64 r.1, flagIf (addInvalid u v) Flg.iv ||| r.2)
  | .fsub d a b _ =>
    let u := f32Operand c.fza c.mod.absA c.mod.negA (q.getX a)
    let v := (f32Operand c.fzb c.mod.absB c.mod.negB (q.getX b)).neg
    let r := floatFinish c .f32 (Val.add c.rm u v)
    some (d, BitVec.ofNat 64 r.1, flagIf (addInvalid u v) Flg.iv ||| r.2)
  | .fmul d a b _ =>
    let u := f32Operand c.fza c.mod.absA c.mod.negA (q.getX a)
    let v := f32Operand c.fzb c.mod.absB c.mod.negB (q.getX b)
    let r := floatFinish c .f32 (Val.mul u v)
    some (d, BitVec.ofNat 64 r.1, flagIf (mulInvalid u v) Flg.iv ||| r.2)
  | .fmin d a b _ =>
    let u := f32Operand c.fza c.mod.absA c.mod.negA (q.getX a)
    let v := f32Operand c.fzb c.mod.absB c.mod.negB (q.getX b)
    let r := floatFinish c .f32 (Val.minNum u v)
    some (d, BitVec.ofNat 64 r.1, flagIf (u.isSig || v.isSig) Flg.iv ||| r.2)
  | .fmax d a b _ =>
    let u := f32Operand c.fza c.mod.absA c.mod.negA (q.getX a)
    let v := f32Operand c.fzb c.mod.absB c.mod.negB (q.getX b)
    let r := floatFinish c .f32 (Val.maxNum u v)
    some (d, BitVec.ofNat 64 r.1, flagIf (u.isSig || v.isSig) Flg.iv ||| r.2)
  | .ffma d a b _ =>
    let u := f32Operand c.fza c.mod.absA c.mod.negA (q.getX a)
    let v := f32Operand c.fzb c.mod.absB c.mod.negB (q.getX b)
    let z := f32Operand c.fzc false false (q.getX d)
    let r := floatFinish c .f32 (Val.add c.rm (Val.mul u v) z)
    some (d, BitVec.ofNat 64 r.1, flagIf (mulInvalid u v || addInvalid (Val.mul u v) z) Flg.iv ||| r.2)
  | .fcvt d a src dst _ =>
    let t := scalarNum src
    let v := applySign t c.mod.absA c.mod.negA (decodeNum t c.fza (fld (q.getX a).toNat 0 t.bits))
    let r := finishNum c t.isFlt (scalarNum dst) v
    some (d, scalarResult dst r.1, flagIf v.isSig Flg.iv ||| r.2)
  | _ => none

/-! ## What the vector words compute (R185 to R201) -/

/-- The results of a tile: one for each row-block, at `lat` or, row-block by row-block, from `lat` on (R86, R185). -/
def tileResults (lat : Nat) (step : Bool) (rows : List RowOut) : List WordResult :=
  (List.range (rowBlocks rows.length)).map fun b =>
    let blk := (rows.drop (8 * b)).take 8
    (lat + (if step then b else 0), .v (((List.range blk.length).zip blk).flatMap fun r => r.2.writes (8 * b + r.1)), 0,
      blk.foldl (fun f r => f ||| r.flags) 0)

/-- The exact value of an element of an element-wise word from its operands and the old destination, with the invalid operations
(R187, R188). -/
def elementValue (c : NumCtl) : Instr → Option (Nat × RegNum × VOp × VOp × (Val → Val → Val → Val × Bool))
  | .vadd d a b => some (2, d, a, b, fun u v _ => (Val.add c.rm u v, addInvalid u v))
  | .vsub d a b => some (2, d, a, b, fun u v _ => (Val.add c.rm u v.neg, addInvalid u v.neg))
  | .vmul d a b => some (4, d, a, b, fun u v _ => (Val.mul u v, mulInvalid u v))
  | .vfma d a b => some (4, d, a, b, fun u v z => (Val.add c.rm (Val.mul u v) z, mulInvalid u v || addInvalid (Val.mul u v) z))
  | .vfms d a b => some (4, d, a, b, fun u v z => (Val.add c.rm (Val.mul u v) z.neg, mulInvalid u v || addInvalid (Val.mul u v) z.neg))
  | .vmin d a b => some (2, d, a, b, fun u v _ => (Val.minNum u v, u.isSig || v.isSig))
  | .vmax d a b => some (2, d, a, b, fun u v _ => (Val.maxNum u v, u.isSig || v.isSig))
  | .vabsd d a b => some (2, d, a, b, fun u v _ => ((Val.add c.rm u v.neg).abs, addInvalid u v.neg))
  | _ => none

/-- The rows of an element-wise word: each element of the shape is Finish of the exact value (R182, R184, R187). -/
def elementRows (g : Group) (c : NumCtl) (d : RegNum) (a b : VOp) (f : Val → Val → Val → Val × Bool) : List RowOut :=
  let et := shpEty g.shp
  let dt := shpDty g.shp
  (List.range (shpRows g.shp)).map fun i =>
    rowOfElems g d dt ((List.range (rowElems g et)).map fun e =>
      let r := f (vecA c et (elemCode g a et i e)) (vecB c et (elemCode g b et i e)) (decodeNum dt c.fzc (elemCode g (plainOp d) dt i e))
      vecFinish c et dt r.1 r.2)

/-- The result lane of a Raw word or VBFX from the lanes of A, B and the old destination (R189, R191). -/
def rawLane (g : Group) : Instr → Option (RegNum × VOp × VOp × (Lane → Lane → Lane → Lane))
  | .vand d a b => some (d, a, b, fun x y _ => x &&& y)
  | .vor d a b => some (d, a, b, fun x y _ => x ||| y)
  | .vxor d a b => some (d, a, b, fun x y _ => x ^^^ y)
  | .vandn d a b => some (d, a, b, fun x y _ => x &&& ~~~y)
  | .vsel d a b => some (d, a, b, fun x y m => (m &&& x) ||| (~~~m &&& y))
  | .vunMov d a => some (d, a, a, fun x _ _ => x)
  | .vunNot d a => some (d, a, a, fun x _ _ => ~~~x)
  | .vbfx d a b => some (d, a, b, fun x y _ => laneBfx (shpEty g.shp = .int true 32) x y)
  | _ => none

/-- The rows of a word on 32-bit lanes. -/
def rawRows (g : Group) (d : RegNum) (a b : VOp) (f : Lane → Lane → Lane → Lane) : List RowOut :=
  (List.range (shpRows g.shp)).map fun i =>
    rowTo g d ((List.range (shpLanes g.shp)).map fun j => f (vLane g a i j) (vLane g b i j) (vLane g (plainOp d) i j)) 0

/-- The result of a Bit word on sub-elements of `w` bits of A, B and the old destination (R190). -/
def bitElement (w : Nat) : Instr → Option (RegNum × VOp × VOp × (Nat → Nat → Nat → Nat))
  | .vshl d a b => some (d, a, b, fun x k _ => if w ≤ k then 0 else x * 2 ^ k % 2 ^ w)
  | .vshr d a b => some (d, a, b, fun x k _ => if w ≤ k then 0 else x / 2 ^ k)
  | .vsar d a b => some (d, a, b, fun x k _ => wrapInt w (sext w x / (2 : Int) ^ min k w))
  | .vshli d a k => some (d, a, a, fun x _ _ => if w ≤ k.val then 0 else x * 2 ^ k.val % 2 ^ w)
  | .vshri d a k => some (d, a, a, fun x _ _ => if w ≤ k.val then 0 else x / 2 ^ k.val)
  | .vsari d a k => some (d, a, a, fun x _ _ => wrapInt w (sext w x / (2 : Int) ^ min k.val w))
  | .vfsh d a b => some (d, a, b, fun x y z => if y % w = 0 then z else (z * 2 ^ (y % w) + x / 2 ^ (w - y % w)) % 2 ^ w)
  | .vunClz d a => some (d, a, a, fun x _ _ => if x = 0 then w else w - 1 - Nat.log2 x)
  | .vunPopc d a => some (d, a, a, fun x _ _ => ((List.range w).filter fun k => bit x k).length)
  | _ => none

/-- The rows of a Bit word. -/
def bitRows (g : Group) (d : RegNum) (a b : VOp) (f : Nat → Nat → Nat → Nat) : List RowOut :=
  let et := shpEty g.shp
  (List.range (shpRows g.shp)).map fun i =>
    rowTo g d (packRow g et ((List.range (rowElems g et)).map fun e =>
      f (elemCode g a et i e) (elemCode g b et i e) (elemCode g (plainOp d) et i e))) 0

/-- The relation of a compare and whether only a signalling NaN sets IV (R192). -/
def relationOf : Instr → Option (RegNum × VOp × VOp × Bool × (Val → Val → Bool))
  | .vcmpeq d a b => some (d, a, b, true, Val.eqv)
  | .vcmpne d a b => some (d, a, b, true, fun x y => !Val.eqv x y)
  | .vcmplt d a b => some (d, a, b, false, Val.lt)
  | .vcmple d a b => some (d, a, b, false, fun x y => Val.lt x y || Val.eqv x y)
  | _ => none

/-- The rows of a compare: a mask of all ones where the relation holds, and of zeros elsewhere. -/
def compareRows (g : Group) (c : NumCtl) (d : RegNum) (a b : VOp) (quiet : Bool) (rel : Val → Val → Bool) : List RowOut :=
  let et := shpEty g.shp
  (List.range (shpRows g.shp)).map fun i =>
    rowOfElems g d et ((List.range (rowElems g et)).map fun e =>
      let x := decodeNum et c.fza (elemCode g a et i e)
      let y := decodeNum et c.fzb (elemCode g b et i e)
      (if rel x y then 2 ^ et.slot - 1 else 0, flagIf (if quiet then x.isSig || y.isSig else x.isNan || y.isNan) Flg.iv))

/-- The function of a special sub-op: the exact value and the flags of its special cases (R195). -/
def specialOf : Instr → Option (RegNum × VOp × (Val → Val × Flags))
  | .vunExp d a => some (d, a, fnExp)
  | .vunExp2 d a => some (d, a, fnExp2)
  | .vunLog2 d a => some (d, a, fnLog2)
  | .vunRcp d a => some (d, a, fnRcp)
  | .vunRsq d a => some (d, a, fnRsq)
  | .vunSqrt d a => some (d, a, fnSqrt)
  | .vunTanh d a => some (d, a, fnTanh)
  | .vunSigm d a => some (d, a, fnSigm)
  | .vunErf d a => some (d, a, fnErf)
  | _ => none

/-- The latency, the stepping and the rows of the vector words that convert or generate elements, look them up, reduce, scan, quantise or
dequantise them (R187, R193 to R201). -/
def otherRows (g : Group) (c : NumCtl) (q : Seq) : Instr → Option (Nat × Bool × List RowOut)
  | .vunNeg d a => some (2, true, (List.range (shpRows g.shp)).map fun i => rowOfElems g d (shpDty g.shp)
      ((rowCodes g a (shpEty g.shp) i (rowElems g (shpEty g.shp))).map (signElem c (shpEty g.shp) (shpDty g.shp) Val.neg)))
  | .vunAbs d a => some (2, true, (List.range (shpRows g.shp)).map fun i => rowOfElems g d (shpDty g.shp)
      ((rowCodes g a (shpEty g.shp) i (rowElems g (shpEty g.shp))).map (signElem c (shpEty g.shp) (shpDty g.shp) Val.abs)))
  | .vunCvt d a => some (2, true, (List.range (shpRows g.shp)).map fun i => rowOfElems g d (shpDty g.shp)
      ((rowCodes g a (shpEty g.shp) i (shpLanes g.shp * min (shpEty g.shp).perLane (shpDty g.shp).perLane)).map
        (cvtElem c (shpEty g.shp) (shpDty g.shp))))
  | .vunIota d => some (2, true, (List.range (shpRows g.shp)).map fun i => rowOfElems g d (shpDty g.shp)
      ((List.range (rowElems g (shpDty g.shp))).map fun e =>
        finishNum c false (shpDty g.shp) (.ofInt ((i * rowElems g (shpDty g.shp) + e : Nat) : Int))))
  | .vunPack d a => some (2, true, (List.range (shpRows g.shp)).map fun i => rowOfElems g d (shpDty g.shp)
      ((rowCodes g a (shpEty g.shp) i (rowElems g (shpEty g.shp))
        ++ rowCodes g (plainOp (a.reg + 1)) (shpEty g.shp) i (rowElems g (shpEty g.shp))).map (cvtElem c (shpEty g.shp) (shpDty g.shp))))
  | .vunUnpk d a => some (2, true, (List.range (shpRows g.shp)).map fun i =>
      let es := (rowCodes g a (shpEty g.shp) i (rowElems g (shpEty g.shp))).map (cvtElem c (shpEty g.shp) (shpDty g.shp))
      { regs := [(g.physV d, packRow g (shpDty g.shp) ((es.map Prod.fst).take (rowElems g (shpDty g.shp)))),
          (g.physV (d + 1), packRow g (shpDty g.shp) ((es.map Prod.fst).drop (rowElems g (shpDty g.shp))))]
        flags := es.foldl (fun f e => f ||| e.2) 0 })
  | .vsplat d x => some (2, true, (List.range (shpRows g.shp)).map fun _ => rowTo g d
      (packRow g (shpDty g.shp) (List.replicate (rowElems g (shpDty g.shp)) (fld (q.getX x).toNat 0 (shpDty g.shp).slot))) 0)
  | .vlut d a b => some (4, true, (List.range (shpRows g.shp)).map fun i => rowTo g d
      (packRow g (shpDty g.shp) ((rowCodes g a (shpEty g.shp) i (rowElems g (shpEty g.shp))).map fun x =>
        (vLane g b (x % (shpRows g.shp * shpLanes g.shp) / shpLanes g.shp)
          (x % (shpRows g.shp * shpLanes g.shp) % shpLanes g.shp)).toNat % 2 ^ (shpDty g.shp).slot)) 0)
  | .vred d a x o => some (match x with
      | .lanes => (6, true, (List.range (shpRows g.shp)).map fun i => rowOfElems g d (shpDty g.shp)
          (combineCodes c (shpEty g.shp) (shpDty g.shp) o false (rowCodes g a (shpEty g.shp) i (rowElems g (shpEty g.shp)))))
      | .rows => (6 + rowBlocks (shpRows g.shp), false, (List.range (shpRows g.shp)).map fun i => rowOfElems g d (shpDty g.shp)
          (((List.range (rowElems g (shpEty g.shp))).map fun e => combineCodes c (shpEty g.shp) (shpDty g.shp) o false
            ((List.range (shpRows g.shp)).map fun i => elemCode g a (shpEty g.shp) i e)).map fun col => col.getD i (0, 0))))
  | .vscan d a x o => some (match x with
      | .lanes => (6, true, (List.range (shpRows g.shp)).map fun i => rowOfElems g d (shpDty g.shp)
          (combineCodes c (shpEty g.shp) (shpDty g.shp) o true (rowCodes g a (shpEty g.shp) i (rowElems g (shpEty g.shp)))))
      | .rows => (6 + rowBlocks (shpRows g.shp), false, (List.range (shpRows g.shp)).map fun i => rowOfElems g d (shpDty g.shp)
          (((List.range (rowElems g (shpEty g.shp))).map fun e => combineCodes c (shpEty g.shp) (shpDty g.shp) o true
            ((List.range (shpRows g.shp)).map fun i => elemCode g a (shpEty g.shp) i e)).map fun col => col.getD i (0, 0))))
  | .vquant d a b => some (4, true, quantRows g c d a b)
  | .vdeq d a b => some (4, true, ivOnce ((List.range (shpRows g.shp)).map fun i => rowOfElems g d (shpDty g.shp)
      ((List.range (rowElems g (shpDty g.shp))).map fun e =>
        deqElem c (shpEty g.shp) (shpDty g.shp) ((vLane g b i 0).toNat + (vLane g b i 1).toNat * 2 ^ 32)
          ((vLane g b i 2).toNat + (vLane g b i 3).toNat * 2 ^ 32 + (vLane g b i 4).toNat * 2 ^ 64) e
          (elemCode g a (shpEty g.shp) i e))))
  | _ => none

/-! ## Transfers, loops and compares (R137 to R145) -/

/-- The target of a word offset: G0 + 4 × OFF, OFF being signed (R137). -/
def State.offsetTarget (s : State) (o : BitVec 16) : BitVec 32 := s.seq.grpStart + (o.signExtend 32 <<< 2)

/-- The target in a register: XA[15:0] (R137). -/
def registerTarget (v : Word) : BitVec 32 := (v.extractLsb' 0 16).setWidth 32

/-- The count, the kernel count, RV, RP and the distance of END of a loop word; the register's content is `v` (R140, R142). -/
def loopFields (q : Seq) : Instr → Option (Fin 4 × BitVec 32 × BitVec 32 × Bool × Bool × Nat)
  | .loop c a t => some (c, (q.getX a).extractLsb' 0 32, (q.getX a).extractLsb' 0 32, false, false, t.toNat)
  | .loopi c n t => some (c, n.setWidth 32, n.setWidth 32, false, false, t.toNat)
  | .loopr c a rv rp t =>
    let k := ((q.getX a).extractLsb' 0 32).toNat
    let d := ((q.getX a).extractLsb' 32 6).toNat
    let kernel := min k (2 ^ 32 - 1 - d)
    some (c, if k = 0 then 0 else BitVec.ofNat 32 (kernel + d), BitVec.ofNat 32 kernel, rv, rp, t.toNat)
  | _ => none

/-- The outcome and flags of a compare (R107, R144). -/
def compareOutcome (k : Cond) (c : NumCtl) (a b : Word) : Bool × Flags :=
  let u := decodeNum (.flt .f32) c.fza (fld a.toNat 0 32)
  let v := decodeNum (.flt .f32) c.fzb (fld b.toNat 0 32)
  match k with
  | .eq => (a == b, 0)
  | .ne => (a != b, 0)
  | .lt => (a.slt b, 0)
  | .ge => (!a.slt b, 0)
  | .ltu => (a.ult b, 0)
  | .geu => (!a.ult b, 0)
  | .feq => (Val.eqv u v, flagIf (u.isSig || v.isSig) Flg.iv)
  | .flt => (Val.lt u v, flagIf (u.isNan || v.isNan) Flg.iv)
  | .fle => (Val.lt u v || Val.eqv u v, flagIf (u.isNan || v.isNan) Flg.iv)
  | .fun_ => (u.isNan || v.isNan, flagIf (u.isSig || v.isSig) Flg.iv)
  | .tst => ((a &&& b) != 0, 0)

/-- The predicate result of CMP, CMPI and PLOG (R144, R145): the immediate of CMPI is sign-extended for EQ, NE, LT and GE, and
zero-extended otherwise (R107); PLOG takes bit 2 × PA + PB of its table. -/
def predicateResult (c : NumCtl) (q : Seq) : Instr → Option (RegNum × Bool × Flags)
  | .cmp k p a b => some (p, (compareOutcome k c (q.getX a) (q.getX b)).1, (compareOutcome k c (q.getX a) (q.getX b)).2)
  | .cmpi k p a i =>
    let imm : Word := if k = .eq ∨ k = .ne ∨ k = .lt ∨ k = .ge then i.signExtend 64 else i.setWidth 64
    some (p, (compareOutcome k c (q.getX a) imm).1, (compareOutcome k c (q.getX a) imm).2)
  | .plog d a b t => some (d, t.getLsbD ((if q.getP a then 2 else 0) + (if q.getP b then 1 else 0)), 0)
  | _ => none

/-! ## Commands (R116, R246, R257, R261, R262, R282) -/

/-- The units of work of a command, its time and its records, in the words of R246, R261, R267, R276, R278 and R282: a channel's
commands have the elements of their stream in whole bytes, an ME command a unit for each bank, row, record or 256 values of k. -/
def State.commandPlan (s : State) (i : Instr) : Plan :=
  match i with
  | .mnop _ => { units := 0, cycles := 2, posts := [] }
  | .copy _ a | .gather _ a _ | .fill _ a _ | .accw _ a | .fetchop _ a _ | .cas _ a _ => unitsOnly (s.dstUnits [a])
  | .scatter _ a _ => unitsOnly (s.srcUnits [a])
  | .csig _ _ | .msig _ _ => unitsOnly 1
  | .mma _ a b c => s.mmaPlan i a [a, b, c]
  | .mmar _ a b c d => s.mmaPlan i a [a, b, c, d]
  | .mzero _ a => { units := fld a.toNat 14 9 + 1, cycles := 2 + (fld a.toNat 14 9 + 1), posts := [] }
  | .anchor _ _ | .epcfg _ _ _ => { units := 1, cycles := 2, posts := [] }
  | .accmov _ a _ => { units := fld a.toNat 5 9 + 1, cycles := 2 + 4 * (fld a.toNat 5 9 + 1), posts := [] }
  | .accadd _ a b =>
    let n := tileBanks (fld a.toNat 8 6 + 1)
    { units := n, cycles := 4 + (if s.addSource b = s.focus then 4 else 16) * n, posts := [] }
  | .accspill _ a _ => { units := fld a.toNat 14 9 + 1, cycles := 4 + 33 * (fld a.toNat 14 9 + 1), posts := [] }
  | .accfill _ a b =>
    { units := fld a.toNat 14 9 + 1, cycles := s.withReads (s.source b).toList (4 + 33 * (fld a.toNat 14 9 + 1)), posts := [] }
  | .resolve _ a _ => { units := tileBanks (fld a.toNat 17 6 + 1), cycles := 4 + 4 * tileBanks (fld a.toNat 17 6 + 1), posts := [] }
  | .acccmp _ a _ => { units := 1, cycles := 4 + tileBanks (fld a.toNat 8 6 + 1), posts := [] }
  | .drain _ a b => s.drainPlan a b
  | .topk _ a b => s.topkPlan a b
  | _ => unitsOnly 0

/-- The cause that a command meets at its start, with its DETAIL (R257, R262, R271, R275). -/
def State.commandFault (s : State) : Instr → Option (Cause × Nat)
  | .mma _ a b c => s.mmaFault a [a, b, c]
  | .mmar _ a b c d => s.mmaFault a [a, b, c, d]
  | .mzero _ a => s.g.bankFault .held (fld a.toNat 23 9) (fld a.toNat 14 9 + 1)
  | .anchor _ a => s.g.bankFault .redundant (fld a.toNat 23 9) 1
  | .resolve _ a b =>
    (s.g.bankFault .redundant (fld a.toNat 23 9) (tileBanks (fld a.toNat 17 6 + 1))).orElse fun _ =>
      s.g.bankFault .held (fld b.toNat 23 9) (tileBanks (fld a.toNat 17 6 + 1))
  | .drain _ a _ =>
    (s.g.bankFault .held (fld a.toNat 23 9) (tileBanks (fld a.toNat 17 6 + 1))).orElse fun _ => s.epilogueFault (bit a.toNat 0)
  | .acccmp _ a _ =>
    (s.g.bankFault .held (fld a.toNat 23 9) (tileBanks (fld a.toNat 8 6 + 1))).orElse fun _ =>
      if bit a.toNat 4 then none else s.g.bankFault .held (fld a.toNat 14 9) (tileBanks (fld a.toNat 8 6 + 1))
  | .accspill _ a _ | .accfill _ a _ => s.g.bankFault .held (fld a.toNat 23 9) (fld a.toNat 14 9 + 1)
  | .accmov _ a _ =>
    (s.g.bankFault .held (fld a.toNat 23 9) (fld a.toNat 5 9 + 1)).orElse fun _ =>
      s.g.bankFault .held (fld a.toNat 14 9) (fld a.toNat 5 9 + 1)
  | .accadd _ a b => s.accaddFault a b
  | _ => none

/-- The state in which a command takes its tokens: a wait that it ends is recorded (R293, R383). -/
def State.commandPops (s : State) (cmd : Cmd) : State :=
  (if cmd.waited = 0 then s else s.cmdRecord cmd (s.cmdSetter cmd)).takePops (cmdHdr cmd.instr)

/-- What becomes of the k-th command as it begins (R246, R262, R333): a squashed one has no work, one that meets a cause ends the
row group, and any other has its units to do and the time of its first step to take. -/
structure State.Begins (s t : State) (k : Nat) (cmd : Cmd) : Prop where
  squashed : cmd.squashed = true → t = s.setCmd k (cmd.begin { units := 0, cycles := squashedCycles s.ring, posts := [] })
  fails : cmd.squashed = false → ∀ ca d, s.commandFault cmd.instr = some (ca, d) →
    t = s.terminate s.focus (termRecord ca.code (ringEng s.ring) false cmd.hdrPc (BitVec.ofNat 32 d))
  starts : cmd.squashed = false → s.commandFault cmd.instr = none → t = s.setCmd k (cmd.begin (s.commandPlan cmd.instr))

/-- The engine at work is to do unit `cmd.progress` of the command `i`, its `k`-th: the cycles of that step are over, Q13 does not
hold it, and it has not waited since it began, as only a TOPK does (R288). -/
structure State.Works (s : State) (i : Instr) (k : Nat) (cmd : Cmd) : Prop where
  at_ : s.atWork = some (k, cmd)
  runs : s.cur.runs = true
  goes : s.unitGoes cmd = true
  instr : cmd.instr = i
  running : cmd.phase = .running
  more : cmd.progress < cmd.units
  due : cmd.left = 0
  free : s.postHolds cmd = false
  calm : cmd.waited = 0

/-- The k-th command with its unit counted as made: the time of the next step begins (R282). -/
def Cmd.stepped (c : Cmd) : Cmd :=
  let d := { c.calm with progress := c.progress + 1 }
  { d with left := d.stepTime d.progress }

/-- The state in which that unit acts: it counts as made. -/
def State.unitBegun (s : State) (k : Nat) (cmd : Cmd) : State := s.setCmd k cmd.stepped

/-- The engine's unit reads some bytes and writes some keys, and then acts: it waits while an earlier command's bytes that meet it
are under way (R246), it ends the row group where a byte that it reads is poisoned (R354), and it acts otherwise. -/
structure State.UnitActs (s : State) (i : Instr) (k : Nat) (cmd : Cmd) (reads : List StreamRead) (writes : List Nat)
    (act : State → State) : Prop where
  waits : s.unitClear cmd (s.readKeys reads) writes = false → exec i s = .next s
  poisoned : s.unitClear cmd (s.readKeys reads) writes = true → ∀ a, s.readPoison reads = some a →
    exec i s = .next ((s.unitBegun k cmd).engineStop .softError cmd.hdrPc (a.toNat % 2 ^ 32))
  acts : s.unitClear cmd (s.readKeys reads) writes = true → s.readPoison reads = none →
    exec i s = .next (act ((s.unitBegun k cmd).countAll reads))

/-- The control word, the argument words and the rows of A of MMA, and those of them that the ragged walk has for MMAR
(R265, R266). -/
def State.productOf (s : State) : Instr → Option (Lane × List Lane × Nat)
  | .mma _ a b c => some (a, [a, b, c], s.mmaRows [a, b, c])
  | .mmar _ a b c m =>
    some (a, [a, b, c, m], s.rowsPresent s.focus (fld m.toNat 22 10) (fld m.toNat 6 16) (s.mmaRows [a, b, c, m]))
  | _ => none

/-- The window units that the products of a row of A and a row of B bring to their element, in increasing k: an invalid operand brings
none, and each product is held between −2^47 and 2^47 − 1 (R174). -/
def productUnits (anchor : Int) (a b : List (Option Val)) : List Int :=
  (a.zip b).filterMap fun p =>
    match p with
    | (some x, some y) => some (max (-(2 ^ 47)) (min (2 ^ 47 - 1) (windowUnits anchor (Val.mul x y)).1))
    | _ => none

/-! ## Host inputs, and the Lantern at rest (R52, R66, R379, R395, R396, R398) -/

/-- A host input is acted on: the package has not failed to boot, and no replay is under way. -/
abbrev State.TakesInputs (s : State) : Prop := s.mgmt.phase ≠ .bootfail ∧ s.replay.mode = .off

/-- No row group is saved, so that none waits for its resumption. -/
abbrev State.NoneSaved (s : State) : Prop := ∀ i ∈ s.insts, ∀ g ∈ i.groups, g.phase ≠ .saved

/-- No completion record is due or held. -/
abbrev State.NoRecords (s : State) : Prop := ∀ e ∈ s.front.cqs, e.2.due = [] ∧ e.2.held = []

/-- A submission queue after a doorbell value (R35): nothing where the queue is disabled, a reserved bit is set, SEQ does not advance, or
TAIL is outside the ring; OVERRUN where TAIL would pass the free entries; and otherwise LASTSEQ and TAIL. -/
def rungDesc (d : SqDesc) (v : Word) : SqDesc :=
  let seq : BitVec 16 := v.extractLsb' 48 16
  let tail : BitVec 16 := v.extractLsb' 0 16
  let n := 2 ^ d.log2n.toNat
  let used := (d.tail.toNat + n - d.head.toNat) % n
  let forward := (tail.toNat + n - d.tail.toNat) % n
  if d.en = true ∧ v.extractLsb' 16 32 = 0 ∧ 1 ≤ (seq - d.lastSeq).toNat ∧ (seq - d.lastSeq).toNat < 32768 ∧ tail.toNat < n then
    (if used + forward ≤ n - 1 then { d with lastSeq := seq, tail := tail } else { d with overrun := true })
  else d

/-! ## Frames -/

/-- A step of the core in focus changed its row group, its trace pool and memory, and nothing else of the machine. -/
structure State.OnlyGroup (s t : State) : Prop where
  rest : t = { s with cores := t.cores, mem := t.mem, poison := t.poison }
  others : ∀ d, d ≠ s.focus → t.coreAt d = s.coreAt d
  core : t.cur = { s.cur with g := t.g, trace := t.cur.trace }

/-- The same, but for the counters of the reads that ports discarded (R214). -/
structure State.OnlyGroupCounted (s t : State) : Prop where
  rest : t = { s with cores := t.cores, mem := t.mem, poison := t.poison }
  others : ∀ d, d ≠ s.focus → t.coreAt d = { s.coreAt d with discards := (t.coreAt d).discards }
  core : t.cur = { s.cur with g := t.g, trace := t.cur.trace, discards := t.cur.discards }

/-- The words that read memory as they issue. -/
def readsMemory (i : Instr) : Bool :=
  match i with
  | .ld .. | .vld .. | .vldx .. => true
  | _ => false

/-- The sequencer at work made results pending, ended its wait, used up its modifier and took the divider: every register, flag and loop of
it, its program counter and what it fetches next are as they were. -/
def State.OnlyPends (s t : State) : Prop :=
  t.seq = { s.seq with pend := t.seq.pend, mod := none, waited := t.seq.waited, waitFrom := t.seq.waitFrom, divDue := t.seq.divDue }

/-- The row group with nothing but the sequencer at work as another state has it. -/
def State.withSeqOf (s t : State) : Group := s.g.modSeq s.side fun _ => t.seq

/-- The words whose whole effect is to make results pending, or is none: those of classes 0, 1, 4 and 5, the compares, PLOG and NOP, loads,
QPEEK, the words on single lanes, VSHAPE, VMASKROW and WRCR, SEMRD of a local semaphore and the random words, and the words that
only wait. -/
def onlyResults (i : Instr) : Bool :=
  match i with
  | .ld .. | .qpeek .. | .cmp .. | .cmpi .. | .plog .. | .nop | .vld .. | .vldx .. | .vextr .. | .vins .. | .vshape .. | .vmaskrow .. => true
  | .semrdLocal .. | .rngdrawRaw .. | .rngdrawUnit .. | .rngskip .. | .wrcr .. | .semwait .. | .semwaitb .. | .sdrain | .ctxsw => true
  | .wpwait .. => true
  | _ => i.cls == some .c0 || i.cls == some .c1 || i.cls == some .c4 || i.cls == some .c5

end Sys2Proof.Machine
end

