-- ==== Sys2Proof/Certificates/Slice0/Obligations.lean ====
section
/-! DEFINITION. The statements about the machine that are to be proved. -/

open Sys2Proof
open Sys2Proof.Machine

/-- R129, R130, R131, R132, R136: a class 0 or 1 integer word that acts without a modifier writes the value that its table gives, with the
latency its table gives; a divide also takes the divider until then, and by a zero divisor sets DZ, which raises no NUMERIC. One that
accepts a modifier and has one computes exactly on the operands after ABS and NEG, scales and clamps, then saturates, with FSR.SAT where
that changes the value, or wraps. Nothing else changes. -/
def Obligations.IntegerWordResults : Prop :=
  (∀ (s : State) (i : Instr) (lat : Nat) (d : RegNum) (v : Word) (f : Flags),
    integerResult s.seq i = some (lat, d, v, f) → s.seq.mod = none → s.Acts i →
      exec i s = .next (((s.ready i).modSeq fun q => { q with divDue := if isDivide i then q.ic + 18 else q.divDue }).withPends
        [s.integerPend i (lat, .x d, v, f)])) ∧
  (∀ (s : State) (i : Instr) (m : Modifier) (lat : Nat) (d : RegNum) (op : Int → Int → Int) (a b : Int),
    exactOp s.seq i = some (lat, d, op, a, b) → s.side = .xs → s.seq.mod = some m → modFits m i = true → s.Acts i →
      let v := scaledClamped m (op (signedOperand m.absA m.negA a) (signedOperand m.absB m.negB b))
      exec i s = .next ((s.ready i).withResults
        [if m.sat ∧ 2 ^ 63 - 1 < v then (lat, .x d, 0x7FFFFFFFFFFFFFFF#64, 0x20)
         else if m.sat ∧ v < -(2 ^ 63) then (lat, .x d, 0x8000000000000000#64, 0x20)
         else (lat, .x d, BitVec.ofInt 64 v, 0)]))



/-- R133, R134, R135: a scalar floating word or FCVT that acts writes the finished exact result with latency 4, with the flags of the
operation and of its finish.
That a value out of an integer type's range is told after rounding is the model's reading (log entry 13). -/
def Obligations.FloatWordResults : Prop :=
  ∀ (s : State) (i : Instr) (d : RegNum) (v : Word) (f : Flags),
    floatResult s.numCtl s.seq i = some (d, v, f) → s.Acts i → exec i s = .next ((s.ready i).withResults [(4, .x d, v, f)])

/-- R187 to R191: an element-wise arithmetic word that acts writes every element of the shape with Finish of its exact value, each
row-block one issue cycle after the one before it; a Raw word or VBFX writes every lane of the shape, and a Bit word every sub-element,
with latency 2 and without a flag.
That a value out of an integer type's range is told after rounding is the model's reading (log entry 13). -/
def Obligations.VectorElementResults : Prop :=
  (∀ (s : State) (i : Instr) (lat : Nat) (d : RegNum) (a b : VOp) (f : Val → Val → Val → Val × Bool),
    elementValue s.numCtl i = some (lat, d, a, b, f) → s.Acts i →
      exec i s = .next ((s.ready i).withResults (tileResults lat true (elementRows s.g s.numCtl d a b f)))) ∧
  (∀ (s : State) (i : Instr) (d : RegNum) (a b : VOp) (f : Lane → Lane → Lane → Lane),
    rawLane s.g i = some (d, a, b, f) → s.Acts i →
      exec i s = .next ((s.ready i).withResults (tileResults 2 true (rawRows s.g d a b f)))) ∧
  (∀ (s : State) (i : Instr) (d : RegNum) (a b : VOp) (f : Nat → Nat → Nat → Nat),
    bitElement (shpEty s.g.shp).slot i = some (d, a, b, f) → s.Acts i →
      exec i s = .next ((s.ready i).withResults (tileResults 2 true (bitRows s.g d a b f))))



/-- R192, R195: a vector compare that acts writes a mask for each element with latency 2; a special function that acts writes Finish of
its exact value with latency 12.
That a special function rounds its exact value correctly is the model's reading (log entry 12). -/
def Obligations.VectorCompareAndSpecialResults : Prop :=
  (∀ (s : State) (i : Instr) (d : RegNum) (a b : VOp) (quiet : Bool) (rel : Val → Val → Bool),
    relationOf i = some (d, a, b, quiet, rel) → s.Acts i →
      exec i s = .next ((s.ready i).withResults (tileResults 2 true (compareRows s.g s.numCtl d a b quiet rel)))) ∧
  (∀ (s : State) (i : Instr) (d : RegNum) (a : VOp) (f : Val → Val × Flags),
    specialOf i = some (d, a, f) → s.Acts i →
      exec i s = .next ((s.ready i).withResults (tileResults 12 true ((List.range (shpRows s.g.shp)).map fun r =>
        rowOfElems s.g d (shpDty s.g.shp) ((rowCodes s.g a (shpEty s.g.shp) r (rowElems s.g (shpEty s.g.shp))).map fun code =>
          ((finishNum s.numCtl true (shpDty s.g.shp) (f (vecA s.numCtl (shpEty s.g.shp) code)).1).1,
            (f (vecA s.numCtl (shpEty s.g.shp) code)).2
              ||| (finishNum s.numCtl true (shpDty s.g.shp) (f (vecA s.numCtl (shpEty s.g.shp) code)).1).2))))))

/-- R187, R193, R194, R196 to R201: NEG, ABS, CVT, IOTA, PACK, UNPK, VSPLAT, VLUT, VRED, VSCAN, VQUANT and VDEQ that act write the rows
that their rules give, at the latencies of R185.
The finish of a floating sum in an integer DTYPE, and the zeros that VDEQ reads beyond its scale string, are the model's choices (log
entries 22 and 77); that a value out of an integer type's range is told after rounding is its reading (log entry 13). -/
def Obligations.VectorConversionAndReductionResults : Prop :=
  ∀ (s : State) (i : Instr) (lat : Nat) (step : Bool) (rows : List RowOut),
    otherRows s.g s.numCtl s.seq i = some (lat, step, rows) → s.Acts i →
      exec i s = .next ((s.ready i).withResults (tileResults lat step rows))

/-- R144, R145: CMP, CMPI and PLOG that act write the predicate that PD names now, with latency 1. -/
def Obligations.PredicateWordResults : Prop :=
  ∀ (s : State) (i : Instr) (d : RegNum) (v : Bool) (f : Flags),
    predicateResult s.numCtl s.seq i = some (d, v, f) → s.Acts i →
      exec i s = .next ((s.ready i).withResults [(1, .p (physP s.seq.prb d), if v then 1 else 0, f)])

/-- R137: a transfer that acts takes effect when its condition holds, and then fetches at its target after two hold cycles; a call writes
the offset of the first word after its group to its link register with latency 1; BRQ removes the head of Q8, taken or not, waits for
one where Q8 has none, removes none where its guard is false, and is not legal on the AS. -/
def Obligations.TransfersGoToTheirTargets : Prop :=
  (∀ (s : State) (o : BitVec 16), s.Acts (.br o) →
    ∃ t, exec (.br o) s = .next t ∧ s.Transferred t (s.offsetTarget o) []) ∧
  (∀ (s : State) (n : Bool) (p : RegNum) (o : BitVec 16), s.Acts (.brp n p o) →
    ∃ t, exec (.brp n p o) s = .next t ∧
      (if (s.seq.getP p ^^ n) = true then s.Transferred t (s.offsetTarget o) [] else t = (s.ready (.brp n p o)).endWord)) ∧
  (∀ (s : State) (n : Bool) (o : BitVec 16), s.Acts (.brq n o) →
    ∃ t, exec (.brq n o) s = .next t ∧ (t.g.queue 8).entries = (s.g.queue 8).entries.drop 1 ∧
      (if ((s.g.queue 8).head.getLsbD 0 ^^ n) = true then s.Transferred t (s.offsetTarget o) []
        else t.seq.pc = s.seq.pc ∧ t.seq.bubble = s.seq.bubble ∧ t.seq.took = s.seq.took)) ∧
  (∀ (s : State) (a : RegNum), s.Acts (.jr a) →
    ∃ t, exec (.jr a) s = .next t ∧ s.Transferred t (registerTarget (s.seq.getX a)) []) ∧
  (∀ (s : State) (a : RegNum), s.Acts (.ret a) →
    ∃ t, exec (.ret a) s = .next t ∧ s.Transferred t (registerTarget (s.seq.getX a)) []) ∧
  (∀ (s : State) (d : RegNum) (o : BitVec 16), s.Acts (.call d o) →
    ∃ t, exec (.call d o) s = .next t ∧ s.Transferred t (s.offsetTarget o) [(1, .x d, s.seq.pc.setWidth 64, 0)]) ∧
  (∀ (s : State) (d a : RegNum), s.Acts (.callr d a) →
    ∃ t, exec (.callr d a) s = .next t ∧
      s.Transferred t (registerTarget (s.seq.getX a)) [(1, .x d, s.seq.pc.setWidth 64, 0)]) ∧
  (∀ (s : State) (n : Bool) (o : BitVec 16), (s.g.queue 8).canPop s.cyc = false → s.waitOf (.brq n o) = some (.queue, 8)) ∧
  (∀ (s : State) (n : Bool) (o : BitVec 16), s.seq.passed = true → s.guardTrue (.brq n o) = false →
    ∃ t, exec (.brq n o) s = .next t ∧ t.g.queues = s.g.queues ∧ t.seq.pc = s.seq.pc ∧ t.seq.took = s.seq.took) ∧
  (∀ (s : State) (n : Bool) (o : BitVec 16), s.side = .as → s.wordTrap (.brq n o) =
    some { cause := .illegalOpcode, pc := s.seq.grpStart, word := s.seq.idx, detail := s.seq.raw, shape := false })

/-- R140, R142: a loop word that acts with a count other than 0 records the loop and sets its counter, at no cost, LOOPR also rotating
its registers back; with a count of 0 it ends the loop and transfers to the word after the body's last group. -/
def Obligations.LoopWordsStartLoops : Prop :=
  ∀ (s : State) (i : Instr) (n : Fin 4) (c kernel : BitVec 32) (rv rp : Bool) (dist : Nat),
    loopFields s.seq i = some (n, c, kernel, rv, rp, dist) → s.Acts i →
      ∃ t, exec i s = .next t ∧ t.seq.lc[n] = c ∧ (∀ m, m ≠ n → t.seq.lc[m] = s.seq.lc[m] ∧ t.seq.loops[m] = s.seq.loops[m]) ∧
        (c ≠ 0 →
          (t.seq.loops[n]).start = s.seq.pc ∧ (t.seq.loops[n]).stop = s.seq.grpStart + BitVec.ofNat 32 (4 * dist) ∧
          (t.seq.loops[n]).total = c ∧ (rv = true ∨ rp = true → (t.seq.loops[n]).kernel = kernel) ∧ (t.seq.loops[n]).rv = rv ∧ (t.seq.loops[n]).rp = rp ∧
          (t.seq.loops[n]).active = true ∧ t.seq.pc = s.seq.pc ∧ t.seq.bubble = s.seq.bubble ∧
          t.g.vrb = (if rv then 0 else s.g.vrb) ∧ t.seq.prb = (if rp then 0 else s.seq.prb) ∧
          (rp = true → t.seq.getPhysP 32 = true ∧ ∀ k : RegNum, 32 < k.val → t.seq.getPhysP k = false)) ∧
        (c = 0 →
          (t.seq.loops[n]).active = false ∧ t.seq.bubble = 2 ∧ t.seq.took = true ∧
          ∀ ws, (s.ready i).groupAt s.side 6 (s.seq.grpStart + BitVec.ofNat 32 (4 * dist)).toNat = some ws →
            t.seq.pc = s.seq.grpStart + BitVec.ofNat 32 (4 * dist) + BitVec.ofNat 32 (4 * ws.length))

/-- R141: at the issue of a group at the END of exactly one active loop, outside handler mode, a counter above 1 is counted down and the
loop's START is fetched next, with the rotation that RV and RP ask for; otherwise the loop ends and fetch goes on.
That TOTAL − LC is taken modulo 2^32 is the model's choice (log entry 78). -/
def Obligations.BackEdgeOfOneLoop : Prop :=
  ∀ (s : State) (n : Fin 4), s.g.handler = none → (s.seq.loops[n]).active = true → (s.seq.loops[n]).stop = s.seq.grpStart →
    (∀ m, m ≠ n → (s.seq.loops[m]).active = true → (s.seq.loops[m]).stop ≠ s.seq.grpStart) →
      if 1 < (s.seq.lc[n]).toNat then
        ((s.backEdge 4).seq.lc[n] = s.seq.lc[n] - 1 ∧ (s.backEdge 4).seq.pc = (s.seq.loops[n]).start ∧
        (s.backEdge 4).seq.loops = s.seq.loops ∧ (s.backEdge 4).seq.bubble = s.seq.bubble ∧
        ((s.seq.loops[n]).rv = true → 32 < s.g.desc.vregs → s.g.desc.vregs ≤ 64 → s.g.vrb.val < s.g.desc.vregs - 32 →
          (s.backEdge 4).g.vrb.val = if s.g.vrb.val = 0 then s.g.desc.vregs - 33 else s.g.vrb.val - 1) ∧
        ((s.seq.loops[n]).rp = true →
          (s.backEdge 4).seq.prb = s.seq.prb - 1 ∧
          (s.backEdge 4).seq.getP 32
            = decide (((s.seq.loops[n]).total - (s.seq.lc[n] - 1)).toNat < ((s.seq.loops[n]).kernel).toNat)))
      else
        ((s.backEdge 4).seq.lc[n] = 0 ∧ ((s.backEdge 4).seq.loops[n]).active = false ∧ (s.backEdge 4).seq.pc = s.seq.pc)

/-- R146, R252, R290, R298, R351, R359: NOP and CTXSW, and WPWAIT, SEMWAIT, SEMWAITB and SDRAIN once they need not wait, do nothing more;
an ACQ, its wait over, does nothing more than to leave its remote wait. -/
def Obligations.WaitingWordsOnlyWait : Prop :=
  (∀ (s : State) (i : Instr),
    (i = .nop ∨ i = .ctxsw ∨ i = .sdrain ∨ (∃ c a, i = .wpwait c a) ∨ (∃ t n, i = .semwait t n) ∨ ∃ t n, i = .semwaitb t n) →
      s.Acts i → exec i s = .next ((s.ready i).withResults [])) ∧
  (∀ (s : State) (m : BitVec 9) (t b : RegNum), s.Acts (.acq m t b) →
    exec (.acq m t b) s = .next (((s.ready (.acq m t b)).modSeq fun q => { q with remote := .idle }).withResults []))

/-- R148, R150, R354: an LD that acts on sound memory writes the bytes it samples at issue, little-endian and extended, with latency 5; one
that meets an uncorrectable error ends the row group with SOFT_ERROR. A byte that the XS loads comes from the youngest store issued
at least four issue cycles before that covers it, and from memory when there is none; the AS loads from memory. A read that reaches
a quarter of another owner through a global SRAM address is counted at its core, and no other read is (R214).
That a queued store is forwarded in a quarter of another owner too is the model's choice (log entry 90). -/
def Obligations.LoadResults : Prop :=
  (∀ (s : State) (d a : RegNum) (z : Size) (x : Bool) (o : BitVec 7), s.Acts (.ld d a z x o) →
    let i := Instr.ld d a z x o
    let p : Word := s.seq.getX a + BitVec.ofInt 64 (o.toInt * (sizeBytes z : Int))
    match (s.ready i).poisonIn p (sizeBytes z) with
    | none =>
      exec i s = .next (((s.ready i).countRead s.g.bank.pd p (sizeBytes z)).withResults
        [(5, .x d, extendBytes x (sizeBytes z) ((s.ready i).loadLE p (sizeBytes z)), 0)])
    | some bad => exec i s = .next (((s.ready i).softError s.side.eng s.seq.grpStart bad).endWord)) ∧
  (∀ (s : State) (a : Word), s.side = .as → s.loadByte a = s.readAddr s.focus s.g.bank.pd a) ∧
  (∀ (s : State) (a : Word) (off : Nat), s.side = .xs → localOff s.focus a = some off →
    (∀ e ∈ s.g.storeQ, e.due ≤ s.g.xs.ic + 8 → ∀ r ∈ e.rows, ∀ o, localOff s.focus r.1 = some o → off < o ∨ o + r.2.length ≤ off) →
      s.loadByte a = s.readAddr s.focus s.g.bank.pd a) ∧
  (∀ (s : State) (a : Word) (off o : Nat) (older younger : List StoreEntry) (e : StoreEntry) (r : Word × List Byte) (b : Byte),
    s.side = .xs → localOff s.focus a = some off → s.g.storeQ = older ++ e :: younger → e.due ≤ s.g.xs.ic + 8 →
    (∀ y ∈ younger, s.g.xs.ic + 8 < y.due) → e.rows = [r] → localOff s.focus r.1 = some o → o ≤ off → r.2[off - o]? = some b →
      s.loadByte a = b) ∧
  (∀ (s : State) (pd : BitVec 12) (a : Word) (n : Nat), n ≤ 2 ^ 22 → a.toNat % 2 ^ 22 + n ≤ 2 ^ 22 →
    let foreign := ∃ k, k < n ∧ ownerAt (s.coreAt (globalCore a)) (a.toNat % 2 ^ 22 + k) ≠ .pd pd
    let t := s.countRead pd a n
    ((spaceOf a ≠ 0 ∨ layoutOk a = false ∨ ¬ foreign) → t = s) ∧
      (spaceOf a = 0 → layoutOk a = true → foreign →
        (t.coreAt (globalCore a)).discards = (s.coreAt (globalCore a)).discards + 1 ∧ t.mem = s.mem))

/-- R149, R203: an ST or VST that acts puts its bytes into the store queue, to be checked twelve issue cycles later, an ST as one entry
and a VST as one entry for each row-block; it writes no memory itself. -/
def Obligations.StoresEnterTheQueue : Prop :=
  (∀ (s : State) (b a : RegNum) (z : Size) (o : BitVec 7), s.Acts (.st b a z o) →
    ∃ t, exec (.st b a z o) s = .next t ∧ t.g.storeNo = s.g.storeNo + 1 ∧ SameMemory s t ∧
      t.g.storeQ = s.g.storeQ ++
        [{ no := s.g.storeNo, due := s.g.xs.ic + 12, pc := s.g.xs.grpStart + BitVec.ofNat 32 (4 * s.g.xs.idx), grp := s.g.retired,
           vec := false, blk := 0, win := s.g.win,
           rows := [(s.seq.getX a + BitVec.ofInt 64 (o.toInt * (sizeBytes z : Int)), leBytes (sizeBytes z) (s.seq.getX b).toNat)] }]) ∧
  (∀ (s : State) (v : VOp) (a b : RegNum), s.Acts (.vst v a b) →
    ∃ t, exec (.vst v a b) s = .next t ∧ t.g.storeNo = s.g.storeNo + 1 ∧ SameMemory s t ∧
      t.g.storeQ = s.g.storeQ ++ (List.range (rowBlocks (shpRows s.g.shp))).map fun k =>
        { no := s.g.storeNo, due := s.g.xs.ic + 12, pc := s.g.xs.grpStart + BitVec.ofNat 32 (4 * s.g.xs.idx), grp := s.g.retired,
          vec := true, blk := k, win := s.g.win
          rows := ((List.range (shpRows s.g.shp)).filter fun r => r / 8 = k).map fun r =>
            (s.seq.getX a + BitVec.ofNat 64 r * s.seq.getX b, (rowLanes s.g v r).flatMap fun l => leBytes 4 l.toNat) })

/-- R151, R153, R329, R332: the queue words that act. QPUSH and QPUSHB append an entry that is available from the next cycle, an entry
for Q14 closing the budget window; QPOP removes the head and writes it with latency 1, QPEEK writes it, QCNT writes the number of
entries that pops could take. No other queue changes. -/
def Obligations.QueueWordsMoveEntries : Prop :=
  (∀ (s : State) (q : Fin 16) (a : RegNum), s.Acts (.qpush q a) →
    ∃ t, exec (.qpush q a) s = .next t ∧ (t.g.queue q).entries = (s.g.queue q).entries ++ [QEntry.now (s.seq.getX a) s.cyc] ∧
      (∀ n, n ≠ q → t.g.queue n = s.g.queue n) ∧ (q = 14 → s.side = .xs → t.g.win = none ∧ t.g.budget = 0)) ∧
  (∀ (s : State) (p : RegNum) (n : Bool), s.Acts (.qpushb p n) →
    ∃ t, exec (.qpushb p n) s = .next t ∧
      (t.g.queue 8).entries = (s.g.queue 8).entries ++ [QEntry.now (if (s.seq.getP p ^^ n) = true then 1 else 0) s.cyc] ∧
      (∀ m, m ≠ 8 → t.g.queue m = s.g.queue m)) ∧
  (∀ (s : State) (p : RegNum) (n : Bool), s.side = .xs → s.wordTrap (.qpushb p n) =
    some { cause := .illegalOpcode, pc := s.seq.grpStart, word := s.seq.idx, detail := s.seq.raw, shape := false }) ∧
  (∀ (s : State) (q : Fin 16) (d : RegNum), s.Acts (.qpop q d) →
    ∃ t, exec (.qpop q d) s = .next t ∧ (t.g.queue q).entries = (s.g.queue q).entries.drop 1 ∧ (t.g.queue q).lastPop = some s.cyc ∧
      t.seq.pend = s.seq.pend ++ [s.pendOf (1, .x d, (s.g.queue q).head, 0)] ∧ (∀ n, n ≠ q → t.g.queue n = s.g.queue n) ∧
      (q ≠ 13 ∨ s.g.desc.rowBudget = 0 → t.g.win = s.g.win ∧ t.g.budget = s.g.budget) ∧
      (∀ (e : QEntry) (rest : List QEntry) (row : Nat), q = 13 → s.g.desc.rowBudget ≠ 0 → (s.g.queue 13).entries = e :: rest →
        e.tag = some row → t.g.win = some row ∧
          t.g.budget = if s.g.win = some row then s.g.budget else s.g.desc.rowBudget)) ∧
  (∀ (s : State) (q : Fin 16) (d : RegNum), s.Acts (.qpeek q d) →
    exec (.qpeek q d) s = .next ((s.ready (.qpeek q d)).withResults [(1, .x d, (s.g.queue q).head, 0)])) ∧
  (∀ (s : State) (q : Fin 16) (d : RegNum), s.Acts (.qcnt q d) →
    ∃ t, exec (.qcnt q d) s = .next t ∧ t.g.queues = s.g.queues ∧
      t.seq.pend = s.seq.pend ++ [s.pendOf (1, .x d,
        (s.loggedRead s.focus (BitVec.ofNat 64 ((s.g.queue q).entries.takeWhile fun e => e.ready && e.born < s.cyc).length)).2, 0)])

/-- R152, R223, R236, R239: the words by which the AS asks for memory that act. LDQ, AGLD and AGGATH reserve an entry at the tail of
their queue and issue one numbered read, AGLD moving its stream on by one element; AGDEF issues the read of a descriptor, and PGREF its
question to the page's home die. -/
def Obligations.AccessSequencerReadsAreIssued : Prop :=
  (∀ (s : State) (q : Fin 16) (a : RegNum) (z : Size) (x : Bool) (o : BitVec 9), s.Acts (.ldq q a z x o) →
    ∃ t, exec (.ldq q a z x o) s = .next t ∧ t.g.readNo = s.g.readNo + 1 ∧
      (t.g.queue q).entries = (s.g.queue q).entries ++ [{ val := 0, ready := false, born := 0, tag := none, fill := s.g.readNo }] ∧
      t.g.asReads = s.g.asReads ++ [.queue s.g.readNo s.cyc s.seq.grpStart s.g.retired (Fin.ofNat 8 q.val)
        (s.seq.getX a + BitVec.ofInt 64 (o.toInt * (sizeBytes z : Int))) 0 (8 * sizeBytes z) x
        (s.readPieces s.g.bank.pd (s.seq.getX a + BitVec.ofInt 64 (o.toInt * (sizeBytes z : Int))) (sizeBytes z))]) ∧
  (∀ (s : State) (k : Fin 32) (q : Fin 16), s.Acts (.agld k q) →
    ∃ t, exec (.agld k q) s = .next t ∧ t.g.readNo = s.g.readNo + 1 ∧
      (t.g.queue q).entries = (s.g.queue q).entries ++ [{ val := 0, ready := false, born := 0, tag := none, fill := s.g.readNo }] ∧
      t.g.asReads = s.g.asReads ++ [.queue s.g.readNo s.cyc s.seq.grpStart s.g.retired (Fin.ofNat 8 q.val)
        (agPlace s.g.ags[k] (agPos s.g.ags[k] % agTotal s.g.ags[k])).1 (agPlace s.g.ags[k] (agPos s.g.ags[k] % agTotal s.g.ags[k])).2
        (agBits s.g.ags[k]) false
        (s.readPieces s.g.bank.pd (agPlace s.g.ags[k] (agPos s.g.ags[k] % agTotal s.g.ags[k])).1
          (elemBytes (agPlace s.g.ags[k] (agPos s.g.ags[k] % agTotal s.g.ags[k])).2 (agBits s.g.ags[k])))] ∧
      agPos t.g.ags[k] = (agPos s.g.ags[k] % agTotal s.g.ags[k] + 1) % agTotal s.g.ags[k] % 2 ^ 48 ∧
      (∀ m, m ≠ k → t.g.ags[m] = s.g.ags[m])) ∧
  (∀ (s : State) (k : Fin 32) (q : Fin 16) (a : RegNum), s.Acts (.aggath k q a) →
    ∃ t, exec (.aggath k q a) s = .next t ∧ t.g.readNo = s.g.readNo + 1 ∧ t.g.ags = s.g.ags ∧
      (t.g.queue q).entries = (s.g.queue q).entries ++ [{ val := 0, ready := false, born := 0, tag := none, fill := s.g.readNo }] ∧
      t.g.asReads = s.g.asReads ++ [.queue s.g.readNo s.cyc s.seq.grpStart s.g.retired (Fin.ofNat 8 q.val)
        (agPlace s.g.ags[k] ((s.seq.getX a).toNat % agTotal s.g.ags[k])).1 (agPlace s.g.ags[k] ((s.seq.getX a).toNat % agTotal s.g.ags[k])).2
        (agBits s.g.ags[k]) false
        (s.readPieces s.g.bank.pd (agPlace s.g.ags[k] ((s.seq.getX a).toNat % agTotal s.g.ags[k])).1
          (elemBytes (agPlace s.g.ags[k] ((s.seq.getX a).toNat % agTotal s.g.ags[k])).2 (agBits s.g.ags[k])))]) ∧
  (∀ (s : State) (k : Fin 32) (a : RegNum), s.Acts (.agdef k a) →
    ∃ t, exec (.agdef k a) s = .next t ∧ t.g.readNo = s.g.readNo + 1 ∧ t.g.ags = s.g.ags ∧
      t.g.asReads = s.g.asReads ++ [.stream s.g.readNo s.cyc s.seq.grpStart s.g.retired k (s.seq.getX a)
        (s.readPieces s.g.bank.pd (s.seq.getX a) 128)]) ∧
  (∀ (s : State) (d a : RegNum), s.Acts (.pgref d a) →
    ∃ t, exec (.pgref d a) s = .next t ∧ t.g.readNo = s.g.readNo + 1 ∧
      t.g.asReads = s.g.asReads ++ [.pgref s.g.readNo s.cyc s.seq.grpStart d (s.seq.getX a) none])

/-- R237, R238: AGSET replaces the field that it names and AGADV moves the stream along a dimension, by its window offset when that is
the windowed one and by BASE otherwise, inside its page for a KV base; every other descriptor is left as it was. -/
def Obligations.StreamRegistersAreEdited : Prop :=
  (∀ (s : State) (k : Fin 32) (a : RegNum) (f : BitVec 7), s.Acts (.agset k a f) →
    ∃ t, exec (.agset k a f) s = .next t ∧ (∀ m, m ≠ k → t.g.ags[m] = s.g.ags[m]) ∧
      (∀ w : Nat, w < 15 → f.toNat = w → agWord t.g.ags[k] w = (s.seq.getX a).toNat) ∧
      (f = 15 → agPos t.g.ags[k] = (s.seq.getX a).toNat % 2 ^ 48) ∧
      (∀ dim : Nat, dim < 10 → f.toNat = 16 + dim →
        agCount t.g.ags[k] dim = (s.seq.getX a).toNat % 2 ^ 24 ∧ agStride t.g.ags[k] dim = agStride s.g.ags[k] dim) ∧
      (∀ dim : Nat, dim < 10 → f.toNat = 32 + dim →
        agStride t.g.ags[k] dim = sext 40 ((s.seq.getX a).toNat % 2 ^ 40) ∧ agCount t.g.ags[k] dim = agCount s.g.ags[k] dim) ∧
      (f = 48 → agWoff t.g.ags[k] = (s.seq.getX a).toNat % 2 ^ 20 ∧ agWmod t.g.ags[k] = agWmod s.g.ags[k])) ∧
  (∀ (s : State) (k : Fin 32) (a : RegNum) (dim : Fin 16), s.Acts (.agadv k a dim) →
    ∃ t, exec (.agadv k a dim) s = .next t ∧ (∀ m, m ≠ k → t.g.ags[m] = s.g.ags[m]) ∧
      (agWen s.g.ags[k] = true → dim.val = agWdim s.g.ags[k] → 0 < agWmod s.g.ags[k] →
        agWoff t.g.ags[k] = (((agWoff s.g.ags[k] : Int) + (s.seq.getX a).toInt) % (agWmod s.g.ags[k] : Int)).toNat ∧
        agBase t.g.ags[k] = agBase s.g.ags[k]) ∧
      (¬(agWen s.g.ags[k] = true ∧ dim.val = agWdim s.g.ags[k]) →
        spaceOf (agBase s.g.ags[k]) ≠ 2 →
        agBase t.g.ags[k] = agBase s.g.ags[k]
          + BitVec.ofInt 64 ((s.seq.getX a).toInt * agStride s.g.ags[k] dim.val * (agBits s.g.ags[k] : Int) / 8)) ∧
      (¬(agWen s.g.ags[k] = true ∧ dim.val = agWdim s.g.ags[k]) → spaceOf (agBase s.g.ags[k]) = 2 →
        (let off := (kvOff (agBase s.g.ags[k]) : Int)
            + (s.seq.getX a).toInt * agStride s.g.ags[k] dim.val * (agBits s.g.ags[k] : Int) / 8
         0 ≤ off → off < 65536 → (kvOff (agBase t.g.ags[k]) : Int) = off ∧
          agBase t.g.ags[k] >>> 16 = agBase s.g.ags[k] >>> 16)))

/-- R241, R242, R243: CMDW writes the next word of its ring, an operand word's being its record's number under the ring count, and
advances the cursor; CMDPUB publishes every word written. -/
def Obligations.RingWordsAreWritten : Prop :=
  (∀ (s : State) (r : Ring) (a : RegNum), s.Acts (.cmdw r a) →
    (∀ op idx k, cmdwSlot r (s.g.ringOf r) = .operand op idx k → (freeRecord (s.g.ringOf r)).isSome) →
    ∃ t, exec (.cmdw r a) s = .next t ∧ (t.g.ringOf r).cursor = (s.g.ringOf r).cursor + 1 ∧
      (t.g.ringOf r).pub = (s.g.ringOf r).pub ∧
      readLE t.mem (ringKey s.focus (s.g.ringOf r) (s.g.ringOf r).cursor) 4 =
        (match cmdwSlot r (s.g.ringOf r), freeRecord (s.g.ringOf r) with
         | .operand _ _ _, some n => (s.g.ringOf r).cursor.toNat % 65536 * 65536 + n.val
         | _, _ => (s.seq.getX a).toNat % 2 ^ 32) ∧
      (∀ op idx k n, cmdwSlot r (s.g.ringOf r) = .operand op idx k → freeRecord (s.g.ringOf r) = some n →
        (t.g.ringOf r).records[n] = some ((s.ready (.cmdw r a)).makeRecord r op idx ((s.g.ringOf r).cursor.setWidth 16)
          (operandWord s.g k (s.seq.getX a))))) ∧
  (∀ (s : State) (r : Ring), s.Acts (.cmdpub r) →
    ∃ t, exec (.cmdpub r) s = .next t ∧ (t.g.ringOf r).pub = (s.g.ringOf r).cursor ∧
      (t.g.ringOf r).cursor = (s.g.ringOf r).cursor)

/-- R202, R204, R205, R207, R209, R214, R354: the vector memory words that act. VLD and VLDX on sound memory sample their bytes at issue and
write each lane of the shape, and end the row group with SOFT_ERROR where they meet an uncorrectable error; VEXTR and VINS move the lane that X[XB] names; VSHAPE writes SHP for the groups after its own; VMASKROW writes ones for the rows
that exist and are LIVE.
That a read in another owner's quarter is counted once for each row of a VLD and each lane of a VLDX is the model's choice (log entry 40).
-/
def Obligations.VectorMemoryResults : Prop :=
  (∀ (s : State) (d a b : RegNum), s.Acts (.vld d a b) →
    let r := s.ready (.vld d a b)
    r.poisonRows (rowAddrs s.g (s.seq.getX a) (s.seq.getX b)) (4 * shpLanes s.g.shp) = none →
    exec (.vld d a b) s = .next ((r.countReads s.g.bank.pd (4 * shpLanes s.g.shp) (rowAddrs s.g (s.seq.getX a) (s.seq.getX b))).withResults (tileResults 5 true ((List.range (shpRows s.g.shp)).map fun i =>
      rowTo s.g d ((List.range (shpLanes s.g.shp)).map fun j =>
        BitVec.ofNat 32 (r.loadLE (s.seq.getX a + BitVec.ofNat 64 i * s.seq.getX b + BitVec.ofNat 64 (4 * j)) 4)) 0)))) ∧
  (∀ (s : State) (d a : RegNum) (v : VOp), s.Acts (.vldx d a v) →
    let r := s.ready (.vldx d a v)
    r.poisonRows (gatherAddrs (s.seq.getX a) (cornerLanes s.g v)) 4 = none →
    exec (.vldx d a v) s = .next ((r.countReads s.g.bank.pd 4 (gatherAddrs (s.seq.getX a) (cornerLanes s.g v))).withResults (tileResults 7 true ((List.range (shpRows s.g.shp)).map fun i =>
      rowTo s.g d ((List.range (shpLanes s.g.shp)).map fun j =>
        BitVec.ofNat 32 (r.loadLE (s.seq.getX a + BitVec.ofNat 64 (4 * (vLane s.g v i j).toNat)) 4)) 0)))) ∧
  (∀ (s : State) (d a b : RegNum) (bad : Word), s.Acts (.vld d a b) →
    (s.ready (.vld d a b)).poisonRows (rowAddrs s.g (s.seq.getX a) (s.seq.getX b)) (4 * shpLanes s.g.shp) = some bad →
    exec (.vld d a b) s = .next (((s.ready (.vld d a b)).softError .xs s.seq.grpStart bad).endWord)) ∧
  (∀ (s : State) (d a : RegNum) (v : VOp) (bad : Word), s.Acts (.vldx d a v) →
    (s.ready (.vldx d a v)).poisonRows (gatherAddrs (s.seq.getX a) (cornerLanes s.g v)) 4 = some bad →
    exec (.vldx d a v) s = .next (((s.ready (.vldx d a v)).softError .xs s.seq.grpStart bad).endWord)) ∧
  (∀ (s : State) (d : RegNum) (v : VOp) (b : RegNum), s.Acts (.vextr d v b) →
    let q := (s.seq.getX b).toNat % 65536 % (shpRows s.g.shp * shpLanes s.g.shp)
    exec (.vextr d v b) s = .next ((s.ready (.vextr d v b)).withResults
      [(2, .x d, (vLane s.g v (q / shpLanes s.g.shp) (q % shpLanes s.g.shp)).setWidth 64, 0)])) ∧
  (∀ (s : State) (d a b : RegNum), s.Acts (.vins d a b) →
    let q := (s.seq.getX b).toNat % 65536 % (shpRows s.g.shp * shpLanes s.g.shp)
    exec (.vins d a b) s = .next ((s.ready (.vins d a b)).withResults
      [(2, .v [{ key := laneKey (s.g.physV d) (q / shpLanes s.g.shp) (q % shpLanes s.g.shp), mask := 0xFFFFFFFF#32,
                 val := (s.seq.getX a).setWidth 32 }], 0, 0)])) ∧
  (∀ (s : State) (r l : Fin 32) (t u : Fin 16), s.Acts (.vshape r l t u) →
    exec (.vshape r l t u) s = .next ((s.ready (.vshape r l t u)).withResults
      [(1, .cr 0x00, BitVec.ofNat 64 ((r.val + 1) * 2 ^ 26 + (l.val + 1) * 2 ^ 20 + t.val * 2 ^ 16 + u.val * 2 ^ 7), 0)])) ∧
  (∀ (s : State) (d a : RegNum), s.Acts (.vmaskrow d a) →
    let r := s.ready (.vmaskrow d a)
    exec (.vmaskrow d a) s = .next (r.withResults (tileResults 2 true ((List.range (shpRows s.g.shp)).map fun i =>
      rowTo s.g d (List.replicate (shpLanes s.g.shp)
        (if (s.seq.getX a).toNat + i < s.g.rowCount ∧ r.rowLive s.focus ((s.seq.getX a).toNat + i) = true then 0xFFFFFFFF#32 else 0)) 0))))

/-- R313, R315, R316: a VTAP that acts on sound operands uses the chunk staged for its site: the last chunk of a block starts the next
block, behind which the block's decision is made pending, and any other moves the site on by one chunk. -/
def Obligations.TapWordMovesItsSite : Prop :=
  ∀ (s : State) (v : VOp) (k : Fin 8), s.Acts (.vtap v k) →
    let r := s.ready (.vtap v k)
    let x := ((s.g.run.map Run.taps).getD [])[k.val]?.getD { layer := 0, d := 1, probeFirst := false, post := false, sslot := 0 }
    let el := tapElems s.g
    let chunk := (s.g.sites[k]).chunk
    ((r.tapBlock k).all fun b =>
      (tapReads (s.g.tapBind b.2.2 k.val) (chunk * el) (min el (x.d - chunk * el))).all fun a => !r.poisoned a.1 a.2) = true →
    ∃ t, exec (.vtap v k) s = .next t ∧ (t.g.sites[k]).ahead = (s.g.sites[k]).ahead - 1 ∧
      (∀ m, m ≠ k → t.g.sites[m] = s.g.sites[m]) ∧
      (x.d ≤ (chunk + 1) * el →
        (t.g.sites[k]).chunk = 0 ∧ (t.g.sites[k]).tcur = min ((s.g.sites[k]).tcur + shpRows s.g.shp) (r.tapTotal s.focus) ∧
        (s.pendOf (16 + rowBlocks (shpRows s.g.shp), .decide k (s.g.sites[k]).tcur (shpRows s.g.shp), 0, 0)) ∈ t.seq.pend) ∧
      ((chunk + 1) * el < x.d → (t.g.sites[k]).chunk = chunk + 1 ∧ (t.g.sites[k]).tcur = (s.g.sites[k]).tcur)

/-- R285, R286, R290, R298, R299: the semaphore words that act. SEMSIG adds and SEMSET sets, SEMSIG on the XS and REL behind the accesses
they follow; SEMRD of a semaphore of the core reads it as it was before the cycle, with latency 1; a remote one writes the answer of
its home; BIND ties a region to a semaphore. -/
def Obligations.SemaphoreWordsActOnTheirSemaphore : Prop :=
  (∀ (s : State) (a : RegNum) (n : Fin 64), s.Acts (.semsigLocal a n) →
    exec (.semsigLocal a n) s = .next (((s.ready (.semsigLocal a n)).release s.focus ⟨s.focus, n, false⟩ s.side.eng
      (if s.side = .xs then 1 else 0) (.add ((s.seq.getX a).setWidth 32))).endWord)) ∧
  (∀ (s : State) (a : RegNum) (n : Fin 64), s.Acts (.semsetLocal a n) →
    exec (.semsetLocal a n) s = .next (((s.ready (.semsetLocal a n)).release s.focus ⟨s.focus, n, false⟩ s.side.eng 0
      (.set ((s.seq.getX a).setWidth 32))).endWord)) ∧
  (∀ (s : State) (a b : RegNum) (o : SemName), s.Acts (.semsigRemote a b) → s.syncName s.focus (s.seq.getX b) = some o →
    exec (.semsigRemote a b) s = .next (((s.ready (.semsigRemote a b)).release s.focus o s.side.eng
      (if s.side = .xs then 1 else 0) (.add ((s.seq.getX a).setWidth 32))).endWord)) ∧
  (∀ (s : State) (a b : RegNum) (o : SemName), s.Acts (.semsetRemote a b) → s.syncName s.focus (s.seq.getX b) = some o →
    exec (.semsetRemote a b) s = .next (((s.ready (.semsetRemote a b)).release s.focus o s.side.eng 0
      (.set ((s.seq.getX a).setWidth 32))).endWord)) ∧
  (∀ (s : State) (m : BitVec 9) (a b : RegNum) (o : SemName), s.Acts (.rel m a b) → s.syncName s.focus (s.seq.getX b) = some o →
    exec (.rel m a b) s = .next (((s.ready (.rel m a b)).release s.focus o s.side.eng m (.add ((s.seq.getX a).setWidth 32))).endWord)) ∧
  (∀ (s : State) (d : RegNum) (n : Fin 64), s.Acts (.semrdLocal d n) →
    exec (.semrdLocal d n) s = .next ((s.ready (.semrdLocal d n)).withResults
      [(1, .x d, ((s.g.sems[n]).sample s.cyc).setWidth 64, 0)])) ∧
  (∀ (s : State) (d b : RegNum) (o : SemName), s.Acts (.semrdRemote d b) → s.syncName s.focus (s.seq.getX b) = some o →
    ∃ t, exec (.semrdRemote d b) s = .next t ∧
      (o.core = s.focus → t.seq.pend = s.seq.pend ++ [s.pendOf (1, .x d, ((s.g.sems[o.num]).sample s.cyc).setWidth 64, 0)]) ∧
      (∀ v, o.core ≠ s.focus → s.seq.remote = .answered v →
        t.seq.pend = s.seq.pend ++ [s.pendOf (1, .x d, (s.loggedRead s.focus (v.setWidth 64)).2, 0)] ∧ t.seq.remote = .idle)) ∧
  (∀ (s : State) (k : Fin 32) (a : RegNum) (o : SemName), s.Acts (.bind k a) → s.syncName s.focus (s.seq.getX a) = some o →
    ∃ t, exec (.bind k a) s = .next t ∧ t.g.binds = Tab.set none s.g.binds k.val (some o))

/-- R285, R298: a release whose accesses are performed, behind no earlier update of its issuer to the same semaphore, is made at once:
at home it steps the semaphore, elsewhere it leaves as a message to the home; any other is kept until then. A semaphore's update
is seen by samples of later cycles only. -/
def Obligations.ReleasesWaitForTheirAccesses : Prop :=
  (∀ (s : State) (c : CoreId) (o : SemName) (e : Eng) (mask : BitVec 9) (u : SemUpd),
    let r : Release := { obj := o, upd := u, issuer := e, before := s.beforeNow c mask, covers := s.covers c o }
    let behind := (s.coreAt c).g.releases.any fun q => q.issuer = e && q.obj.core = o.core && q.obj.num = o.num
    (behind = false → s.releaseReady c r = true → o.core ≠ c → s.release c o e mask u =
      { s with net := s.net ++ [s.flightOf c (engPath e) (some o.core) (.sem o u)] }) ∧
    (behind = false → s.releaseReady c r = true → o.core = c → s.replay.mode = .off →
      ((s.release c o e mask u).coreAt c).g.sems[o.num]
        = ((s.coreAt c).g.sems[o.num]).step (s.coreAt c).cycle { rank := semRank c c e, upd := u, eng := e, core := c }) ∧
    (behind = true ∨ s.releaseReady c r = false →
      ((s.release c o e mask u).coreAt c).g.releases = (s.coreAt c).g.releases ++ [r] ∧
      ((s.release c o e mask u).coreAt c).g.sems = (s.coreAt c).g.sems ∧ (s.release c o e mask u).net = s.net)) ∧
  (∀ (m : Sem) (now : Nat) (st : SemStep), m.at_ ≠ now →
    (m.step now st).sample now = m.value ∧
    (m.step now st).value = (match st.upd with
      | .add v => m.value + v
      | .set v => v) ∧
    ∀ later, later ≠ now → (m.step now st).sample later = (m.step now st).value)

/-- R291, R292, R300: TOKPOP takes the head of its neighbour's FIFO and TOKPUSH reserves a place behind its own, until the stores issued
before it are performed; a FENCE that stops its sequencer does nothing more once it has waited, and any other holds back the later
commands of the engines that it names.
That an AFTER set with ALD stops the sequencer too is the model's reading (log entry 33). -/
def Obligations.TokenAndFenceWords : Prop :=
  (∀ (s : State) (d : Side), s.Acts (.tokpop d) →
    ∃ t, exec (.tokpop d) s = .next t ∧ (t.g.fifos[popFifo .xs d]).toks = (s.g.fifos[popFifo .xs d]).toks.drop 1 ∧
      (∀ m, m ≠ popFifo .xs d → t.g.fifos[m] = s.g.fifos[m])) ∧
  (∀ (s : State) (d : Side), s.Acts (.tokpush d) →
    ∃ t, exec (.tokpush d) s = .next t ∧
      (t.g.fifos[pushFifo .xs d]).toks = (s.g.fifos[pushFifo .xs d]).toks ++ [.reserved s.g.storeNo] ∧
      (∀ m, m ≠ pushFifo .xs d → t.g.fifos[m] = s.g.fifos[m])) ∧
  (∀ (s : State) (b a : BitVec 9), s.Acts (.fence b a) → fenceStops s.side a = true →
    exec (.fence b a) s = .next ((s.ready (.fence b a)).withResults [])) ∧
  (∀ (s : State) (b a : BitVec 9), s.Acts (.fence b a) → fenceStops s.side a = false →
    ∃ t, exec (.fence b a) s = .next t ∧ t.g.fences = s.g.fences ++ [{ before := s.beforeNow s.focus b, after := a }])

/-- R258, R259: ABALLOC that acts takes the least run of free banks, zeroed and REDUNDANT, when the node's share allows it, and otherwise
answers all ones and takes none; ABFREE that acts on banks it may free makes them FREE. -/
def Obligations.BanksAreAllocatedAndFreed : Prop :=
  (∀ (s : State) (d : RegNum) (n : BitVec 9) (b : Nat), s.Acts (.aballoc d n) → s.g.held + (n.toNat + 1) ≤ s.g.desc.banks →
    freeRun s.g (n.toNat + 1) = some b →
    ∃ t, exec (.aballoc d n) s = .next t ∧ t.g.held = s.g.held + (n.toNat + 1) ∧
      t.seq.pend = s.seq.pend ++ [s.pendOf (1, .x d, BitVec.ofNat 64 b, 0)] ∧
      (∀ k, b ≤ k → k < b + (n.toNat + 1) → Tab.get Bank.free t.g.banks k = { status := .redundant 0, tile := TileState.zero, written := false, lent := false }) ∧
      (∀ e ∈ t.g.acc, e.1 < b * 128 ∨ (b + (n.toNat + 1)) * 128 ≤ e.1)) ∧
  (∀ (s : State) (d : RegNum) (n : BitVec 9), s.Acts (.aballoc d n) →
    (s.g.desc.banks < s.g.held + (n.toNat + 1) ∨ freeRun s.g (n.toNat + 1) = none) →
    exec (.aballoc d n) s = .next ((s.ready (.aballoc d n)).withResults [(1, .x d, BitVec.allOnes 64, 0)])) ∧
  (∀ (g : Group) (n b : Nat), freeRun g n = some b →
    (∀ k, k < n → (Tab.get Bank.free g.banks (b + k)).status = .free) ∧ b + n ≤ 512 ∧
    ∀ c, c < b → ∃ k, k < n ∧ (Tab.get Bank.free g.banks (c + k)).status ≠ .free) ∧
  (∀ (s : State) (a : RegNum) (n : BitVec 9), s.Acts (.abfree a n) → s.abfreeBad (s.seq.getX a).toNat (n.toNat + 1) = none →
    ∃ t, exec (.abfree a n) s = .next t ∧ t.g.held = s.g.held - (n.toNat + 1) ∧
      (∀ k, (s.seq.getX a).toNat ≤ k → k < (s.seq.getX a).toNat + (n.toNat + 1) → (Tab.get Bank.free t.g.banks k).status = .free))

/-- R325, R326, R327, R328, R354: RNGDRAW on a sound row record writes the draw of its row's stream, whole or as the f32 of its top 24 bits,
and steps the stream once; RNGSKIP steps it as often as X[XB] says, and counts them, and does nothing for 0. Where the stream is read
from a record with an uncorrectable error, the row group ends with SOFT_ERROR. -/
def Obligations.RandomWordsStepTheStream : Prop :=
  (∀ (s : State) (d a : RegNum), s.Acts (.rngdrawRaw d a) → (s.ready (.rngdrawRaw d a)).rngPoison (s.seq.getX a).toNat = none →
    let st := (s.ready (.rngdrawRaw d a)).streamOf (s.seq.getX a).toNat
    exec (.rngdrawRaw d a) s = .next ((s.ready (.rngdrawRaw d a)).withResults
      [(4, .x d, (st.1.s1 * 5).rotateLeft 7 * 9, 0), (4, .rng (s.seq.getX a).toNat st.1.step (st.2 + 1), 0, 0)])) ∧
  (∀ (s : State) (d a : RegNum), s.Acts (.rngdrawUnit d a) → (s.ready (.rngdrawUnit d a)).rngPoison (s.seq.getX a).toNat = none →
    let st := (s.ready (.rngdrawUnit d a)).streamOf (s.seq.getX a).toNat
    exec (.rngdrawUnit d a) s = .next ((s.ready (.rngdrawUnit d a)).withResults
      [(4, .x d, BitVec.ofNat 64
          (floatFinish NumCtl.plain .f32 (.fin false (((st.1.s1 * 5).rotateLeft 7 * 9).toNat / 2 ^ 40) (-24) false)).1, 0),
        (4, .rng (s.seq.getX a).toNat st.1.step (st.2 + 1), 0, 0)])) ∧
  (∀ (s : State) (a b : RegNum), s.Acts (.rngskip a b) →
    let st := (s.ready (.rngskip a b)).streamOf (s.seq.getX a).toNat
    (s.seq.getX b = 0 → exec (.rngskip a b) s = .next ((s.ready (.rngskip a b)).withResults [])) ∧
    (s.seq.getX b ≠ 0 → (s.ready (.rngskip a b)).rngPoison (s.seq.getX a).toNat = none →
      exec (.rngskip a b) s = .next ((s.ready (.rngskip a b)).withResults
        [(8, .rng (s.seq.getX a).toNat (Nat.repeat RngState.step (s.seq.getX b).toNat st.1) (st.2 + s.seq.getX b), 0, 0)]))) ∧
  (∀ (s : State) (i : Instr) (a : RegNum) (bad : Word),
    ((∃ d, i = .rngdrawRaw d a) ∨ (∃ d, i = .rngdrawUnit d a) ∨ ∃ b, i = .rngskip a b ∧ s.seq.getX b ≠ 0) → s.Acts i →
    (s.ready i).rngPoison (s.seq.getX a).toNat = some bad →
    exec i s = .next (((s.ready i).softError .xs s.seq.grpStart bad).endWord))

/-- R113, R83, R350, R348, R360, R373: the modifier word gives its fields to the next word; RDCR reads and WRCR writes a control
register, with latency 1; FRQPOP removes the head of the store-fault queue and writes its two words; ROWMASK traps its row; EXIT
ends the fetching of its sequencer, and on the XS of a row group that holds banks ends the row group with BANK_LEAK and their count
instead; YIELD of a row group with a LIVE row asks for a halt when a save frame is free, and is counted otherwise. -/
def Obligations.SystemWordsAct : Prop :=
  (∀ (s : State) (m : Modifier), exec (.modifier m) s = .next (s.modSeq fun q => { q with mod := some m })) ∧
  (∀ (s : State) (d : RegNum) (c : Fin 128), s.Acts (.rdcr d c) →
    ∃ t, exec (.rdcr d c) s = .next t ∧
      t.seq.pend = s.seq.pend ++ [s.pendOf (1, .x d,
        if loggedCr c.val then (s.loggedRead s.focus (s.readCr c.val)).2 else s.readCr c.val, 0)]) ∧
  (∀ (s : State) (a : RegNum) (c : Fin 128), s.Acts (.wrcr a c) →
    exec (.wrcr a c) s = .next ((s.ready (.wrcr a c)).withResults [(1, .cr c.val, s.seq.getX a, 0)])) ∧
  (∀ (s : State) (d : RegNum), s.Acts (.frqpop d) →
    ∃ t, exec (.frqpop d) s = .next t ∧ t.g.faultQ = s.g.faultQ.drop 1 ∧ t.g.faultLost = false ∧
      t.seq.pend = s.seq.pend ++ [s.pendOf (1, .x d, (faultWords s.g).1, 0), s.pendOf (1, .x (d + 1), (faultWords s.g).2, 0)]) ∧
  (∀ (s : State) (a : RegNum), s.Acts (.rowmask a) →
    let v := (s.seq.getX a).toNat
    exec (.rowmask a) s = .next (((s.ready (.rowmask a)).rowTrap s.focus (fld v 32 10) (fld v 56 8) 0 0 (fld v 16 16) 0).endWord)) ∧
  (∀ (s : State), s.Acts .exit → (s.side = .as ∨ s.g.held = 0) →
    exec .exit s = .next (((s.ready .exit).modSeq fun q => { q with exited := true }).withResults [])) ∧
  (∀ (s : State), s.Acts .exit → s.side = .xs → s.g.held ≠ 0 →
    ∃ t, exec .exit s = .next t ∧
      t = ((s.ready .exit).countIssued.terminate s.focus (termRecord 0x08 .xs false s.seq.grpStart (BitVec.ofNat 32 s.g.held))).endWord ∧
      ∀ c, c ≠ s.focus → (t.coreAt c).g = (s.coreAt c).g) ∧
  (∀ (s : State), s.Acts .yield → (s.ready .yield).anyLive s.focus = true →
    ∃ t, exec .yield s = .next t ∧
      (s.frameFree s.focus = true → t.cur.haltReq = some (s.cur.haltReq.getD .yield) ∧ t.cur.refusedYields = s.cur.refusedYields) ∧
      (s.frameFree s.focus = false → t.cur.haltReq = s.cur.haltReq ∧ t.cur.refusedYields = s.cur.refusedYields + 1))



/-- R84, R88, R101, R115, R288: a word with a false guard has no effect, except that a vector word or VTAP takes its pipe all the
same. A word issued by itself that raises a cause takes it, and has no other effect; one that needs a pipe, the divider or a
store-queue entry that is not free stays where it is; one that waits on something outside its sequencer has its wait counted, until
the count would exceed WAITMAX. -/
def Obligations.WordsRaiseHoldOrWait : Prop :=
  (∀ (s : State) (i : Instr), i.isWord = true → i.isModifier = false → s.guardTrue i = false →
    (s.seq.passed = true ∨ (s.wordTrap i = none ∧ s.pipeHold [i] = false)) →
      exec i s = .next ((s.takePipe i).withResults [])) ∧
  (∀ (s : State) (i : Instr), i.isWord = true → i.isModifier = false → s.seq.passed = false →
    (∀ t, s.wordTrap i = some t → exec i s = .next (s.takeTrap t s.seq.pc)) ∧
    (s.wordTrap i = none → (s.pipeHold [i] = true ∨ (s.guardTrue i = true ∧ s.wordHold i = true)) → exec i s = .next (s.askReady s i).stayPut) ∧
    (s.wordTrap i = none → s.pipeHold [i] = false → s.guardTrue i = true → s.wordHold i = false → ∀ w, s.waitOf i = some w →
      (s.seq.waited < s.g.waitMax → ∃ t, exec i s = .next t ∧ t.seq.waited = s.seq.waited + 1 ∧ t.seq.waitKind = w.1.code ∧
        t.seq.waitObj = w.2 ∧ t.seq.pc = s.seq.grpStart ∧ t.seq.pend = s.seq.pend ∧ SameRegs s.seq t.seq ∧ SameMemory s t ∧
        (s.seq.waitIdx = s.seq.idx → s.seq.waitKind = w.1.code → s.seq.waitObj = w.2 → t.mem = s.mem)) ∧
      (s.g.waitMax ≤ s.seq.waited → exec i s = .next (s.timeOut w))))

/-- R100: a word that is not legal on the sequencer that fetches it raises ILLEGAL_OPCODE: on the AS every word of classes 4 and 5, the
XS words of classes 2, 3 and 6, and all system words but RDCR, WRCR, EXIT and BKPT; on the XS the AS words of class 3.
The AS ends its row group by it. -/
def Obligations.WordsOfTheOtherSequencerAreIllegal : Prop :=
  (∀ (s : State) (i : Instr), s.side = .as →
    (i.cls = some .c4 ∨ i.cls = some .c5 ∨ (∃ n o, i = .brq n o) ∨ (∃ b a z o, i = .st b a z o) ∨ (∃ d a b, i = .vld d a b) ∨
      (∃ v a b, i = .vst v a b) ∨ (∃ d a v, i = .vldx d a v) ∨ (∃ d v b, i = .vextr d v b) ∨ (∃ d a b, i = .vins d a b) ∨
      (∃ r l t u, i = .vshape r l t u) ∨ (∃ v k, i = .vtap v k) ∨ (∃ d a, i = .vmaskrow d a) ∨ (∃ d, i = .tokpop d) ∨
      (∃ d, i = .tokpush d) ∨ i = .sdrain ∨ (∃ d n, i = .aballoc d n) ∨ (∃ a n, i = .abfree a n) ∨ (∃ d a, i = .rngdrawRaw d a) ∨
      (∃ d a, i = .rngdrawUnit d a) ∨ (∃ a b, i = .rngskip a b) ∨ (∃ n, i = .trap n) ∨ i = .rett ∨ i = .termg ∨ i = .yield ∨
      i = .ctxsw ∨ (∃ d, i = .frqpop d) ∨ ∃ a, i = .rowmask a) →
    s.wordTrap i = some { cause := .illegalOpcode, pc := s.seq.grpStart, word := s.seq.idx, detail := s.seq.raw, shape := false } ∧
    (s.seq.passed = false →
      exec i s = .next (s.terminate s.focus (termRecord 0x01 .as false s.seq.grpStart s.seq.raw)))) ∧
  (∀ (s : State) (i : Instr), s.side = .xs →
    ((∃ q a z x o, i = .ldq q a z x o) ∨ (∃ p n, i = .qpushb p n) ∨ (∃ k a, i = .agdef k a) ∨ (∃ k a f, i = .agset k a f) ∨
      (∃ k a m, i = .agadv k a m) ∨ (∃ k q, i = .agld k q) ∨ (∃ k q a, i = .aggath k q a) ∨ (∃ d a, i = .pgref d a) ∨
      (∃ r a, i = .cmdw r a) ∨ ∃ r, i = .cmdpub r) →
    s.wordTrap i = some { cause := .illegalOpcode, pc := s.seq.grpStart, word := s.seq.idx, detail := s.seq.raw, shape := false } ∧
    (s.seq.passed = false → exec i s = .next (s.takeTrap
      { cause := .illegalOpcode, pc := s.seq.grpStart, word := s.seq.idx, detail := s.seq.raw, shape := false } s.seq.pc)))

/-- R148, R149, R138: a local load outside the row area and every region with read access raises REGION_UNDECLARED, and at an address
that is no multiple of its size ALIGN, a store outside the row area and every region REGION_UNDECLARED, with the low half of the
address in DETAIL; a register target that is no multiple of 4 raises ALIGN. -/
def Obligations.LoadsAndStoresAreChecked : Prop :=
  (∀ (s : State) (d a : RegNum) (z : Size) (x : Bool) (o : BitVec 7),
    let p : Word := s.seq.getX a + BitVec.ofInt 64 (o.toInt * (sizeBytes z : Int))
    let raise : Cause → Option Trap := fun c =>
      some { cause := c, pc := s.seq.grpStart, word := s.seq.idx, detail := p.setWidth 32, shape := false }
    (rangeLocal s.focus (p, sizeBytes z) = false ∨
      (checkRegion s.g s.focus p (sizeBytes z) .read = false ∧ inRowArea s.g s.focus p (sizeBytes z) = false) →
      s.wordTrap (.ld d a z x o) = raise .regionUndeclared) ∧
    (rangeLocal s.focus (p, sizeBytes z) = true →
      (checkRegion s.g s.focus p (sizeBytes z) .read = true ∨ inRowArea s.g s.focus p (sizeBytes z) = true) →
      s.wordTrap (.ld d a z x o) = if p.toNat % sizeBytes z = 0 then none else raise .align)) ∧
  (∀ (s : State) (b a : RegNum) (z : Size) (o : BitVec 7), s.side = .xs →
    let p : Word := s.seq.getX a + BitVec.ofInt 64 (o.toInt * (sizeBytes z : Int))
    let raise : Cause → Option Trap := fun c =>
      some { cause := c, pc := s.seq.grpStart, word := s.seq.idx, detail := p.setWidth 32, shape := false }
    (spaceOf p = 2 ∨ (inAnyRegion s.g s.focus p (sizeBytes z) = false ∧ inRowArea s.g s.focus p (sizeBytes z) = false) →
      s.wordTrap (.st b a z o) = raise .regionUndeclared) ∧
    (spaceOf p ≠ 2 → (inAnyRegion s.g s.focus p (sizeBytes z) = true ∨ inRowArea s.g s.focus p (sizeBytes z) = true) →
      s.wordTrap (.st b a z o) = if p.toNat % sizeBytes z = 0 then none else raise .align)) ∧
  (∀ (s : State) (i : Instr) (a : RegNum), (i = .jr a ∨ i = .ret a ∨ ∃ d, i = .callr d a) → (s.seq.getX a).toNat % 4 ≠ 0 →
    s.wordTrap i = some { cause := .align, pc := s.seq.grpStart, word := s.seq.idx, detail := (s.seq.getX a).setWidth 32, shape := false })

/-- R340, R343, R345, R346: TRAP raises SOFTWARE on the XS and BKPT raises BREAKPOINT, with the immediate in DETAIL. Where no
handler runs, TRAPVEC is not 0, no window is open for TRAP's cause and no debug stop takes BKPT's, that is the entry of the handler:
TRAPCAUSE, TRAPINFO, the return point behind the group, and fetch at TRAPVEC. -/
def Obligations.TrapAndBreakpointWords : Prop :=
  (∀ (s : State) (n : BitVec 16), s.side = .xs → s.seq.passed = false → s.guardTrue (.trap n) = true →
    exec (.trap n) s = .next (s.takeTrap
      { cause := .software, pc := s.seq.grpStart, word := s.seq.idx, detail := n.setWidth 32, shape := false } s.seq.pc)) ∧
  (∀ (s : State) (n : BitVec 16), s.seq.passed = false → s.guardTrue (.bkpt n) = true →
    exec (.bkpt n) s = .next (s.takeTrap
      { cause := .breakpoint, pc := s.seq.grpStart, word := s.seq.idx, detail := n.setWidth 32, shape := false } s.seq.pc)) ∧
  (∀ (s : State) (i : Instr) (n : BitVec 16), (i = .trap n ∧ s.g.win = none) ∨ (i = .bkpt n ∧ s.bkptStops = false) →
    s.side = .xs → s.seq.passed = false → s.guardTrue i = true → s.g.handler = none → s.g.trapVec ≠ 0 → s.g.trapVec.toNat < 2 ^ 32 →
    s.g.xs.exited = false →
      ∃ t, exec i s = .next t ∧ t.g.handler = some ⟨s.seq.pc⟩ ∧ t.g.trapCause = (if i = .trap n then 0x0D#8 else 0x0E#8) ∧
        t.g.trapInfo.extractLsb' 48 16 = s.seq.grpStart.setWidth 16 ∧ t.g.trapInfo.extractLsb' 45 3 = BitVec.ofNat 3 s.seq.idx ∧
        t.g.trapInfo.extractLsb' 0 32 = n.setWidth 32 ∧ t.seq.pc = s.g.trapVec.setWidth 32 ∧ t.seq.bubble = 1 ∧ t.mem = s.mem)

/-- R346: RETT in handler mode leaves it, clears TRAPCAUSE and TRAPINFO and resumes at the return point after two hold cycles, or, with
store-fault records in the queue, enters the handler again with the head record's cause and the same return point; every register is
as it was. -/
def Obligations.ReturnFromTheHandler : Prop :=
  ∀ (s : State) (h : Handler), s.side = .xs → s.Acts .rett → s.g.handler = some h →
    ∃ t, exec .rett s = .next t ∧ t.seq.bubble = 2 ∧ t.seq.took = true ∧ SameRegs s.seq t.seq ∧ SameLanes s.g t.g ∧ SameMemory s t ∧
      (s.g.faultQ = [] → t.g.handler = none ∧ t.g.trapCause = 0 ∧ t.g.trapInfo = 0 ∧ t.seq.pc = h.ret) ∧
      (∀ r rest, s.g.faultQ = r :: rest → t.g.handler = some h ∧ t.g.faultQ = s.g.faultQ ∧
        t.g.trapCause = (if r.cause = 6 then 0x06#8 else 0x07#8) ∧
        t.g.trapInfo = BitVec.ofNat 64 (r.pc.toNat % 65536 * 2 ^ 48 + s.g.faultQ.length % 2 ^ 32) ∧
        t.seq.pc = (if s.g.trapVec.toNat < 2 ^ 32 then s.g.trapVec.setWidth 32 else 0xFFFFFFFC#32))

/-- R346, R352: TERMG that acts ends the row group with the cause, PC and DETAIL being handled, or with SOFTWARE at its group outside the
handler: where no dump is asked for and nothing of the row group that outlives it is under way, its core is free, no store, release or
command of it is left, and ENDED with that record is on its way to the Lantern. -/
def Obligations.TermgEndsTheRowGroup : Prop :=
  ∀ (s : State), s.side = .xs → s.Acts .termg →
    let term := if s.g.handler.isSome then
        termRecord s.g.trapCause.toNat .xs false (BitVec.ofNat 32 (fld s.g.trapInfo.toNat 48 16)) (s.g.trapInfo.setWidth 32)
      else termRecord 0x0D .xs false s.seq.grpStart 0
    exec .termg s = .next (((s.ready .termg).countIssued.terminate s.focus term).endWord) ∧
    (s.g.run.isSome = true → s.cur.ending = none → s.dumpPds.contains s.g.bank.pd.toNat = false →
      (s.net.any fun f => s.ownFlight s.focus f && f.survives && s.isSent s.focus f) = false →
      ∃ t rows, exec .termg s = .next t ∧ t.g.run = none ∧ t.g.storeQ = [] ∧ t.g.releases = [] ∧ t.g.me.queue = [] ∧
        t.up[clusterOf s.focus] = (s.up[clusterOf s.focus]).send
          (.ended s.focus s.g.bank.inst .terminated term 0xFFFF (s.g.fsr ||| s.g.flagWord) rows))

/-- R341, R343, R344, R345: a cause that reaches the handler sets TRAPCAUSE and TRAPINFO, records the return point, and fetches at TRAPVEC
in the third cycle; registers, banks, queues and memory are as they were. -/
def Obligations.TrapsEnterTheHandler : Prop :=
  ∀ (s : State) (t : Trap) (ret : BitVec 32), s.side = .xs → (t.cause = .breakpoint → s.bkptStops = false) → t.shape = false →
    (t.cause.absorbed = true → s.g.win = none) → s.g.handler = none → s.g.trapVec ≠ 0 → s.g.xs.exited = false →
      let u := s.takeTrap t ret
      u.g.trapCause = BitVec.ofNat 8 t.cause.code ∧
      u.g.trapInfo.extractLsb' 48 16 = t.pc.setWidth 16 ∧ u.g.trapInfo.extractLsb' 45 3 = BitVec.ofNat 3 t.word ∧
      u.g.trapInfo.extractLsb' 32 13 = 0 ∧ u.g.trapInfo.extractLsb' 0 32 = t.detail ∧
      u.g.handler = some ⟨ret⟩ ∧ u.seq.bubble = 1 ∧
      (s.g.trapVec.toNat < 2 ^ 32 → u.seq.pc = s.g.trapVec.setWidth 32) ∧
      u.seq.pend = s.seq.pend ∧ u.g.shp = s.g.shp ∧ u.g.fcr = s.g.fcr ∧ u.g.fsr = s.g.fsr ∧ u.g.vrb = s.g.vrb ∧
      u.g.trapVec = s.g.trapVec ∧ u.g.budget = s.g.budget ∧ u.g.win = s.g.win ∧ u.g.waitMax = s.g.waitMax ∧ u.g.faultQ = s.g.faultQ ∧
      u.g.as_ = s.g.as_ ∧ SameRegs s.seq u.seq ∧ SameLanes s.g u.g ∧ SameBanks s.g u.g ∧ SameUnits s.g u.g ∧ u.mem = s.mem

/-- R331, R340, R341, R352: a cause on the AS, and one on the XS that may not enter the handler, ends the row group, with DBL in handler
mode. A cause that an open window absorbs becomes a row trap of the window's record, and the XS goes on with the next group; a NUMERIC
leaves what the XS is about to do alone. -/
def Obligations.OtherTrapsTerminateOrAreAbsorbed : Prop :=
  (∀ (s : State) (t : Trap) (ret : BitVec 32), s.side = .as → (t.cause = .breakpoint → s.bkptStops = false) →
    s.takeTrap t ret = s.terminate s.focus (termRecord t.cause.code .as false t.pc t.detail)) ∧
  (∀ (s : State) (t : Trap) (ret : BitVec 32), s.side = .xs → (t.cause = .breakpoint → s.bkptStops = false) →
    (t.shape = true ∨ ((t.cause.absorbed = true → s.g.win = none) ∧
      (s.g.handler.isSome = true ∨ s.g.trapVec = 0 ∨ s.g.xs.exited = true))) →
    s.takeTrap t ret = s.terminate s.focus (termRecord t.cause.code .xs s.g.handler.isSome t.pc t.detail)) ∧
  (∀ (cause : Nat) (e : Eng) (dbl : Bool) (pc detail : BitVec 32), cause < 256 →
    (termRecord cause e dbl pc detail).extractLsb' 56 8 = BitVec.ofNat 8 cause ∧
    (termRecord cause e dbl pc detail).extractLsb' 53 3 = BitVec.ofNat 3 e.code ∧
    (termRecord cause e dbl pc detail).getLsbD 52 = dbl ∧ (termRecord cause e dbl pc detail).extractLsb' 48 4 = 0 ∧
    (termRecord cause e dbl pc detail).extractLsb' 32 16 = pc.setWidth 16 ∧
    (termRecord cause e dbl pc detail).extractLsb' 0 32 = detail) ∧
  (∀ (s : State) (t : Trap) (ret : BitVec 32) (row : Nat), s.side = .xs → s.g.win = some row → t.shape = false →
    (t.cause = .illegalOperand ∨ t.cause = .regionUndeclared ∨ t.cause = .align ∨ t.cause = .software ∨ t.cause = .waitTimeout) →
      s.takeTrap t ret = (s.modSeq fun q => { q with pc := ret, waited := 0, waitFrom := 0, mod := none, remote := .idle }).rowTrap s.focus row
        t.cause.code 0 0 (s.rowLen s.focus row - 1) 0) ∧
  (∀ (s : State) (t : Trap) (ret : BitVec 32) (row : Nat), s.side = .xs → s.g.win = some row → t.shape = false → t.cause = .numeric →
    s.takeTrap t ret = s.rowTrap s.focus row 0x0F 0 0 (s.rowLen s.focus row - 1) 0)

/-- R13, R23, R318, R330, R348: a row trap of a row that is not LIVE, or that has trapped, does nothing; any other clears LIVE, sets
TRAPPED, gives Q15 its notice and sends ROWEVENT, and the row group goes on while another row is LIVE. -/
def Obligations.RowTrapsRemoveOneRow : Prop :=
  (∀ (s : State) (c : CoreId) (row cause probe site tok : Nat) (score : Lane),
    (s.rowLive c row = false ∨ row ∈ (s.coreAt c).g.trappedRows) → s.rowTrap c row cause probe site tok score = s) ∧
  (∀ (s : State) (c : CoreId) (row cause probe site tok : Nat) (score : Lane), s.rowLive c row = true →
    row ∉ (s.coreAt c).g.trappedRows → (s.rowLeaves c row 8).anyLive c = true →
      let t := s.rowTrap c row cause probe site tok score
      (t.coreAt c).g.trappedRows = row :: (s.coreAt c).g.trappedRows ∧
      ((t.coreAt c).g.queue 15).entries = ((s.coreAt c).g.queue 15).entries ++
        [QEntry.now (BitVec.ofNat 64 (cause % 256 * 2 ^ 56 + probe % 256 * 2 ^ 48 + site % 8 * 2 ^ 45 + row % 1024 * 2 ^ 32
          + tok % 65536 * 2 ^ 16)) (s.coreAt c).cycle] ∧
      t.up[clusterOf c] = (s.up[clusterOf c]).send (.rowEvent c (s.coreAt c).g.bank.inst (s.rowCtx c row)
        (.trap (BitVec.ofNat 8 cause) (BitVec.ofNat 8 probe) (BitVec.ofNat 3 site) (s.rowPos c row + tok) score)) ∧
      t.rowLive c row = false ∧ t.rowField c row 6 2 / 8 % 2 = 1 ∧
      (∀ key, key < s.rowKey c row 6 ∨ s.rowKey c row 6 + 2 ≤ key → readByte t.mem key = readByte s.mem key))

/-- R352, R353: a termination discards what has not been performed and frees banks and bindings; once nothing of the row group is
under way it sends ENDED with the termination record and frees the core. What was written to memory stays, and other cores run on. -/
def Obligations.TerminationEndsTheRowGroup : Prop :=
  ∀ (s : State) (c : CoreId) (term : Word), (s.coreAt c).g.run.isSome = true → (s.coreAt c).ending = none →
    s.dumpPds.contains (s.coreAt c).g.bank.pd.toNat = false →
      let t := s.terminate c term
      (t.coreAt c).g.xs.pend = [] ∧ (t.coreAt c).g.as_.pend = [] ∧ (t.coreAt c).g.storeQ = [] ∧ (t.coreAt c).g.releases = [] ∧
      (t.coreAt c).g.faultQ = [] ∧ (t.coreAt c).g.banks = [] ∧ (t.coreAt c).g.binds = [] ∧ (t.coreAt c).runs = false ∧
      t.net = s.net.filter (fun f => !s.ownFlight c f || (f.survives && s.isSent c f)) ∧
      (s.tracing c = none → t.mem = s.mem) ∧
      (∀ d, d ≠ c → (s.coreAt d).guest = none → t.coreAt d = s.coreAt d) ∧
      ((s.net.any fun f => s.ownFlight c f && f.survives && s.isSent c f) = true →
        (t.coreAt c).ending = some (.terminated, term, 0xFFFF) ∧ t.up = s.up) ∧
      ((s.net.any fun f => s.ownFlight c f && f.survives && s.isSent c f) = false →
        (t.coreAt c).g.run = none ∧ (t.coreAt c).ending = none ∧
        ∃ rows, t.up[clusterOf c] = (s.up[clusterOf c]).send
          (.ended c (s.coreAt c).g.bank.inst .terminated term 0xFFFF ((s.coreAt c).g.fsr ||| (s.coreAt c).g.flagWord) rows))

/-- R85, R86, R87, R128, R341: the results for registers that are due are written and no longer pending, the last issued prevailing, and
every other register keeps its value; their flags are set in FSR, and one that FCR.TEN enabled raises NUMERIC, with the enabled flags
in DETAIL, except in handler mode and after EXIT. -/
def Obligations.ResultsLandWhenDue : Prop :=
  ∀ (s : State), s.side = .xs →
    (∀ p ∈ s.seq.pend, p.due ≤ s.seq.ic → (∃ r, p.dest = .x r) ∨ (∃ r, p.dest = .p r) ∨ ∃ l, p.dest = .v l) →
      let due := s.seq.pend.filter fun p => p.due ≤ s.seq.ic
      let u := s.writeResults
      (∀ r : RegNum, r ≠ 0 → u.1.seq.getX r = match (due.filter fun p => p.dest = .x r).getLast? with
        | some p => p.val
        | none => s.seq.getX r) ∧
      (∀ r : RegNum, r ≠ 0 → u.1.seq.getPhysP r = match (due.filter fun p => p.dest = .p r).getLast? with
        | some p => p.val != 0
        | none => s.seq.getPhysP r) ∧
      (∀ key, (∀ p ∈ due, ∀ l, p.dest = .v l → ∀ w ∈ l, w.key ≠ key) → u.1.g.lane key = s.g.lane key) ∧
      (∀ key p rest w l, due = rest ++ [p] → p.dest = .v l → l.filter (fun x => x.key = key) = [w] → w.mask = 0xFFFFFFFF#32 →
        u.1.g.lane key = w.val) ∧
      u.1.seq.pend = s.seq.pend.filter (fun p => s.seq.ic < p.due) ∧ u.1.g.fsr = due.foldl (fun f p => f ||| p.flags) s.g.fsr ∧
      u.1.mem = s.mem ∧ u.1.seq.pc = s.seq.pc ∧ u.1.seq.prb = s.seq.prb ∧ u.1.seq.lc = s.seq.lc ∧ u.1.seq.loops = s.seq.loops ∧
      (s.g.handler.isSome = true ∨ s.g.xs.exited = true ∨ (∀ p ∈ due, p.flags.setWidth 5 &&& p.ten = 0#5) → u.2 = none) ∧
      (∀ p ∈ due, p.flags.setWidth 5 &&& p.ten ≠ 0#5 → s.g.handler = none → s.g.xs.exited = false → s.g.run.isSome = true →
        ∃ t, u.2 = some t ∧ t.cause = .numeric ∧ t.word = 0 ∧ t.shape = false ∧
          t.detail = (due.foldl (fun (f : BitVec 5) q => f ||| (q.flags.setWidth 5 &&& q.ten)) 0).setWidth 32 ∧
          ∃ q ∈ due, t.pc = q.pc ∧ q.flags.setWidth 5 &&& q.ten ≠ 0#5 ∧
            ∀ r ∈ due, r.flags.setWidth 5 &&& r.ten ≠ 0#5 → q.ord ≤ r.ord)

/-- R149, R232, R349, R354: a store entry is left alone until it is due. One whose check meets an uncorrectable error in the tables that it
reads ends the row group with SOFT_ERROR (log entry 101). One that fails its check then writes no byte and leaves a record
in the store-fault queue, an exception only outside the handler with the queue empty before; one that passes with bytes in the
core's own scratchpad writes exactly them. -/
def Obligations.StoresAreCheckedWhenDue : Prop :=
  (∀ (s : State), (∀ e ∈ s.g.storeQ, s.g.xs.ic < e.due) → s.checkStores = (s, none)) ∧
  (∀ (s : State) (e : StoreEntry) (a : Word) (cause : Nat), s.g.storeQ = [e] → e.due ≤ s.g.xs.ic → e.win = none →
    s.storePoison e = none → s.storeFault e = some (a, cause) →
      let u := s.checkStores
      u.1.mem = s.mem ∧ u.1.net = s.net ∧ u.1.g.storeQ = [] ∧
      (s.g.faultQ.length < 8 → u.1.g.faultLost = s.g.faultLost ∧ u.1.g.faultQ = s.g.faultQ ++
        [{ addr := a, vec := e.vec, blk := e.blk, cause := cause, pc := e.pc, grp := e.grp }]) ∧
      (8 ≤ s.g.faultQ.length → u.1.g.faultQ = s.g.faultQ ∧ u.1.g.faultLost = true) ∧
      (s.g.handler.isSome = true ∨ s.g.faultQ ≠ [] → u.2 = none) ∧
      (s.g.handler = none → s.g.faultQ = [] → u.2 = some
        { cause := if cause = 6 then .storePerm else .handleBounds, pc := e.pc, word := 0, detail := 1, shape := false })) ∧
  (∀ (s : State) (e : StoreEntry) (bad : Nat), s.g.storeQ = [e] → e.due ≤ s.g.xs.ic → s.storePoison e = some bad →
    s.checkStores = ((s.modG fun g => { g with storeQ := [] }).terminate s.focus
      (termRecord 0x11 .xs s.g.handler.isSome e.pc (BitVec.ofNat 32 bad)), none)) ∧
  (∀ (s : State) (e : StoreEntry) (off : Nat) (bytes : List Byte), s.g.storeQ = [e] → e.due ≤ s.g.xs.ic → s.storeFault e = none →
    e.rows = [(aliasAddr off, bytes)] → off % 8 + bytes.length ≤ 8 → off + bytes.length ≤ 2 ^ 22 →
    (∀ k, k < bytes.length → (s.groupsOf s.focus (off + k)).any (fun g => portHolds g (off + k)) = false) →
      let u := s.checkStores
      u.2 = none ∧ u.1.g.storeQ = [] ∧ u.1.net = s.net ∧
      (∀ k b, bytes[k]? = some b → readByte u.1.mem (sramKey s.focus (off + k)) = b) ∧
      (∀ key, (∀ k, k < bytes.length → key ≠ sramKey s.focus (off + k)) → readByte u.1.mem key = readByte s.mem key))

/-- R83, R84, R92, R97, R141, R342, R372: a step is a turn of the agenda, and with an empty agenda a cycle of the core in focus.
When the group at the XS's fetch offset is one word, it decodes, nothing is due, and the group neither raises a cause, holds nor
waits, that cycle issues the word through `exec`, moves past it or takes the back edge or transfer it ends with, and then gives the
AS and the core's units their cycle, unless a termination of that cycle precedes a word that ends the row group itself; likewise for
the AS. An agenda's event and command run through `exec` too, the start checks of an ME command after the XS's group.
That the AS and then the units follow the XS within a cycle, and that an agenda and a core in focus say whose turn comes, are the
model's choices (log entries 41 and 7). -/
def Obligations.AStepRunsTheDecodedInstruction : Prop :=
  (∀ (s : State) (w : Nat) (i : Instr),
    let a := s.onSeq s.focus .xs
    let e := a.endWait
    let ws := groupWords none [w]
    let b := e.modSeq fun q => { q with grpStart := q.pc }
    s.agenda = [] → s.replay.mode = .off → a.cur.runs = true → s.anyLive s.focus = true → a.cur.haltReq = none → a.seq.exited = false →
    a.seq.bubble = 0 → (∀ p ∈ a.seq.pend, a.seq.ic < p.due) → (∀ x ∈ a.g.storeQ, a.seq.ic < x.due) → a.frozenXs = none → a.heldWait = false →
    (s.onCore s.focus).asStops = none →
    e.groupAt .xs 6 a.seq.pc.toNat = some [w] → decodeWord w = .ok i → i.isModifier = false → rawModifier w = false →
    b.groupTrap ws = none → b.groupHolds ws = false → b.retiredMatch = false →
      step s =
        match b.issueOne w i (a.seq.pc + 4) with
        | .next t =>
          (match State.weighXs s.focus { st := t.endXs e.g true, quiet := e.endXs e.g false, rank := t.issueRank ws s.focus } with
           | .next u => .next u.heldTimeout.endCycle
           | o => o)
        | o => o) ∧
  (∀ (c : CoreId) (x : XsTurn), x.rank = .firm → State.weighXs c x = x.st.afterXs) ∧
  (∀ (s : State) (w : Nat) (i : Instr) (c : CoreId), decodeWord w = .ok i → endsGroup i = false → s.issueRank (groupWords none [w]) c = .firm) ∧
  (∀ (s : State) (w : Nat) (i : Instr),
    let a := s.onSeq s.focus .as
    let ws := groupWords none [w]
    let b := a.modSeq fun q => { q with grpStart := q.pc }
    a.cur.runs = true → a.cur.haltReq = none → a.seq.exited = false → a.seq.bubble = 0 → (∀ p ∈ a.seq.pend, a.seq.ic < p.due) →
    a.groupAt .as 6 a.seq.pc.toNat = some [w] → decodeWord w = .ok i → i.isModifier = false → rawModifier w = false →
    b.interlocked i = false → b.groupTrap ws = none → b.groupHolds ws = false → b.groupWait ws = none →
      s.asCycle =
        match b.issueOne w i (a.seq.pc + 4) with
        | .next t => .next t.endAs
        | o => o) ∧
  (∀ (s : State) (i : Instr) (rest : List Turn), s.replay.mode = .off → s.agenda = .event i :: rest → isEvent i = true →
    step s = exec i { s with agenda := rest }) ∧
  (∀ (s : State) (c : CoreId) (r : Ring) (m : Bool) (rest : List Turn) (k : Nat) (e : Cmd),
    let u : State := { s with agenda := rest, focus := c, ring := r, mig := m }
    s.replay.mode = .off → s.agenda = .engine c r m :: rest → (r = .me → (s.coreAt c).guest = none) → u.atWork = some (k, e) →
    e.phase ≠ .starting → step s = exec e.instr u) ∧
  (∀ (s : State) (k : Nat) (e : Cmd), s.cur.runs = true → ({ s with ring := .me } : State).atWork = some (k, e) → e.phase = .starting →
    s.startMe = exec e.instr { s with ring := .me })

/-- R97, R102 to R114: every well-formed sequencer word decodes from its encoding, with E as given, and a word that decodes is the
encoding of what it decodes to, so that the decoder drops no bit. -/
def Obligations.WordsDecodeFromTheirEncodings : Prop :=
  (∀ (i : Instr) (e : Bool), i.isWord = true → i.wellFormed = true → (i.isModifier = true → e = false) →
    decodeWord (encodeWord e i) = .ok i ∧ encodeWord e i < 2 ^ 32 ∧ bit (encodeWord e i) 31 = e) ∧
  (∀ (w : Nat) (i : Instr), w < 2 ^ 32 → decodeWord w = .ok i →
    i.isWord = true ∧ i.wellFormed = true ∧ encodeWord (bit w 31) i = w)

/-- R116, R117, R118: every well-formed command decodes from its header and argument words on the engine that its CMDOP is assigned to. -/
def Obligations.CommandsDecodeFromTheirEncodings : Prop :=
  ∀ (i : Instr) (eng : StepEngine) (op : Nat) (h : CmdHdr) (own : List Lane), commandParts i = some (eng, op, h, own) →
    i.wellFormed = true →
      decodeCommand eng (encodeHeader op (encodeArgs h own).length h) (encodeArgs h own) = .ok i ∧
      encodeHeader op (encodeArgs h own).length h < 2 ^ 32

/-- R103 to R114, R346, R350, R351: words that the spec writes out decode to the instructions it gives them. -/
def Obligations.WordsOfTheSpecDecode : Prop :=
  decodeWord 0xF400002A = .ok (.trap 42) ∧ decodeWord 0xF5000003 = .ok (.bkpt 3) ∧ decodeWord 0xF4200000 = .ok .rett ∧
  decodeWord 0xF4400000 = .ok .termg ∧ decodeWord 0xF5428000 = .ok (.rowmask 5) ∧ decodeWord 0xF5220000 = .ok (.frqpop 4) ∧
  decodeWord 0xE5800000 = .ok .sdrain ∧ decodeWord 0xB08C5200 = .ok (.st 6 10 .w 0)

/-- R71 to R81, R255, R343: a row group swapped in without RESUME starts with every register at zero but SHP and WAITMAX, no bank, queue,
token, semaphore or store held, outside handler mode, and with both sequencers at offset 0; after package reset no core runs one. -/
def Obligations.ResetLeavesTheSpecsValues : Prop :=
  (∀ (r : RegNum), (Group.fresh.xs.getX r = 0 ∧ Group.fresh.as_.getX r = 0) ∧
    (r ≠ 0 → Group.fresh.xs.getPhysP r = false ∧ Group.fresh.as_.getPhysP r = false)) ∧
  (∀ key, Group.fresh.lane key = 0) ∧
  shpRows Group.fresh.shp = 32 ∧ shpLanes Group.fresh.shp = 32 ∧ shpEty Group.fresh.shp = .flt .f32 ∧ shpDty Group.fresh.shp = .flt .f32 ∧
  Group.fresh.fcr = 0 ∧ Group.fresh.fsr = 0 ∧ Group.fresh.vrb = 0 ∧
  Group.fresh.xs.prb = 0 ∧ (∀ n : Fin 4, Group.fresh.xs.lc[n] = 0) ∧ Group.fresh.trapVec = 0 ∧ Group.fresh.trapCause = 0 ∧
  Group.fresh.trapInfo = 0 ∧ Group.fresh.budget = 0 ∧ Group.fresh.waitMax = 0x01000000 ∧ Group.fresh.retired = 0 ∧
  Group.fresh.handler = none ∧ Group.fresh.xs.pc = 0 ∧ Group.fresh.as_.pc = 0 ∧
  (∀ n, (Group.fresh.queue n).entries = []) ∧ (∀ n : Fin 8, (Group.fresh.fifos[n]).toks = []) ∧ (∀ (n : Fin 64) (now : Nat), (Group.fresh.sems[n]).sample now = 0) ∧
  Group.fresh.storeQ = [] ∧ Group.fresh.faultQ = [] ∧ Group.fresh.held = 0 ∧
  (∀ b, (Tab.get Bank.free Group.fresh.banks b).status = .free) ∧
  (∀ c, (State.reset.coreAt c).g.run = none ∧ (State.reset.coreAt c).cycle = 0 ∧ (State.reset.coreAt c).g.retired = 0) ∧
  State.reset.net = [] ∧ State.reset.insts = [] ∧ State.reset.MemOk ∧ State.reset.mgmt.phase = .boot

/-- R116, R246, R258, R261, R262, R280, R282, R287, R293, R333: the command at work on an engine waits while it may not start. It
then takes its tokens, and on a channel begins at once: it is squashed, or ends the row group by the cause it meets, or has its
units to do and the time of its first step to take. On the ME it so begins after the XS's group of that cycle, and one that is to
migrate then moves where it may. -/
def Obligations.CommandsStartWhenTheyMay : Prop :=
  ∀ (s : State) (i : Instr) (k : Nat) (cmd : Cmd), (commandParts i).isSome = true → isEvent i = false →
    s.atWork = some (k, cmd) → cmd.instr = i →
      (cmd.phase = .queued →
        (s.mayStart k cmd = false → exec i s = .next s) ∧
        (s.mayStart k cmd = true → s.ring = .me →
          exec i s = .next ((s.commandPops cmd).setCmd k { cmd.calm with phase := .starting, migrated := s.mig })) ∧
        (s.mayStart k cmd = true → s.ring ≠ .me → ∃ t, exec i s = .next t ∧ (s.commandPops cmd).Begins t k cmd.calm)) ∧
      (cmd.phase = .starting → s.cur.runs = true →
        (cmd.migrated = false ∨ mmaParts i = none → ∃ t, exec i s = .next t ∧ s.Begins t k { cmd with migrated := false }) ∧
        (∀ e, cmd.migrated = true → mmaParts i = some e → ∃ u, s.Begins u k { cmd with migrated := false } ∧
          exec i s = .next (if cmd.squashed = false ∧ u.cur.runs = true then u.mmaMove i e.1 e.2 k else u)))

/-- R269, R270, R271, R275, R279, R248, R282: MZERO makes a bank REDUNDANT and zero in each step; ANCHOR sets its tile's anchor;
ACCMOV moves a bank's elements, status and tile state in each step, and with Z zeroes what it has left; ACCADD adds each element of
a source bank to its destination's, modulo 2^64 over sum and carries; EPCFG writes an epilogue register; MSIG and CSIG add 1 to
their semaphore. -/
def Obligations.BankCommandsAct : Prop :=
  (∀ (s : State) (h : CmdHdr) (a : Lane) (k : Nat) (cmd : Cmd), s.Works (.mzero h a) k cmd →
    let b := fld a.toNat 23 9 + cmd.progress
    ∃ t, exec (.mzero h a) s = .next t ∧ t.mem = s.mem ∧ t.g.epi = s.g.epi ∧
      (∀ key, t.g.accAt key = if b * 128 ≤ key ∧ key < (b + 1) * 128 then 0 else s.g.accAt key) ∧
      (∀ j, t.g.bankAt j = if j = b then
        { status := .redundant 0, tile := TileState.zero, written := false, lent := (s.g.bankAt j).lent } else s.g.bankAt j)) ∧
  (∀ (s : State) (h : CmdHdr) (a : Lane) (k : Nat) (cmd : Cmd), s.Works (.anchor h a) k cmd →
    let b := fld a.toNat 23 9
    ∃ t, exec (.anchor h a) s = .next t ∧ t.mem = s.mem ∧ t.g.acc = s.g.acc ∧ (∀ j, j ≠ b → t.g.bankAt j = s.g.bankAt j) ∧
      (t.g.bankAt b).status = (s.g.bankAt b).status ∧
      (t.g.bankAt b).tile = { (s.g.bankAt b).tile with anchor := sext 10 (fld a.toNat 13 10), aset := true }) ∧
  (∀ (s : State) (h : CmdHdr) (a0 a1 : Lane) (k : Nat) (cmd : Cmd), s.Works (.accmov h a0 a1) k cmd →
    let n := fld a0.toNat 5 9 + 1
    let src := fld a0.toNat 23 9 + moveOrder (fld a0.toNat 23 9) (fld a0.toNat 14 9) n cmd.progress
    let dst := fld a0.toNat 14 9 + moveOrder (fld a0.toNat 23 9) (fld a0.toNat 14 9) n cmd.progress
    let z := bit a1.toNat 0 = true ∧ ¬(fld a0.toNat 14 9 ≤ src ∧ src < fld a0.toNat 14 9 + n)
    ∃ t, exec (.accmov h a0 a1) s = .next t ∧ t.mem = s.mem ∧
      (∀ key, t.g.accAt key =
        if z ∧ src * 128 ≤ key ∧ key < (src + 1) * 128 then 0
        else if dst * 128 ≤ key ∧ key < (dst + 1) * 128 then s.g.accAt (src * 128 + (key - dst * 128)) else s.g.accAt key) ∧
      (∀ j, (t.g.bankAt j).status =
        if z ∧ j = src then .redundant 0 else if j = dst then (s.g.bankAt src).status else (s.g.bankAt j).status) ∧
      (∀ j, (t.g.bankAt j).tile =
        if z ∧ j = src then TileState.zero else if j = dst then (s.g.bankAt src).tile else (s.g.bankAt j).tile)) ∧
  (∀ (s : State) (h : CmdHdr) (a0 a1 : Lane) (k : Nat) (cmd : Cmd), s.Works (.accadd h a0 a1) k cmd →
    let sg := (s.coreAt (s.addSource a1)).g
    let lead := fld a0.toNat 14 9
    let src := fld a0.toNat 23 9 + cmd.progress
    let dst := lead + cmd.progress
    ∃ t, exec (.accadd h a0 a1) s = .next t ∧ t.mem = s.mem ∧
      (∀ x, x < 128 →
        accS (t.g.accAt (dst * 128 + x)) + accC2 (t.g.accAt (dst * 128 + x)) =
          (accS (s.g.accAt (dst * 128 + x)) + accC2 (s.g.accAt (dst * 128 + x)))
            + (accS (sg.accAt (src * 128 + x)) + accC2 (sg.accAt (src * 128 + x))) ∧
        accD (t.g.accAt (dst * 128 + x)) = (accD (s.g.accAt (dst * 128 + x)) || accD (sg.accAt (src * 128 + x)))) ∧
      (∀ key, key < dst * 128 ∨ (dst + 1) * 128 ≤ key → t.g.accAt key = s.g.accAt key) ∧
      (∀ j, (t.g.bankAt j).status = (s.g.bankAt j).status) ∧
      (cmd.progress = 0 → (t.g.bankAt lead).tile.rowInv = (s.g.bankAt lead).tile.rowInv ||| (sg.bankAt src).tile.rowInv ∧
        (t.g.bankAt lead).tile.colInv = (s.g.bankAt lead).tile.colInv ||| (sg.bankAt src).tile.colInv ∧
        (t.g.bankAt lead).tile.aset = ((s.g.bankAt lead).tile.aset || (sg.bankAt src).tile.aset))) ∧
  (∀ (s : State) (h : CmdHdr) (a0 a1 : Lane) (k : Nat) (cmd : Cmd), s.Works (.epcfg h a0 a1) k cmd →
    ∃ t, exec (.epcfg h a0 a1) s = .next t ∧ t.mem = s.mem ∧ t.g.acc = s.g.acc ∧ t.g.banks = s.g.banks ∧
      (a0.toNat = 0 → t.g.epi = { s.g.epi with ctl := a1.setWidth 6 }) ∧ (a0.toNat = 1 → t.g.epi = { s.g.epi with rsAddr := a1.toNat }) ∧
      (a0.toNat = 2 → t.g.epi = { s.g.epi with biasAddr := a1.toNat }) ∧ (a0.toNat = 3 → t.g.epi = { s.g.epi with clampLo := a1 }) ∧
      (a0.toNat = 4 → t.g.epi = { s.g.epi with clampHi := a1 }) ∧
      (a0.toNat = 5 → t.g.epi = { s.g.epi with row0 := fld a1.toNat 22 10, tok0 := fld a1.toNat 6 16 }) ∧
      (a0.toNat = 6 → t.g.epi = { s.g.epi with idBase := a1 }) ∧
      (a0.toNat = 7 → t.g.epi.tkCap = a1.toNat ∧ ∀ r, Tab.get [] t.g.epi.heaps r = (Tab.get [] s.g.epi.heaps r).take a1.toNat)) ∧
  (∀ (s : State) (h : CmdHdr) (a : Lane) (i : Instr) (k : Nat) (cmd : Cmd), (i = .msig h a ∨ i = .csig h a) → s.Works i k cmd →
    let n := semWordName s.focus a.toNat
    ∃ t, exec i s = .next t ∧ t.mem = s.mem ∧
      (n.core = s.focus → s.replay.mode = .off → t.net = s.net ∧ t.g.sems[n.num] =
        (s.g.sems[n.num]).step s.cyc { rank := semRank s.focus s.focus (ringEng s.ring), upd := .add 1, eng := ringEng s.ring, core := s.focus }) ∧
      (n.core ≠ s.focus → t.g.sems = s.g.sems ∧
        t.net = s.net ++ [s.flightOf s.focus (ringPath s.ring) (some n.core) (.csig n)]))

/-- R174, R265, R266, R267, R268, R282: a step of an MMA, or of an MMAR on the rows that its walk has, at home adds to each element
of its tile, modulo 2^64 over sum and carries, the window units of the valid products of 256 values of k in increasing k; no other
element changes. One that derives its anchor has first read all of its operands, with no other effect; the first step that adds sets
it. -/
def Obligations.ProductsAddIntoTheTile : Prop :=
  ∀ (s : State) (i : Instr) (k : Nat) (cmd : Cmd) (ctrl : Lane) (args : List Lane) (rows : Nat) (x : MmaIn),
    s.productOf i = some (ctrl, args, rows) → s.Works i k cmd → s.mmaIn ctrl args = some x → agCount x.b 1 ≤ 48 →
    s.mmaPoison x rows (x.stepK cmd.units cmd.progress) = none →
      let lead := fld ctrl.toNat 23 9
      let first := cmd.units - x.chunks
      let A := (s.mmaVals x rows (x.stepK cmd.units cmd.progress) 256).1
      let B := (s.mmaVals x rows (x.stepK cmd.units cmd.progress) 256).2
      let tile := if cmd.progress = first then s.mmaAnchor x rows (s.g.bankAt lead).tile else (s.g.bankAt lead).tile
      ∃ t, exec i s = .next t ∧ t.mem = s.mem ∧ (∀ j, (t.g.bankAt j).status = (s.g.bankAt j).status) ∧
        (cmd.progress < first → (∀ key, t.g.accAt key = s.g.accAt key) ∧ (t.g.bankAt lead).tile = (s.g.bankAt lead).tile) ∧
        (first ≤ cmd.progress →
          (∀ m n, (hm : m < A.length) → (hn : n < B.length) →
            accS (t.g.accAt (accKey lead (48 * m + n))) + accC2 (t.g.accAt (accKey lead (48 * m + n))) =
              (productUnits tile.anchor A[m] B[n]).foldl (fun v u => v + BitVec.ofInt 64 u)
                (accS (s.g.accAt (accKey lead (48 * m + n))) + accC2 (s.g.accAt (accKey lead (48 * m + n))))) ∧
          (∀ key, (∀ m n, m < A.length → n < B.length → key ≠ accKey lead (48 * m + n)) → t.g.accAt key = s.g.accAt key) ∧
          (t.g.bankAt lead).tile.anchor = tile.anchor ∧ (t.g.bankAt lead).tile.aset = tile.aset)

/-- R176, R273, R274, R276, R277, R278, R282, R354: RESOLVE stores each element's code and makes a bank CANONICAL in each step; ACCCMP writes
a mask of its comparison; DRAIN drains a row in each step, unless an array of its epilogue that it reads is poisoned, each element
scaled, biased and clamped as the epilogue asks, offered to its row's heap, rounded once to its type and stored unless NOSTORE, and
with its last step moves IDBASE on; TOPK writes a record of a row's candidates in each step, with PUSH posts it to Q13, which holds it while full, and
with its last clears the heaps.
That a poisoned step writes nothing and names the first poisoned byte is the model's reading (log entry 36), and the clamp of zeros, and an
infinite element with the opposite infinity as its bias, are its choices (log entry 103). -/
def Obligations.DrainingCommandsAct : Prop :=
  (∀ (s : State) (h : CmdHdr) (a0 a1 : Lane) (k : Nat) (cmd : Cmd), s.Works (.resolve h a0 a1) k cmd →
    let src := fld a0.toNat 23 9
    let dst := fld a1.toNat 23 9
    let p := cmd.progress
    ∃ t, exec (.resolve h a0 a1) s = .next t ∧ t.mem = s.mem ∧
      (∀ x, x < 128 → t.g.accAt (accKey dst (128 * p + x)) =
        BitVec.ofNat 128 (resolveElem (s.g.elemVal src (128 * p + x)) (fld a0.toNat 15 2)).1) ∧
      (∀ key, key < (dst + p) * 128 ∨ (dst + p + 1) * 128 ≤ key → t.g.accAt key = s.g.accAt key) ∧
      (t.g.bankAt (dst + p)).status = .canonical (Fin.ofNat 3 (fld a0.toNat 15 2)) ∧
      (p = 0 → (t.g.bankAt dst).tile = (s.g.bankAt src).tile) ∧
      (∀ j, j ≠ dst + p → t.g.bankAt j = s.g.bankAt j)) ∧
  (∀ (s : State) (h : CmdHdr) (a0 a1 : Lane) (k : Nat) (cmd : Cmd) (o : OpRecord) (d : Ag), s.Works (.acccmp h a0 a1) k cmd →
    s.dest a1 = some (o, d) →
    let test : Nat → Bool := fun x => accCompare (fld a0.toNat 5 3) (s.g.elemVal (fld a0.toNat 23 9) x).1
      (if bit a0.toNat 4 then .zero false else (s.g.elemVal (fld a0.toNat 14 9) x).1)
    exec (.acccmp h a0 a1) s = .next ((List.range (16 * tileBanks (fld a0.toNat 8 6 + 1))).foldl (fun u p =>
      u.putLocal o d p ((List.range 8).foldl (fun acc j => acc + (if test (8 * p + j) then 2 ^ j else 0)) 0)) (s.unitBegun k cmd))) ∧
  (∀ (s : State) (h : CmdHdr) (a0 a1 : Lane) (k : Nat) (cmd : Cmd) (o : OpRecord) (d : Ag) (ty : NumTy), s.Works (.drain h a0 a1) k cmd →
    s.dest a1 = some (o, d) → tdType (fld a0.toNat 2 9) = some ty → cmd.progress < s.drainRows a0 →
    let epi := bit a0.toNat 0
    let cols := fld a0.toNat 11 6 + 1
    let reads := epilogueReads s.g.epi epi cmd.progress cols
    ∃ t, exec (.drain h a0 a1) s = .next t ∧
      (epi = false → t = (List.range cols).foldl (fun u j =>
        u.drainElem o d (fld a0.toNat 23 9) ty false (s.drainRowLive (bit a0.toNat 1) cmd.progress) cmd.progress j) (s.unitBegun k cmd)) ∧
      (epi = true → s.readPoison reads = none →
        (let u := (List.range cols).foldl (fun u j =>
          u.drainElem o d (fld a0.toNat 23 9) ty true (s.drainRowLive (bit a0.toNat 1) cmd.progress) cmd.progress j) ((s.unitBegun k cmd).countAll reads)
         t = if u.g.epi.ctl.getLsbD 3 = true ∧ cmd.progress + 1 = cmd.units then
           u.modG fun g => { g with epi := { g.epi with idBase := g.epi.idBase + BitVec.ofNat 32 cols } } else u)) ∧
      (epi = true → s.readPoison reads = none → s.g.epi.ctl.getLsbD 3 = true →
        t.g.epi.idBase = if cmd.progress + 1 = cmd.units then s.g.epi.idBase + BitVec.ofNat 32 cols else s.g.epi.idBase) ∧
      (∀ a, s.readPoison reads = some a → t = (s.unitBegun k cmd).engineStop .softError cmd.hdrPc (a.toNat % 2 ^ 32))) ∧
  (∀ (s : State) (o : OpRecord) (d : Ag) (lead : Nat) (ty : NumTy) (live : Bool) (m n : Nat),
    let v := s.g.elemVal lead (48 * m + n)
    let c := drainCast ty (s.g.epi.ctl.getLsbD 5) (!s.g.isCanonical (lead + (48 * m + n) / 128)) v.1
    s.drainElem o d lead ty false live m n =
      if live then ((s.creditHere v.2).creditHere c.2).putLocal o d (m * agCount d 0 + n) c.1 else (s.creditHere v.2).creditHere c.2) ∧
  (∀ (s : State) (o : OpRecord) (d : Ag) (lead : Nat) (ty : NumTy) (live : Bool) (m n : Nat),
    let e := s.g.epi
    let x := s.g.elemVal lead (48 * m + n)
    let scaled := if e.ctl.getLsbD 0 then x.1.scale (sext 8 (readByte s.mem (sramKey s.focus (e.rsAddr + m))).toNat) else x.1
    let biased := if e.ctl.getLsbD 1 then Val.add .rne scaled (decodeFlt .f32 (readLE s.mem (sramKey s.focus (e.biasAddr + 4 * n)) 4))
      else scaled
    let lo := decodeFlt .f32 e.clampLo.toNat
    let hi := decodeFlt .f32 e.clampHi.toNat
    let raised := if Val.lt biased lo then lo else biased
    let v := if e.ctl.getLsbD 2 then (if Val.lt hi raised then hi else raised) else biased
    let c := drainCast ty (e.ctl.getLsbD 5) (!s.g.isCanonical (lead + (48 * m + n) / 128)) v
    let t := s.drainElem o d lead ty true live m n
    let offered := e.ctl.getLsbD 3 = true ∧ v.isNan = false
    let key : Lane := BitVec.ofNat 32 (floatFinish NumCtl.plain .f32 v).1
    let stored := ¬(e.ctl.getLsbD 3 = true ∧ e.ctl.getLsbD 4 = true)
    (∀ row, Tab.get [] t.g.epi.heaps row = if offered ∧ row = m then
      (insertCandidate (key, e.idBase + BitVec.ofNat 32 n) (Tab.get [] e.heaps m)).take e.tkCap else Tab.get [] e.heaps row) ∧
    t.g.epi.idBase = e.idBase ∧ t.g.epi.ctl = e.ctl ∧
    t.mem = (if stored ∧ live = true then (((s.creditHere x.2).creditHere c.2).putLocal o d (m * agCount d 0 + n) c.1).mem else s.mem)) ∧
  (∀ (c : Lane × Lane) (heap : List (Lane × Lane)), (insertCandidate c heap).Perm (c :: heap) ∧
    ∀ above below, heap = above ++ below → (∀ x ∈ above, ranksAbove c x = false) → (∀ x ∈ below.head?, ranksAbove c x = true) →
      insertCandidate c heap = above ++ c :: below) ∧
  (∀ (ty : NumTy) (sat : Bool) (v : Val), (drainCast ty sat false v) = finishNum { NumCtl.plain with mod := { OpMod.plain with sat := sat } } true ty v) ∧
  (∀ (s : State) (h : CmdHdr) (a0 a1 : Lane) (k : Nat) (cmd : Cmd) (o : OpRecord) (d : Ag) (e : QEntry), s.Works (.topk h a0 a1) k cmd →
    s.dest a1 = some (o, d) → cmd.posts[cmd.progress]? = some e →
    ∃ t, exec (.topk h a0 a1) s = .next t ∧ t.mem = ((s.unitBegun k cmd).putLocal o d cmd.progress e.val.toNat).mem ∧
      t.g.epi = (if cmd.progress + 1 = cmd.units then { s.g.epi with heaps := [] } else s.g.epi) ∧
      (t.g.queue 13).entries = (s.g.queue 13).entries ++ (if bit a0.toNat 25 then [{ e with born := s.cyc }] else [])) ∧
  (∀ (s : State) (h : CmdHdr) (a0 a1 : Lane) (k : Nat) (cmd : Cmd), s.atWork = some (k, cmd) → cmd.instr = .topk h a0 a1 →
    s.postHolds cmd = true → exec (.topk h a0 a1) s = .next s) ∧
  (∀ (s : State) (a0 a1 : Lane) (o : OpRecord) (d : Ag), s.dest a1 = some (o, d) →
    (s.topkPlan a0 a1).posts.map (fun e => (e.val, e.tag)) = (List.range (fld a0.toNat 26 6 + 1)).flatMap fun i =>
      s.topkRow (bit a0.toNat 24) (fld a0.toNat 26 6 + 1) (agCount d 0) i)

/-- R272, R282, R354: ACCSPILL writes the image of a bank as elements of its stream in each step and changes no bank; ACCFILL takes
a bank from its image, ends the row group with BANK_STATE where that holds no status, and with SOFT_ERROR where it is poisoned; and
the image of a bank gives back its elements, its status and its tile state.
That a poisoned step fills nothing is the model's reading (log entry 36), and that each element read in another owner's quarter is counted
is its choice (log entry 40). -/
def Obligations.SpilledBanksFillAgain : Prop :=
  (∀ (s : State) (h : CmdHdr) (a0 a1 : Lane) (k : Nat) (cmd : Cmd) (o : OpRecord) (d : Ag), s.Works (.accspill h a0 a1) k cmd →
    s.dest a1 = some (o, d) →
    let image := bankImage s.g (fld a0.toNat 23 9 + cmd.progress)
    ∃ t, exec (.accspill h a0 a1) s = .next t ∧ t.g.acc = s.g.acc ∧ t.g.banks = s.g.banks ∧
      t = (List.range 260).foldl (fun u p =>
        u.putLocal o d (260 * cmd.progress + p) (((image.drop (8 * p)).take 8).foldr (fun x acc => x.toNat + 256 * acc) 0))
          (s.unitBegun k cmd)) ∧
  (∀ (s : State) (h : CmdHdr) (a0 a1 : Lane) (k : Nat) (cmd : Cmd) (o : OpRecord) (a : Ag), s.Works (.accfill h a0 a1) k cmd →
    s.source a1 = some (o, a) →
    let b := fld a0.toNat 23 9 + cmd.progress
    let reads := (List.range 260).map fun j => elemRead o a (260 * cmd.progress + j)
    let ws := s.fillWords o a cmd.progress
    (∀ bad, s.readPoison reads = some bad →
      exec (.accfill h a0 a1) s = .next ((s.unitBegun k cmd).engineStop .softError cmd.hdrPc (bad.toNat % 2 ^ 32))) ∧
    (s.readPoison reads = none → imageStatus (ws.getD 2 0) (ws.getD 3 0) = none →
      exec (.accfill h a0 a1) s = .next (((s.unitBegun k cmd).countAll reads).engineStop .bankState cmd.hdrPc b)) ∧
    (∀ st, s.readPoison reads = none → imageStatus (ws.getD 2 0) (ws.getD 3 0) = some st →
      ∃ t, exec (.accfill h a0 a1) s = .next t ∧ t.mem = s.mem ∧ (t.g.bankAt b).status = st ∧
        (∀ x, x < 128 → t.g.accAt (b * 128 + x) = BitVec.ofNat 128 (ws.getD (4 + 2 * x) 0 + ws.getD (5 + 2 * x) 0 * 2 ^ 64)) ∧
        (∀ key, key < b * 128 ∨ (b + 1) * 128 ≤ key → t.g.accAt key = s.g.accAt key) ∧
        (∀ j, j ≠ b → t.g.bankAt j = s.g.bankAt j))) ∧
  (∀ (g u : Group) (j m : Nat), (g.bankAt j).status ≠ .free → -512 ≤ (g.bankAt j).tile.anchor → (g.bankAt j).tile.anchor ≤ 511 →
    let ws := (List.range 260).map fun p => (((bankImage g j).drop (8 * p)).take 8).foldr (fun x acc => x.toNat + 256 * acc) 0
    imageStatus (ws.getD 2 0) (ws.getD 3 0) = some (g.bankAt j).status ∧
    ((u.fillBank m ws (g.bankAt j).status).bankAt m).status = (g.bankAt j).status ∧
    ((u.fillBank m ws (g.bankAt j).status).bankAt m).tile = (g.bankAt j).tile ∧
    ∀ x, x < 128 → (u.fillBank m ws (g.bankAt j).status).accAt (m * 128 + x) = g.accAt (j * 128 + x))

/-- R215, R246, R247, R251, R354: a channel's commands act unit by unit: COPY, GATHER and SCATTER read the source's elements at the sequence
position that order or index gives and deliver them once they have been read, FILL its pattern, and ACCW, FETCHOP and CAS send one
combining step for each element to its port.
That a unit that meets an uncorrectable error does nothing, how many reads in another owner's quarter it counts, what it waits for, and that a
row's index is read with its first unit are the model's readings (log entries 36, 40, 32 and 34). -/
def Obligations.ChannelCommandsDeliver : Prop :=
  (∀ (s : State) (h : CmdHdr) (a0 : Lane) (k : Nat) (cmd : Cmd) (o : OpRecord) (a d : Ag), s.Works (.copy h a0) k cmd →
    s.streams [a0] = some (o, a, d) →
    let p := cmd.progress * bundle (agBits d)
    let u := s.copyUnit cmd o a d p p (agCount d 0) [] id
    s.UnitActs (.copy h a0) k cmd u.reads u.writes fun t => u.act t (s.readTime u.reads)) ∧
  (∀ (s : State) (h : CmdHdr) (a0 a1 : Lane) (k : Nat) (cmd : Cmd) (o : OpRecord) (a d : Ag), s.Works (.gather h a0 a1) k cmd →
    s.streams [a0] = some (o, a, d) →
    let p := cmd.progress * bundle (agBits d)
    let c := agCount a 0
    let r := s.indexRow [a0, a1] cmd (p / c) (p % c) (agTotal a / c)
    let u := s.copyUnit cmd o a d (r.1 * c + p % c) p c r.2 fun t => t.keepRow cmd r.1
    s.UnitActs (.gather h a0 a1) k cmd u.reads u.writes fun t => u.act t (s.readTime u.reads)) ∧
  (∀ (s : State) (h : CmdHdr) (a0 a1 : Lane) (k : Nat) (cmd : Cmd) (o : OpRecord) (a d : Ag), s.Works (.scatter h a0 a1) k cmd →
    s.streams [a0] = some (o, a, d) →
    let p := cmd.progress * bundle (agBits d)
    let c := agCount d 0
    let r := s.indexRow [a0, a1] cmd (p / c) (p % c) (agTotal d / c)
    let u := s.copyUnit cmd o a d p (r.1 * c + p % c) c r.2 fun t => t.keepRow cmd r.1
    s.UnitActs (.scatter h a0 a1) k cmd u.reads u.writes fun t => u.act t (s.readTime u.reads)) ∧
  (∀ (s : State) (cmd : Cmd) (o : OpRecord) (a d : Ag) (sp dp per time : Nat) (index : List StreamRead) (x : Spot), agBits a = 8 →
    agBits d = 8 → agScm d = 0 → s.spot o (agBase d) (agPlace d dp).1 = some x →
    let lo := cmd.first + unitCount d per cmd.progress
    cmd.skip ≤ lo →
    (s.copyUnit cmd o a d sp dp per index id).act s time = s.send { s.flightOf s.focus (ringPath s.ring) x.dst
        (.bytes [(x.key, BitVec.ofNat 8 (s.streamCode o.pieces a sp))]) with
      global := x.global, lo := lo, len := 1, addrs := [x.addr], kv := x.kv, after := s.cyc + time }) ∧
  (∀ (s : State) (h : CmdHdr) (a0 a1 : Lane) (k : Nat) (cmd : Cmd) (o : OpRecord) (d : Ag), s.Works (.fill h a0 a1) k cmd →
    s.rec? [a0] 0 = some o → o.dst = some d →
    let w := agBits d
    let p := cmd.progress * bundle w
    ∃ v, s.UnitActs (.fill h a0 a1) k cmd [] (s.rangeKeys o (unitRanges d p 0 false)) (fun t =>
        t.deliver o (agBase d) (cmd.first + unitCount d (agCount d 0) cmd.progress) cmd.skip 0 (bundleBytes d p v)) ∧
      (∀ j, j < bundle w → v / 2 ^ (j * w) % 2 ^ w = if w ≤ 32 then a1.toNat % 2 ^ w else (a1.toNat + a1.toNat * 2 ^ 32) % 2 ^ w)) ∧
  (∀ (s : State) (h : CmdHdr) (a0 : Lane) (k : Nat) (cmd : Cmd) (o : OpRecord) (a d : Ag), s.Works (.accw h a0) k cmd →
    s.streams [a0] = some (o, a, d) →
    let p := cmd.progress
    let n := agBits d / 8
    let reads := [elemRead o a p]
    s.UnitActs (.accw h a0) k cmd reads (s.rangeKeys o [agElem d p]) fun t =>
      t.sendStep o d p cmd.recs.head? (cmd.first + p * n) n (s.readTime reads) fun key => .combine key n (fld o.opt.toNat 0 4) (fld o.opt.toNat 4 3)
        (bit o.opt.toNat 7) (BitVec.ofNat 64 (t.streamCode o.pieces a p)) []) ∧
  (∀ (s : State) (h : CmdHdr) (a0 a1 : Lane) (k : Nat) (cmd : Cmd) (o ro : OpRecord) (a d r : Ag), s.Works (.fetchop h a0 a1) k cmd →
    s.streams [a0] = some (o, a, d) → s.returnStream [a0, a1] = some (ro, r) →
    let p := cmd.progress
    let n := agBits d / 8
    let reads := [elemRead o a p]
    s.UnitActs (.fetchop h a0 a1) k cmd reads
      (s.rangeKeys o [agElem d p] ++ (s.returnSpots ro r p).filterMap fun x => x.map Spot.key) fun t =>
      t.sendStep o d p cmd.recs.head? (cmd.first + p * n) n (s.readTime reads) fun key => .combine key n (fld o.opt.toNat 0 4) (fld o.opt.toNat 4 3)
        (bit o.opt.toNat 7) (BitVec.ofNat 64 (t.streamCode o.pieces a p)) (t.returnSpots ro r p)) ∧
  (∀ (s : State) (h : CmdHdr) (a0 a1 : Lane) (k : Nat) (cmd : Cmd) (o ro : OpRecord) (a d r : Ag), s.Works (.cas h a0 a1) k cmd →
    s.streams [a0] = some (o, a, d) → s.returnStream [a0, a1] = some (ro, r) →
    let p := cmd.progress
    let n := agBits d / 8
    let reads := [elemRead o a (2 * p), elemRead o a (2 * p + 1)]
    s.UnitActs (.cas h a0 a1) k cmd reads
      (s.rangeKeys o [agElem d p] ++ (s.returnSpots ro r p).filterMap fun x => x.map Spot.key) fun t =>
      t.sendStep o d p cmd.recs.head? (cmd.first + p * n) n (s.readTime reads) fun key => .cas key n (BitVec.ofNat 64 (t.streamCode o.pieces a (2 * p)))
        (BitVec.ofNat 64 (t.streamCode o.pieces a (2 * p + 1))) (t.returnSpots ro r p))

/-- R70, R116, R118, R244, R250, R262, R293: a ring's engine fetches the next whole command below the publish count into its queue
when there is room, its words being sound; a header that does not decode ends the row group with ENGINE_ILLEGAL and the word in
DETAIL. The head command completes once its work is done and its pushes find room: it leaves the queue, frees its records and makes
its raise. -/
def Obligations.CommandsAreFetchedAndComplete : Prop :=
  (∀ (s : State) (c : CoreId) (r : Ring) (i : Instr) (recs : List (Fin 64)),
    let u : State := { s with focus := c, ring := r }
    let q := u.rq
    let w := readLE s.mem (ringKey c q q.pc) 4
    let n := fld w 23 3
    u.cur.runs = true → q.queue.length < ringDepth r → n + 1 ≤ (q.pub - q.pc).toNat →
    (∀ j, j ≤ n → s.poisoned (ringKey c q (q.pc + BitVec.ofNat 32 j)) 4 = false) →
    decodeCommand (ringStep r) w (u.ringArgs n) = .ok i → q.operandRecs r (cmdOp i) (cmdArgs i) = (recs, none) → badWord i = none →
    ((cmdHdr i).lin = true → fld (cmdHdr i).linw.toNat 22 10 < u.g.rowCount) → u.squashes (cmdHdr i) = false →
      ∃ t cmd, exec (.ringFetch c r) s = .next t ∧ t.rq.queue = q.queue ++ [cmd] ∧ t.rq.pc = q.pc + BitVec.ofNat 32 (n + 1) ∧
        cmd.instr = i ∧ cmd.hdrPc = q.pc ∧ cmd.recs = recs ∧ cmd.phase = .queued ∧ cmd.squashed = false ∧ cmd.progress = 0 ∧
        cmd.first = q.owned ∧ cmd.total = cmdCount i (recs.filterMap fun k => q.records[k]) ∧ t.rq.owned = q.owned + cmd.total ∧
        t.mem = s.mem) ∧
  (∀ (s : State) (c : CoreId) (r : Ring) (e : DecodeError),
    let u : State := { s with focus := c, ring := r }
    let q := u.rq
    let w := readLE s.mem (ringKey c q q.pc) 4
    u.cur.runs = true → q.queue.length < ringDepth r → fld w 23 3 + 1 ≤ (q.pub - q.pc).toNat →
    (∀ j, j ≤ fld w 23 3 → s.poisoned (ringKey c q (q.pc + BitVec.ofNat 32 j)) 4 = false) → decodeCommand (ringStep r) w (u.ringArgs (fld w 23 3)) = .error e →
      exec (.ringFetch c r) s = .next (u.terminate c (termRecord 0x10 (ringEng r) false q.pc (BitVec.ofNat 32 w)))) ∧
  (∀ (s : State) (c : CoreId) (r : Ring) (cmd : Cmd) (rest : List Cmd),
    let u : State := { s with focus := c, ring := r }
    u.rq.queue = cmd :: rest → u.cur.runs = true → u.workDone cmd = true → u.pushRoom (cmdHdr cmd.instr) = true →
    s.replay.mode = .off → (cmd.waited = 0 ∨ s.tracing c = none) →
      ∃ t, exec (.commandComplete c r) s = .next t ∧ t.rq.queue = rest ∧ (∀ n ∈ cmd.recs, t.rq.records[n] = none) ∧
        (∀ n : Fin 64, n ∉ cmd.recs → t.rq.records[n] = u.rq.records[n]) ∧ t.mem = s.mem ∧
        (∀ n : Fin 64, t.g.sems[n] = if (cmdHdr cmd.instr).re = true ∧ n = (cmdHdr cmd.instr).raise then
          (u.g.sems[n]).step u.cyc { rank := semRank c c (ringEng r), upd := .add 1, eng := ringEng r, core := c } else u.g.sems[n]) ∧
        (∀ n : Fin 8, (t.g.fifos[n]).toks = (u.g.fifos[n]).toks
          ++ (if (cmdHdr cmd.instr).pushL = true ∧ n = pushFifo (ringEng r) .left then [.ready u.cyc] else [])
          ++ (if (cmdHdr cmd.instr).pushR = true ∧ n = pushFifo (ringEng r) .right then [.ready u.cyc] else [])))

/-- R213, R214, R246, R250, R251, R285, R287, R289, R290: of the messages on one way from one core the first arrives first, once its
source read has returned. Bytes are written at their port and counted; a combining step reads, combines and writes its element in
one step; an update, a CSIG's add and a request act on the home's semaphore, and an answer reaches its waiter. Bytes for memory that
the package does not have stop the model, which is the model's choice (log entry 9). -/
def Obligations.MessagesActWhereTheyArrive : Prop :=
  (∀ (s : State) (k : Nat) (f : Flight) (cells : List (Nat × Byte)) (c : CoreId), s.net[k]? = some f →
    (s.net.take k).any f.sameWay = false → f.after ≤ (s.coreAt f.src).cycle → f.cargo = .bytes cells → missingKey cells = none → f.dst = some c →
    (∀ e ∈ cells, s.portRefuses c f.global f.pd (e.1 % 4194304) = false) → f.kv = none → (s.coreAt f.src).ending = none →
    cells.Pairwise (fun a b => a.1 ≠ b.1) →
      ∃ t, exec (.writeArrival k) s = .next t ∧ t.net = s.net.eraseIdx k ∧ (∀ e ∈ cells, readByte t.mem e.1 = e.2) ∧
        (∀ key, (∀ e ∈ cells, e.1 ≠ key) → readByte t.mem key = readByte s.mem key) ∧
        (s.ownFlight f.src f = true → f.path = .ch0 →
          (t.coreAt f.src).g.ch0 = ((s.coreAt f.src).g.ch0).land f.lo f.len)) ∧
  (∀ (s : State) (k : Nat) (f : Flight) (cells : List (Nat × Byte)) (key : Nat), s.net[k]? = some f →
    (s.net.take k).any f.sameWay = false → f.after ≤ (s.coreAt f.src).cycle → f.cargo = .bytes cells → missingKey cells = some key →
      exec (.writeArrival k) s = .fault (.noSuchMemory key)) ∧
  (∀ (s : State) (k : Nat) (f : Flight) (key n ty op : Nat) (sat : Bool) (v : Word), s.net[k]? = some f →
    (s.net.take k).any f.sameWay = false → f.after ≤ (s.coreAt f.src).cycle → f.cargo = .combine key n ty op sat v [] → keyExists key = true → s.replay.mode = .off →
    s.poisoned key n = false → f.dst = none → (s.coreAt f.src).ending = none →
      ∃ t, exec (.combiningStep k) s = .next t ∧ t.net = s.net.eraseIdx k ∧
        readLE t.mem key n = (combineValue ty op sat (readLE s.mem key n) v.toNat).1 % 256 ^ n ∧
        (∀ a, a < key ∨ key + n ≤ a → readByte t.mem a = readByte s.mem a)) ∧
  (∀ (s : State) (k : Nat) (f : Flight) (key n : Nat) (cmp new : Word), s.net[k]? = some f →
    (s.net.take k).any f.sameWay = false → f.after ≤ (s.coreAt f.src).cycle → f.cargo = .cas key n cmp new [] → keyExists key = true → s.replay.mode = .off →
    s.poisoned key n = false → f.dst = none → (s.coreAt f.src).ending = none →
      ∃ t, exec (.combiningStep k) s = .next t ∧ readLE t.mem key n =
        if readLE s.mem key n = cmp.toNat % 2 ^ (8 * n) then new.toNat % 256 ^ n else readLE s.mem key n) ∧
  (∀ (s : State) (k : Nat) (f : Flight) (o : SemName) (u : SemUpd), s.net[k]? = some f → (s.net.take k).any f.sameWay = false →
    f.after ≤ (s.coreAt f.src).cycle → f.cargo = .sem o u → s.homeFate o.core f.inst f.pd o.span = .acted → s.replay.mode = .off → (s.coreAt f.src).ending = none →
      ∃ t, exec (.semAccessArrival k) s = .next t ∧ t.net = s.net.eraseIdx k ∧ t.mem = s.mem ∧
        (t.coreAt o.core).g.sems[o.num] = ((s.coreAt o.core).g.sems[o.num]).step (s.coreAt o.core).cycle
          { rank := semRank o.core f.src (pathEng f.path), upd := u, eng := pathEng f.path, core := f.src }) ∧
  (∀ (s : State) (k : Nat) (f : Flight) (o : SemName) (sd : Side2) (ask : Nat), s.net[k]? = some f →
    (s.net.take k).any f.sameWay = false → f.after ≤ (s.coreAt f.src).cycle → f.cargo = .semrd o sd ask → s.homeFate o.core f.inst f.pd o.span = .acted →
      exec (.semAccessArrival k) s = .next { s with net := s.net.eraseIdx k ++
        [{ s.flightOf f.src (engPath (pathEng f.path)) (some f.src)
            (.reply sd ask (((s.coreAt o.core).g.sems[o.num]).sample (s.coreAt o.core).cycle)) with inst := f.inst, pd := f.pd }] }) ∧
  (∀ (s : State) (k : Nat) (f : Flight) (o : SemName) (sd : Side2) (ask : Nat), s.net[k]? = some f →
    (s.net.take k).any f.sameWay = false → f.after ≤ (s.coreAt f.src).cycle → f.cargo = .semrd o sd ask → s.homeFate o.core f.inst f.pd o.span = .held →
    (s.coreAt o.core).heldSems.length < 512 →
      ∃ t, exec (.semAccessArrival k) s = .next t ∧ t.net = s.net.eraseIdx k ∧ t.mem = s.mem ∧
        (t.coreAt o.core).heldSems = (s.coreAt o.core).heldSems ++
          [{ num := o.num, inst := f.inst, src := f.src, act := .read f.pd sd ask, issuer := pathEng f.path }]) ∧
  (∀ (s : State) (k : Nat) (f : Flight) (sd : Side2) (ask : Nat) (v : BitVec 32), s.net[k]? = some f →
    (s.net.take k).any f.sameWay = false → f.after ≤ (s.coreAt f.src).cycle → f.cargo = .reply sd ask v → (s.coreAt f.src).g.run.isSome = true → (s.coreAt f.src).g.bank.inst = f.inst →
    ((s.coreAt f.src).g.seq sd).remote = .sent ask →
      ∃ t, exec (.remoteSemrdReply k) s = .next t ∧ t.net = s.net.eraseIdx k ∧ ((t.coreAt f.src).g.seq sd).remote = .answered v) ∧
  (∀ (s : State) (c : CoreId) (xs : Bool) (a b : RegNum) (o : SemName) (ask : Nat),
    let u := s.onSeq c (if xs then .xs else .as)
    let m := (s.coreAt o.core).g.sems[o.num]
    let by_ := m.setter (s.coreAt o.core).cycle fun v => semAtLeast v ((u.seq.getX a).setWidth 32)
    u.cur.runs = true → u.seq.remote = .sent ask → u.waitingAcq = some (a, b) → s.syncName c (u.seq.getX b) = some o →
    s.homeFate o.core u.g.bank.inst u.g.bank.pd o.span = .acted →
      ∃ t, exec (.remoteWaitSample c xs) s = .next t ∧ t.seq.remote =
        if semAtLeast (m.sample (s.coreAt o.core).cycle) ((u.seq.getX a).setWidth 32) = true then .satisfied by_.1 by_.2 else .sent ask)

/-- R85, R152, R215, R222, R223, R225, R232, R288, R292, R298, R317, R330, R342, R354: what lands in a core. Due results, store checks and
decisions take place, but those that raise an exception are left to the core's own cycle; a returned read fills its queue entry or stream register; a PGREF that hits pins its page and, on its turn,
takes the next slot, and one that misses drops its row and has its NEED posted; an exhausted budget traps its row; a wait beyond
WAITMAX ends; ready releases and tokens are made; a staged chunk is counted; and a guest returns its tile.
That a PGREF looks at LIVE at its home-die step, that a landing is one event, which Tender a NEED goes to, and the error in a page-table
entry are the model's choices and readings (log entries 28, 67, 74 and 101). -/
def Obligations.CoreEventsLand : Prop :=
  (∀ (s : State) (c : CoreId) (xs : Bool),
    let u := s.onSeq c (if xs then .xs else .as)
    (xs = false → u.cur.runs = true ∧ u.cur.haltReq = none) → (xs = true → u.mayLand = true) →
    exec (.resultWrite c xs) s = .next (if xs = true ∧ u.writeResults.2 ≠ none then s else u.writeResults.1)) ∧
  (∀ (s : State) (c : CoreId),
    let u := s.onSeq c .xs
    u.mayLand = true → exec (.storeCheck c) s = .next (if u.checkStores.2 ≠ none then s else u.checkStores.1)) ∧
  (∀ (s : State) (c : CoreId),
    let u := s.onSeq c .xs
    u.mayLand = true → ∀ p site first rows, u.seq.pend.filter (fun x => x.due ≤ u.seq.ic && x.isDecide) = [p] → p.dest = .decide site first rows →
      ∃ w : State, exec (.vtapDecision c) s = .next (w.decideBlock c site.val first rows) ∧ w.mem = s.mem ∧
        w.seq.pend = u.seq.pend.filter fun x => !(x.due ≤ u.seq.ic && x.isDecide)) ∧
  (∀ (s : State) (c : CoreId) (no b rt : Nat) (pc : BitVec 32) (q : Fin 8) (a : Word) (off bits : Nat) (sx : Bool) (ps : List Piece),
    let r : AsRead := .queue no b pc rt q a off bits sx ps
    ((s.coreAt c).g.asReads.find? fun r => r.no = no) = some r → (s.coreAt c).runs = true → (s.coreAt c).haltReq = none →
    b + s.readBound c r ≤ (s.coreAt c).cycle + 1 → (s.coreAt c).g.asReads.any (s.readBehind c r) = false → s.readMissing c r = none →
    (s.onSeq c .as).poisonRead c r = none →
      let v := fld ((s.onSeq c .as).asLE c r a (elemBytes off bits)) off bits
      ∃ t, exec (.asReadReturn c no) s = .next t ∧ t.mem = s.mem ∧
        t.g.asReads = (s.coreAt c).g.asReads.filter (fun r => r.no != no) ∧
        (t.g.queue (Fin.ofNat 16 q.val)).entries = ((s.coreAt c).g.queue (Fin.ofNat 16 q.val)).entries.map fun e =>
          if e.ready = false ∧ e.fill = no then
            { e with val := if sx then BitVec.ofInt 64 (sext bits v) else BitVec.ofNat 64 v, ready := true, born := (s.coreAt c).cycle }
          else e) ∧
  (∀ (s : State) (c : CoreId) (no b : Nat) (pc : BitVec 32) (d : RegNum) (a : Word),
    ((s.coreAt c).g.asReads.find? fun r => r.no = no) = some (.pgref no b pc d a none) → (s.coreAt c).runs = true →
    b + s.fixedCount c (if s.pgrefHome c a = dieOf c then 40 else 160) ≤ (s.coreAt c).cycle → s.replay.mode = .off →
    let row := fld a.toNat 52 10
    let leaf := s.leaf (s.ctxAt (ctxIndex (s.rowCtx c row))).kvroot (fld a.toNat 16 18)
    let e := s.page leaf.1
    (∀ bad, s.pgrefPoison c a = some bad → exec (.pgrefResult c no) s =
      .next ((s.onSeq c .as).terminate c (termRecord 0x11 .as false pc (BitVec.ofNat 32 bad)))) ∧
    (s.rowLive c row = false →
      ∃ t, exec (.pgrefResult c no) s = .next t ∧ t.g.as_ = (s.coreAt c).g.as_.setX d (droppedForm a) ∧ t.dir = s.dir ∧ t.mem = s.mem) ∧
    (s.rowLive c row = true → s.pgrefPoison c a = none → leaf.1 ≠ 0 → (e.level = .sram ∨ (e.level = .hbm ∧ bit a.toNat 51 = false)) →
      slotUse (s.coreAt c).g ((s.coreAt c).g.lastSlot + 1) = 0 → (s.coreAt c).g.slotAwaited ((s.coreAt c).g.lastSlot + 1) = false →
      ((s.coreAt c).g.slot ((s.coreAt c).g.lastSlot + 1)).held = false →
      ∃ t, exec (.pgrefResult c no) s = .next t ∧ t.mem = s.mem ∧ (t.page leaf.1).pins = e.pins + 1 ∧
        t.g.lastSlot = (s.coreAt c).g.lastSlot + 1 ∧
        t.g.as_ = (s.coreAt c).g.as_.setX d (resolvedForm a (e.level == .sram)
          (((s.coreAt c).g.slot ((s.coreAt c).g.lastSlot + 1)).gen + 1) ((s.coreAt c).g.lastSlot + 1)) ∧
        (t.g.slot t.g.lastSlot).held = true ∧ (t.g.slot t.g.lastSlot).gpn = leaf.1 ∧ (t.g.slot t.g.lastSlot).row = row) ∧
    (s.rowLive c row = true → s.pgrefPoison c a = none → (leaf.1 = 0 ∨ (e.level ≠ .sram ∧ (e.level ≠ .hbm ∨ bit a.toNat 51 = true))) → (s.rowLeaves c row 4).anyLive c = true →
      ∃ t, exec (.pgrefResult c no) s = .next t ∧ t.rowLive c row = false ∧ t.dir = s.dir ∧
        t.g.as_ = (s.coreAt c).g.as_.setX d (droppedForm a) ∧
        t.up[clusterOf c] = (s.up[clusterOf c]).send
          (.rowEvent c (s.coreAt c).g.bank.inst (s.rowCtx c row) (.drop (fld a.toNat 16 18) (bit a.toNat 51))) ∧
        (let gpn := ((s.rowLeaves c row 4).leaf (s.ctxAt (ctxIndex (s.rowCtx c row))).kvroot (fld a.toNat 16 18)).1
         let d := if gpn = 0 then dieOf c else homeDie gpn
         t.tenderQ[d] = (s.tenderQ[d]).put s.wakeNo (.need (s.rowCtx c row).toNat (fld a.toNat 16 18) (bit a.toNat 51))))) ∧
  (∀ (s : State) (c : CoreId) (r : Nat), (s.coreAt c).runs = true → (s.coreAt c).g.win = some r → (s.coreAt c).g.budget = 0 →
    exec (.budgetExhausted c) s = .next ((s.onSeq c .xs).closeWindow.rowTrap c r 0x0B 0 0 (s.rowLen c r - 1) 0)) ∧
  (∀ (s : State) (c : CoreId) (xs : Bool), (s.coreAt c).runs = true →
    let u := s.onSeq c (if xs then .xs else .as)
    ((s.coreAt c).haltReq.isSome = true → exec (.waitTimeout c (if xs then .xs else .as)) s = .next u) ∧
    ((s.coreAt c).haltReq = none → 0 < u.seq.waited → u.g.waitMax ≤ u.seq.waited → ∀ ws, u.groupAt u.side 6 u.seq.pc.toNat = some ws →
      let t := ((u.modSeq fun q => { q with grpStart := q.pc }).modSeq fun q =>
        { q with pc := q.pc + BitVec.ofNat 32 (4 * ws.length) }).timeOut (waitKindOf u.seq.waitKind, u.seq.waitObj)
      exec (.waitTimeout c (if xs then .xs else .as)) s =
        .next (if u.g.handler = none ∧ t.g.handler.isSome = true then t.modSeq fun q => { q with bubble := 2 } else t))) ∧
  (∀ (s : State) (c : CoreId), (s.coreAt c).runs = true → ∀ r, (s.coreAt c).g.releases = [r] → s.releaseReady c r = true →
    r.obj.core ≠ c → ∃ t, exec (.releaseUpdate c) s = .next t ∧ (t.coreAt c).g.releases = [] ∧
      t.net = s.net ++ [s.flightOf c (engPath r.issuer) (some r.obj.core) (.sem r.obj r.upd)]) ∧
  (∀ (s : State) (c : CoreId), (s.coreAt c).runs = true → ∃ t, exec (.tokenReady c) s = .next t ∧ t.mem = s.mem ∧
    ∀ n : Fin 8, ((t.coreAt c).g.fifos[n]).toks = ((s.coreAt c).g.fifos[n]).toks.map fun k =>
      match k with
      | .reserved m => if s.storesDone c m [] then .ready (s.coreAt c).cycle else .reserved m
      | .ready b => .ready b) ∧
  (∀ (s : State) (c : CoreId) (site : Fin 8), (s.coreAt c).runs = true → site.val < (s.coreAt c).g.desc.ntaps →
    ∃ t, exec (.tapChunkStaged c site) s = .next t ∧ t.mem = s.mem ∧
      ((t.coreAt c).g.sites[site]).ahead = ((s.coreAt c).g.sites[site]).ahead + 1 ∧
      ∀ m, m ≠ site → (t.coreAt c).g.sites[m] = (s.coreAt c).g.sites[m]) ∧
  (∀ (s : State) (c : CoreId) (w : Guest) (cmd : Cmd), (s.coreAt c).guest = some w → w.home ≠ c → (s.coreAt w.home).runs = true →
    s.guestCmd w = some cmd → w.atBoundary cmd = true → (cmd.units ≤ w.progress ∨ (s.coreAt w.home).haltReq.isSome = true) →
    w.acc.Pairwise (fun a b => a.1 ≠ b.1) →
    ∃ t, exec (.migrationReturn c) s = .next t ∧ (t.coreAt c).guest = none ∧ t.mem = s.mem ∧
      (∀ e ∈ w.acc, accS ((t.coreAt w.home).g.accAt (accKey w.lead e.1)) + accC2 ((t.coreAt w.home).g.accAt (accKey w.lead e.1)) =
        (accS ((s.coreAt w.home).g.accAt (accKey w.lead e.1)) + accC2 ((s.coreAt w.home).g.accAt (accKey w.lead e.1)))
          + (accS e.2 + accC2 e.2)) ∧
      (∀ j, j < w.nbanks → ((t.coreAt w.home).g.bankAt (w.lead + j)).lent = false))

/-- R85, R87, R151 to R154, R236 to R243, R258, R259, R285, R292, R298 to R300, R350: what the words that act leave as it was. A
word that only makes results pending changes no register, no flag and no program counter before its results are due, and no memory;
a queue, stream, store, ring, token, fence, bank or semaphore word changes besides only what its rule names. -/
def Obligations.WordsLeaveTheRestAsItWas : Prop :=
  (∀ (s : State) (i : Instr),
    (onlyResults i = true ∨ (s.replay.mode = .off ∧ ((∃ d c, i = .rdcr d c) ∨ ∃ q d, i = .qcnt q d))) → s.Acts i →
    (∀ a n, (s.ready i).poisonIn a n = none) → (∀ row, (s.ready i).rngPoison row = none) →
    ∃ t, exec i s = .next t ∧ s.OnlyGroupCounted t ∧ (readsMemory i = false → s.OnlyGroup t) ∧ s.OnlyPends t ∧ SameMemory s t ∧
      (∃ rs : List WordResult, t.seq.pend = s.seq.pend ++ rs.map s.pendOf) ∧
      t.g = { s.withSeqOf t with vaFree := t.g.vaFree, vbFree := t.g.vbFree }) ∧
  (∀ (s : State) (i : Instr), ((∃ q a, i = .qpush q a) ∨ (∃ p n, i = .qpushb p n) ∨ ∃ q d, i = .qpop q d) → s.Acts i →
    ∃ t, exec i s = .next t ∧ s.OnlyGroup t ∧ s.OnlyPends t ∧
      t.g = { s.withSeqOf t with queues := t.g.queues, win := t.g.win, budget := t.g.budget, fixedRows := t.g.fixedRows } ∧
      ((∀ a, i ≠ .qpush 14 a) ∨ s.side = .as → SameMemory s t ∧ t.g.fixedRows = s.g.fixedRows) ∧
      (∀ a, i = .qpush 14 a → s.seq.waited = 0 ∨ s.seq.passed = true →
        let k := s.rowKey s.focus ((s.seq.getX a).extractLsb' 32 10).toNat 12
        ∀ key, key < k ∨ k + 4 ≤ key → readByte t.mem key = readByte s.mem key)) ∧
  (∀ (s : State) (i : Instr),
    ((∃ q a z x o, i = .ldq q a z x o) ∨ (∃ k a, i = .agdef k a) ∨ (∃ k a f, i = .agset k a f) ∨ (∃ k a d, i = .agadv k a d) ∨
      (∃ k q, i = .agld k q) ∨ (∃ k q a, i = .aggath k q a) ∨ ∃ d a, i = .pgref d a) → s.Acts i →
    ∃ t, exec i s = .next t ∧ s.OnlyGroup t ∧ s.OnlyPends t ∧ SameMemory s t ∧ t.seq.pend = s.seq.pend ∧
      t.g = { s.withSeqOf t with queues := t.g.queues, asReads := t.g.asReads, readNo := t.g.readNo, ags := t.g.ags }) ∧
  (∀ (s : State) (i : Instr), ((∃ b a z o, i = .st b a z o) ∨ ∃ v a b, i = .vst v a b) → s.Acts i →
    ∃ t, exec i s = .next t ∧ s.OnlyGroup t ∧ s.OnlyPends t ∧ SameMemory s t ∧ t.seq.pend = s.seq.pend ∧
      t.g = { s.withSeqOf t with storeQ := t.g.storeQ, storeNo := t.g.storeNo, vaFree := t.g.vaFree, vbFree := t.g.vbFree }) ∧
  (∀ (s : State) (r : Ring) (a : RegNum), s.Acts (.cmdw r a) →
    let k := ringKey s.focus (s.g.ringOf r) (s.g.ringOf r).cursor
    ∃ t, exec (.cmdw r a) s = .next t ∧ s.OnlyGroup t ∧ s.OnlyPends t ∧ t.seq.pend = s.seq.pend ∧
      t.g = { s.withSeqOf t with me := t.g.me, ch0 := t.g.ch0, ch1 := t.g.ch1 } ∧ (∀ q, q ≠ r → t.g.ringOf q = s.g.ringOf q) ∧
      (s.seq.waited = 0 ∨ s.seq.passed = true → ∀ key, key < k ∨ k + 4 ≤ key → readByte t.mem key = readByte s.mem key)) ∧
  (∀ (s : State) (r : Ring), s.Acts (.cmdpub r) →
    ∃ t, exec (.cmdpub r) s = .next t ∧ s.OnlyGroup t ∧ s.OnlyPends t ∧ SameMemory s t ∧ t.seq.pend = s.seq.pend ∧
      t.g = { s.withSeqOf t with me := t.g.me, ch0 := t.g.ch0, ch1 := t.g.ch1 } ∧ ∀ q, q ≠ r → t.g.ringOf q = s.g.ringOf q) ∧
  (∀ (s : State) (i : Instr),
    ((∃ d, i = .tokpop d) ∨ (∃ d, i = .tokpush d) ∨ (∃ b a, i = .fence b a) ∨ (∃ k a, i = .bind k a) ∨ (∃ d n, i = .aballoc d n) ∨
      (∃ a n, i = .abfree a n ∧ s.abfreeBad (s.seq.getX a).toNat (n.toNat + 1) = none) ∨ ∃ d, i = .frqpop d) → s.Acts i →
    ∃ t, exec i s = .next t ∧ s.OnlyGroup t ∧ s.OnlyPends t ∧ SameMemory s t ∧
      t.g = { s.withSeqOf t with
        fifos := t.g.fifos, fences := t.g.fences, binds := t.g.binds, banks := t.g.banks, acc := t.g.acc, held := t.g.held
        faultQ := t.g.faultQ, faultLost := t.g.faultLost } ∧
      ((∀ d, i ≠ .tokpop d) → (∀ d, i ≠ .tokpush d) → t.g.fifos = s.g.fifos) ∧ ((∀ b a, i ≠ .fence b a) → t.g.fences = s.g.fences) ∧
      ((∀ k a, i ≠ .bind k a) → t.g.binds = s.g.binds) ∧
      ((∀ d n, i ≠ .aballoc d n) → (∀ a n, i ≠ .abfree a n) → t.g.banks = s.g.banks ∧ t.g.acc = s.g.acc ∧ t.g.held = s.g.held) ∧
      ((∀ d, i ≠ .frqpop d) → t.g.faultQ = s.g.faultQ ∧ t.g.faultLost = s.g.faultLost)) ∧
  (∀ (s : State) (i : Instr),
    ((∃ a n, i = .semsigLocal a n) ∨ (∃ a b, i = .semsigRemote a b) ∨ (∃ a n, i = .semsetLocal a n) ∨ (∃ a b, i = .semsetRemote a b) ∨
      ∃ m a b, i = .rel m a b) → s.Acts i → s.replay.mode = .off →
    ∃ t, exec i s = .next t ∧ t = { s with cores := t.cores, mem := t.mem, poison := t.poison, net := t.net } ∧
      (∀ d, d ≠ s.focus → t.coreAt d = s.coreAt d) ∧ t.cur = { s.cur with g := t.g, trace := t.cur.trace } ∧ s.OnlyPends t ∧
      SameMemory s t ∧ t.seq.pend = s.seq.pend ∧ t.g = { s.withSeqOf t with sems := t.g.sems, releases := t.g.releases }) ∧
  (∀ (s : State) (i : Instr), ((∃ o, i = .br o) ∨ (∃ n p o, i = .brp n p o) ∨ ∃ c n d, i = .loopi c n d) → s.Acts i →
    ∃ t, exec i s = .next t ∧ s.OnlyGroup t ∧ SameMemory s t ∧ t.g = s.withSeqOf t ∧
      t.seq = { s.seq with
        pc := t.seq.pc, bubble := t.seq.bubble, took := t.seq.took, mod := none, waited := t.seq.waited, waitFrom := t.seq.waitFrom
        lc := t.seq.lc, loops := t.seq.loops, loopOrder := t.seq.loopOrder } ∧
      ((∀ c n d, i ≠ .loopi c n d) → t.seq.lc = s.seq.lc ∧ t.seq.loops = s.seq.loops))

/-- R211: a step keeps memory in its canonical form: addresses rising, and no byte listed that reads as an unlisted one does. -/
def Obligations.EveryStepKeepsMemoryCanonical : Prop := ∀ s t : State, s.MemOk → step s = .next t → t.MemOk

/-- R48, R49, R63, R64, R69, R356, R357, R362, R366, R371, R374: what a wick does with the head message of its channel, and what a
core does with its launch bank. STAGE and RESUME fill an empty shadow bank and the shadow code windows and are refused otherwise,
WITHDRAW empties it or comes too late, PREEMPT asks the named cores to halt; SWAP_IN starts the staged row group afresh or as it was
saved; CORE_HALTED, SAVE_COMPLETE and RETIREMENT end a row group's run. An uncorrectable error in what a restore reads ends the row group.
The place of a frame in the save pool (log entry 52), the zeros and the clipping of a code window (log entries 66 and 91), and a staging,
a swap-in or a save as one event (log entry 67) are the model's choices. -/
def Obligations.WicksMoveRowGroups : Prop :=
  (∀ (s : State) (w : Fin 32) (c : CoreId) (b : LaunchBank) (rest : List DownMsg), (s.down[w]).sent = .stage c b :: rest →
    ∃ t, exec (.stage w) s = .next t ∧ t.down[w] = (s.down[w]).consume ∧ (t.coreAt c).g = (s.coreAt c).g ∧ (∀ d, d ≠ c → t.coreAt d = s.coreAt d) ∧
      ((s.coreAt c).shadow.valid = true → (t.coreAt c).shadow = (s.coreAt c).shadow ∧ t.mem = s.mem ∧
        t.up[clusterOf c] = (s.up[clusterOf c]).send (.ended c b.inst .notPlaced 0 0xFFFF 0 [])) ∧
      ((s.coreAt c).shadow.valid = false → (t.coreAt c).shadow = { b with valid := true, resume := false } ∧ t.up = s.up ∧
        let code := (s.bankDesc b).code
        (∀ (side : Side2) (off : Nat), off < 65536 → readByte t.mem (codeKey c side (!(s.coreAt c).active) off) =
          if (s.section b.pd code side).1 ≤ off ∧ off < (s.section b.pd code side).1 + (s.section b.pd code side).2
            then s.imageByte b.pd code off else 0) ∧
        (∀ key, (∀ (side : Side2) (off : Nat), off < 65536 → key ≠ codeKey c side (!(s.coreAt c).active) off) →
          readByte t.mem key = readByte s.mem key))) ∧
  (∀ (s : State) (w : Fin 32) (c : CoreId) (b : LaunchBank) (rest : List DownMsg), (s.down[w]).sent = .resume c b :: rest →
    ∃ t, exec (.resume w) s = .next t ∧ t.down[w] = (s.down[w]).consume ∧ (t.coreAt c).g = (s.coreAt c).g ∧ t.saved = s.saved ∧
      ((s.coreAt c).shadow.valid = true → (t.coreAt c).shadow = (s.coreAt c).shadow ∧
        t.up[clusterOf c] = (s.up[clusterOf c]).send (.ended c b.inst .notResumed 0 0xFFFF 0 [])) ∧
      ((s.coreAt c).shadow.valid = false → t.up = s.up ∧ (t.coreAt c).shadow.valid = true ∧ (t.coreAt c).shadow.resume = true ∧
        (t.coreAt c).shadow.inst = b.inst ∧
        (∀ v, (s.saved.find? fun v => v.core = c && v.inst = b.inst) = some v → (t.coreAt c).shadow.saveAddr = v.addr) ∧
        let code := (s.bankDesc b).code
        (∀ (side : Side2) (off : Nat), off < 65536 → readByte t.mem (codeKey c side (!(s.coreAt c).active) off) =
          if (s.section b.pd code side).1 ≤ off ∧ off < (s.section b.pd code side).1 + (s.section b.pd code side).2
            then s.imageByte b.pd code off else 0) ∧
        (∀ key, (∀ (side : Side2) (off : Nat), off < 65536 → key ≠ codeKey c side (!(s.coreAt c).active) off) →
          readByte t.mem key = readByte s.mem key))) ∧
  (∀ (s : State) (w : Fin 32) (c : CoreId) (inst : BitVec 24) (rest : List DownMsg), (s.down[w]).sent = .withdraw c inst :: rest →
    ∃ t, exec (.withdraw w) s = .next t ∧ t.down[w] = (s.down[w]).consume ∧ (t.coreAt c).g = (s.coreAt c).g ∧ t.mem = s.mem ∧
      ((s.coreAt c).shadow.valid = true ∧ (s.coreAt c).shadow.inst = inst → (t.coreAt c).shadow.valid = false ∧
        t.up[clusterOf c] = (s.up[clusterOf c]).send (.wdone c inst true)) ∧
      ((s.coreAt c).shadow.valid = false ∨ (s.coreAt c).shadow.inst ≠ inst → (t.coreAt c).shadow = (s.coreAt c).shadow ∧
        t.up[clusterOf c] = (s.up[clusterOf c]).send (.wdone c inst false))) ∧
  (∀ (s : State) (w : Fin 32) (cores : List CoreId) (inst : BitVec 24) (rest : List DownMsg), (s.down[w]).sent = .preempt cores inst :: rest →
    ∃ t, exec (.preempt w) s = .next t ∧ t.down[w] = (s.down[w]).consume ∧ t.mem = s.mem ∧ t.up = s.up ∧
      ∀ c, t.coreAt c =
        if c ∈ cores ∧ (s.coreAt c).g.run.isSome = true ∧ (s.coreAt c).g.bank.inst = inst ∧ (s.coreAt c).ending = none ∧
            (s.coreAt c).halted = none ∧ (s.coreAt c).haltReq = none then
          { s.coreAt c with
            haltReq := some .preempt, stopHalt := (s.coreAt c).dbg.stopped, dbg := { (s.coreAt c).dbg with stopped := false } }
        else s.coreAt c) ∧
  (∀ (s : State) (c : CoreId) (kind : HaltKind), (s.coreAt c).haltReq = some kind → (s.coreAt c).g.run.isSome = true →
    (s.coreAt c).ending = none → (s.coreAt c).halted = none → (∀ r ∈ (s.coreAt c).g.asReads, r.isPgref = false) → s.meHalts c = true →
      ∃ t, exec (.coreHalted c) s = .next t ∧ (t.coreAt c).haltReq = none ∧ (t.coreAt c).halted = some kind ∧ (t.coreAt c).runs = false ∧
        (t.coreAt c).haltAt = (s.coreAt c).cycle ∧ (t.coreAt c).haltWait = 0 ∧ s.SameGroup t c ∧ (∀ d, d ≠ c → t.coreAt d = s.coreAt d) ∧ (s.tracing c = none → t.mem = s.mem) ∧
        t.net = s.net.filter fun f => !s.abandoned c .ch0 f && !s.abandoned c .ch1 f) ∧
  (∀ (s : State) (c : CoreId) (kind : HaltKind) (slot : Fin 4) (base : Word), (s.coreAt c).halted = some kind → s.freeSlot c = some slot →
    s.savePool[dieOf c] = some base → (s.coreAt c).ending = none → s.stepsOpen c = [] →
    let u := s.finishSigs c
      ∃ t, exec (.saveComplete c) s = .next t ∧ (t.coreAt c).g.run = none ∧ (t.coreAt c).halted = none ∧
        t.saved = s.saved ++ [{ core := c, slot := slot, addr := BitVec.ofNat 64 (base.toNat + (c.val % 128 * 4 + slot.val) * 0x600000)
                                kind := kind, inst := (s.coreAt c).g.bank.inst, g := (u.coreAt c).g.toSave, evicted := 0
                                stopPending := (s.coreAt c).stopLater }] ∧
        t.up[clusterOf c] = (s.up[clusterOf c]).send (.saved c (s.coreAt c).g.bank.inst) ∧
        (∀ key, key < devKey (frameAddr base c slot) → readByte t.mem key = readByte u.mem key)) ∧
  (∀ (s : State) (c : CoreId) (b : LaunchBank), (s.coreAt c).shadow = b → b.valid = true → b.resume = false →
    (s.coreAt c).g.run = none → (s.coreAt c).guest = none → (∀ v ∈ s.saved, v.core ≠ c) → (∀ h ∈ (s.coreAt c).heldSems, h.inst ≠ b.inst) →
      let d := s.bankDesc b
      let lens := (((((s.inst b.inst).map Inst.rows).getD []).drop b.rowFirst).take b.rowCount).map InstRow.len
      ∃ t taps table, exec (.swapIn c) s = .next t ∧ (t.coreAt c).g = freshGroup b d taps table lens ∧ taps.length = d.ntaps ∧
        (t.coreAt c).shadow.valid = false ∧ (t.coreAt c).active = !(s.coreAt c).active ∧ (t.coreAt c).runs = !(s.coreAt c).dbg.stopped ∧
        t.up[clusterOf c] = (s.up[clusterOf c]).send (.started c b.inst) ∧ (∀ e, e ≠ c → t.coreAt e = s.coreAt e) ∧
        (t.coreAt c).g.xs.pc = BitVec.ofNat 32 d.xsEntry ∧ (t.coreAt c).g.as_.pc = BitVec.ofNat 32 d.asEntry ∧
        (∀ k : Fin 16, d.parts.getLsbD (k.val / 4) = true →
          (t.coreAt c).owner[k] = if d.ntaps ≠ 0 ∧ k = 15 then .tap else .pd b.pd) ∧
        (d.me.pre = 0 → d.ch0.pre = 0 → d.ch1.pre = 0 → ∀ (i : Inst) (n k : Nat) (r : InstRow) (v : Word), s.inst b.inst = some i → n < b.rowCount →
          i.rows[b.rowFirst + n]? = some r → k < 16 → r.words[k]? = some v → (∀ r ∈ i.rows, r.words.length = 16) →
            readLE t.mem (sramKey c (rowAreaBase d + 128 * n + 8 * k)) 8 = v.toNat)) ∧
  (∀ (s : State) (c : CoreId) (b : LaunchBank) (v : Saved), (s.coreAt c).shadow = b → b.valid = true → b.resume = true →
    (s.coreAt c).g.run = none → (s.coreAt c).guest = none → (s.saved.filter fun x => x.core = c) = [v] → v.inst = b.inst → v.core = c →
    v.evicted = 0 → (∀ h ∈ (s.coreAt c).heldSems, h.inst ≠ b.inst) →
      (∀ bad, s.savedPoison v = some bad →
        exec (.swapIn c) s = .next ((s.endSaved v bad).setShadow c { b with valid := false })) ∧
      (s.savedPoison v = none → v.stopPending = none →
      let lens := (List.range v.g.rowCount).map fun n => readLE s.mem (sramKey c (v.g.rowBase + 128 * n + 4)) 2
      ∃ t, exec (.swapIn c) s = .next t ∧
        (t.coreAt c).g = { v.g.reissue (s.coreAt c).cycle (s.readPieces v.g.bank.pd) with run := v.g.run.map fun r => { r with lens := lens } } ∧
        t.saved = s.saved.filter (fun x => x.core ≠ c) ∧
        (t.coreAt c).shadow.valid = false ∧ (t.coreAt c).active = !(s.coreAt c).active ∧ t.mem = s.mem ∧
        t.up[clusterOf c] = (s.up[clusterOf c]).send (.started c b.inst))) ∧
  (∀ (s : State) (c : CoreId), s.mayRetire c = true → s.tracing c = none →
    ∃ t, exec (.retirement c) s = .next t ∧ (t.coreAt c).g.run = none ∧ t.mem = s.mem ∧ t.up[clusterOf c] = (s.up[clusterOf c]).send
      (.ended c (s.coreAt c).g.bank.inst .retired 0 0xFFFF ((s.coreAt c).g.fsr ||| (s.coreAt c).g.flagWord)
        ((List.range (s.coreAt c).g.rowCount).map (s.rowReport c))))

/-- R11, R13, R26, R49, R52, R63, R64, R66, R225, R318, R352, R376: what the Lantern does with the head message of a wick. STARTED
and WDONE move a row group's phase; ENDED ends it, faults the LIVE rows of a terminated one, cancels the instance of one that was
not placed, and with the last one commits or returns the rows; ROWEVENT parks its row's context; SAVED lets the row group be
resumed. -/
def Obligations.LanternActsOnWickReports : Prop :=
  (∀ (s : State) (w : Fin 32) (c : CoreId) (id : BitVec 24) (rest : List UpMsg), (s.up[w]).sent = .started c id :: rest → s.NoneSaved →
    ∃ t, exec (.started w) s = .next t ∧ t = { s with up := s.up.set w (s.up[w]).consume, insts := t.insts } ∧
      t.insts = s.insts.map fun i => if i.id = id then i.modGroup c (fun g => { g with phase := .running }) else i) ∧
  (∀ (s : State) (w : Fin 32) (c : CoreId) (id : BitVec 24) (rest : List UpMsg) (i : Inst) (g : InstGroup), (s.up[w]).sent = .wdone c id false :: rest →
    s.NoneSaved → s.NoRecords → s.inst id = some i → (i.groups.find? fun g => g.core = c) = some g → g.phase = .withdrawn →
      ∃ t, exec (.wdone w) s = .next t ∧ t = { s with up := s.up.set w (s.up[w]).consume, insts := t.insts } ∧
        t.insts = s.insts.map fun i => if i.id = id then i.modGroup c (fun g => { g with phase := .running }) else i) ∧
  (∀ (s : State) (w : Fin 32) (c : CoreId) (id : BitVec 24) (rest : List UpMsg) (i : Inst) (g : InstGroup), (s.up[w]).sent = .wdone c id true :: rest →
    s.NoneSaved → s.NoRecords → s.inst id = some i → (i.groups.find? fun g => g.core = c) = some g → g.phase = .withdrawn →
    (∃ o ∈ i.groups, o.core ≠ c ∧ o.phase ≠ .ended) →
      ∃ t, exec (.wdone w) s = .next t ∧ t = { s with up := s.up.set w (s.up[w]).consume, insts := t.insts } ∧
        t.insts = s.insts.map fun i =>
          if i.id = id then i.modGroup c (fun g => { g with phase := .ended, gone := true, how := some .notPlaced }) else i) ∧
  (∀ (s : State) (w : Fin 32) (c : CoreId) (id : BitVec 24) (how : EndKind) (term : Word) (dump : BitVec 16) (fl : BitVec 8)
      (rows : List RowReport) (rest : List UpMsg) (i : Inst), (s.up[w]).sent = .ended c id how term dump fl rows :: rest →
    (how = .retired ∨ how = .yielded) → s.NoneSaved → s.NoRecords → s.inst id = some i →
      ((∃ o ∈ i.groups, o.core ≠ c ∧ o.phase ≠ .ended) →
        ∃ t, exec (.ended w) s = .next t ∧ t = { s with up := s.up.set w (s.up[w]).consume, insts := t.insts } ∧
          t.insts = s.insts.map fun i =>
            if i.id = id then { i.modGroup c (fun g =>
              { g with phase := .ended, gone := true, how := some how, term := term, dump := dump, reports := rows }) with
                flags := i.flags ||| fl } else i) ∧
      (∀ (g : InstGroup) (r : InstRow) (p : RowReport), i.groups = [g] → g.core = c → g.rowFirst = 0 → g.rowCount = 1 → g.stage + 1 = i.nstages →
        i.rows = [r] → r.left = false → i.cancelled = false → rows = [p] → p.live = true → p.cut = none → p.marks = [] →
        let n := ctxIndex r.ctx
        let x := s.ctxAt n
        ∃ t, exec (.ended w) s = .next t ∧ (∀ j ∈ t.insts, j.id ≠ id) ∧
          (how = .retired → i.lastNode = true → t.ctxAt n = { x with
            node := x.node + 1, accepted := p.accept, lineage := p.lineage, rng := p.rng, rngCount := p.count
            nflags := x.nflags ||| (i.flags ||| fl), st := .parked, reason := .host, since := s.now }) ∧
          (how = .retired → i.lastNode = false → t.ctxAt n = { x with
            node := x.node + 1, accepted := p.accept, lineage := p.lineage, rng := p.rng, rngCount := p.count
            nflags := x.nflags ||| (i.flags ||| fl), st := .ready, reason := .none, since := s.now, entry := s.now, aged := false
            row := { rlen := p.rlen, pos := p.pos, lineage := p.lineage.toNat, tag := r.tag, cq := r.cq } }) ∧
          (how = .yielded → t.ctxAt n = { x with st := .ready, reason := .none, since := s.now, entry := r.entry, aged := false }))) ∧
  (∀ (s : State) (w : Fin 32) (c : CoreId) (id : BitVec 24) (term : Word) (dump : BitVec 16) (fl : BitVec 8) (p : RowReport)
      (rest : List UpMsg) (i : Inst) (k : Nat) (r : InstRow), (s.up[w]).sent = .ended c id .terminated term dump fl [p] :: rest →
    s.NoneSaved → s.NoRecords → s.inst id = some i → (∃ o ∈ i.groups, o.core ≠ c ∧ o.phase ≠ .ended) → i.rowOf p.ctx = some k →
    i.rows[k]? = some r → r.left = false → p.live = true →
      ∃ t, exec (.ended w) s = .next t ∧ t.ctxAt (ctxIndex p.ctx) = { s.ctxAt (ctxIndex p.ctx) with
        st := .faulted, reason := .none, since := s.now, pcause := term.extractLsb' 56 8, pnode := BitVec.ofNat 16 i.node
        pcore := BitVec.ofNat 9 c.val }) ∧
  (∀ (s : State) (w : Fin 32) (c : CoreId) (id : BitVec 24) (term : Word) (dump : BitVec 16) (fl : BitVec 8) (rows : List RowReport)
      (rest : List UpMsg) (i : Inst), (s.up[w]).sent = .ended c id .notPlaced term dump fl rows :: rest → s.NoneSaved → s.NoRecords →
    s.inst id = some i → i.cancelled = false → (∃ o ∈ i.groups, o.core ≠ c ∧ o.phase ≠ .ended) →
      ∃ t, exec (.ended w) s = .next t ∧ (∃ j, t.inst id = some j ∧ j.cancelled = true) ∧
        (∀ g ∈ i.groups, g.core ≠ c → g.phase ≠ .ended →
          .withdraw g.core id ∈ (t.down[clusterOf g.core]).sent ++ (t.down[clusterOf g.core]).held) ∧ t.lan = s.lan) ∧
  (∀ (s : State) (w : Fin 32) (c : CoreId) (id : BitVec 24) (ctx : BitVec 32) (what : RowHappening) (rest : List UpMsg) (i : Inst) (k : Nat)
      (r : InstRow), (s.up[w]).sent = .rowEvent c id ctx what :: rest → s.NoneSaved → s.replay.mode = .off → s.inst id = some i →
    i.rowOf ctx = some k → i.rows[k]? = some r → r.ctx = ctx →
      let n := ctxIndex ctx
      ∃ t, exec (.rowevent w) s = .next t ∧ t.up[w] = (s.up[w]).consume ∧
        t.tenderQ = s.tenderQ ∧ (r.left = true → t.lan = s.lan) ∧
        (r.left = false → (∃ j, t.inst id = some j ∧ j = i.leave k) ∧
          (∀ page sram, what = .drop page sram → t.ctxAt n = { s.ctxAt n with
            st := .parked, reason := .page, since := s.now, ppage := BitVec.ofNat 64 page, pnode := BitVec.ofNat 16 i.node }) ∧
          (∀ cause probe site pos score, what = .trap cause probe site pos score →
            t.ctxAt n = { s.ctxAt n with
              st := .parked, reason := if cause = 0x0C then .probe else if cause = 0x0B then .budget else .ktrap, since := s.now
              pcause := cause, psite := site.setWidth 8, pprobe := probe, ppos := BitVec.ofNat 32 pos, pnode := BitVec.ofNat 16 i.node
              pscore := score }))) ∧
  (∀ (s : State) (w : Fin 32) (c : CoreId) (id : BitVec 24) (rest : List UpMsg), (s.up[w]).sent = .saved c id :: rest → s.NoneSaved →
    ((s.coreAt c).g.run.isSome = true →
      ∃ t, exec (.saved w) s = .next t ∧ t = { s with up := s.up.set w (s.up[w]).consume, insts := t.insts } ∧
        t.insts = s.insts.map fun i => if i.id = id then i.modGroup c (fun g => { g with phase := .saved }) else i) ∧
    (∀ (i : Inst) (g : InstGroup), s.insts = [i] → i.id = id → i.groups = [g] → g.core = c → (s.coreAt c).g.run = none →
      (s.coreAt c).shadow.valid = false → s.mgmt.phase = .run → s.lan.ctxs = [] →
        ∃ t b, exec (.saved w) s = .next t ∧ t.insts = [i.modGroup c (fun g => { g with phase := .resuming, refused := false })] ∧
          t.down[clusterOf c] = (s.down[clusterOf c]).send (.resume c b) ∧ b.inst = id ∧ b.resume = true))

/-- R11, R12, R13, R227: what the Lantern does with the head reply of a Tender, once it is the oldest about its context: RESIDENT
puts the row of a context that waits for its page in the pool, SWAPPEDOUT makes a parked context SWAPPED, and SWAPPEDIN parks a
SWAPPED one again; a reply about a context that has been released, or whose state has changed, changes no context, and one that is
not the oldest waits. -/
def Obligations.LanternActsOnPageReplies : Prop :=
  (∀ (s : State) (d : Fin 4) (no h : Nat) (rest : List (Nat × TenderReply)), (s.tenderReplies[d]).queue = (no, .resident h) :: rest →
    let n := h % 131072
    (oldestOf TenderReply.ctx s.tenderReplies no (.resident h) = false → exec (.resident d) s = .next s) ∧
    (oldestOf TenderReply.ctx s.tenderReplies no (.resident h) = true →
      ∃ t, exec (.resident d) s = .next t ∧ t.tenderReplies = s.tenderReplies.set d ((s.tenderReplies[d]).take 0) ∧ t.ctxAt n =
        if s.names (BitVec.ofNat 32 h) = true ∧ (s.ctxAt n).st = .parked ∧ (s.ctxAt n).reason = .page then
          { s.ctxAt n with st := .ready, reason := .none, since := s.now, entry := s.now, aged := false }
        else s.ctxAt n)) ∧
  (∀ (s : State) (d : Fin 4) (no h : Nat) (rest : List (Nat × TenderReply)), (s.tenderReplies[d]).queue = (no, .swappedOut h) :: rest →
    let n := h % 131072
    (oldestOf TenderReply.ctx s.tenderReplies no (.swappedOut h) = false → exec (.swappedout d) s = .next s) ∧
    (oldestOf TenderReply.ctx s.tenderReplies no (.swappedOut h) = true →
      ∃ t, exec (.swappedout d) s = .next t ∧ t.tenderReplies = s.tenderReplies.set d ((s.tenderReplies[d]).take 0) ∧ t.ctxAt n =
        if s.names (BitVec.ofNat 32 h) = true ∧ (s.ctxAt n).st = .parked ∧ (s.ctxAt n).reason ≠ .page then
          { s.ctxAt n with st := .swapped, since := s.now }
        else s.ctxAt n)) ∧
  (∀ (s : State) (d : Fin 4) (no h : Nat) (rest : List (Nat × TenderReply)), (s.tenderReplies[d]).queue = (no, .swappedIn h) :: rest →
    let n := h % 131072
    (oldestOf TenderReply.ctx s.tenderReplies no (.swappedIn h) = false → exec (.swappedin d) s = .next s) ∧
    (oldestOf TenderReply.ctx s.tenderReplies no (.swappedIn h) = true →
      ∃ t, exec (.swappedin d) s = .next t ∧ t.tenderReplies = s.tenderReplies.set d ((s.tenderReplies[d]).take 0) ∧ t.ctxAt n =
        if s.names (BitVec.ofNat 32 h) = true ∧ (s.ctxAt n).st = .swapped then { s.ctxAt n with st := .parked, since := s.now }
        else s.ctxAt n))

/-- R7, R8, R11, R12, R31, R32, R35 to R37, R39, R40, R53, R227, R377, R379: what the host's writes to queues and contexts do, and
what the Lantern does with a record. A doorbell, alone or by a reconcile pass, moves TAIL as far as the ring is free; a descriptor
takes its words while it is disabled, and starts afresh when it is enabled; a word of a context is written in the states that allow
it, WAKE with a HINT; a record is refused with its code, or admits or frees its contexts, and HEAD passes it. That messages about a
whole context go to the Tender of die INDEX mod 4 is the model's choice (log entry 61).
What becomes of LOG2N and RLLOG2N out of range, that CTX is 0 in a whole record's refusal, and that RLLOST wraps are the model's choices
(log entries 82 and 83), and so are a record of another TYPE than 2 as a launch's (log entry 65) and inputs before boot's end and in FATAL (log entry 55). -/
def Obligations.QueuesAndRecordsAct : Prop :=
  (∀ (s : State) (q : Fin 4096) (v : Word), s.TakesInputs →
    ∃ t, exec (.sqDoorbell q v) s = .next t ∧ t.sqAt q.val = rungDesc (s.sqAt q.val) v ∧ t.mem = s.mem ∧
      ∀ p : Nat, p ≠ q.val → t.sqAt p = s.sqAt p) ∧
  (∀ (s : State), s.TakesInputs →
    ∃ t, exec .reconcilePass s = .next t ∧ t.mem = s.mem ∧ t.lan = s.lan ∧ ∀ q : Nat, t.sqAt q =
      if (s.sqAt q).en = true then rungDesc (s.sqAt q) (s.word ((s.sqAt q).key (s.sqAt q).mirror.toNat)) else s.sqAt q) ∧
  (∀ (s : State) (q : Fin 4096) (k : Fin 8) (v : Word), s.TakesInputs →
    let d := s.sqAt q.val
    ∃ t, exec (.sqDescriptorWrite q k v) s = .next t ∧ (∀ p : Nat, p ≠ q.val → t.sqAt p = s.sqAt p) ∧
      (d.en = false → (k = 0 → t.sqAt q.val = { d with base := v }) ∧ (k = 2 → t.sqAt q.val = { d with rlBase := v }) ∧
        (k = 3 → t.sqAt q.val = { d with rlLog2n := v.extractLsb' 0 5 }) ∧ (k = 6 → t.sqAt q.val = { d with mirror := v })) ∧
      (d.en = true → (k = 0 ∨ k = 2 ∨ k = 3 ∨ k = 6 → t.sqAt q.val = d) ∧
        (k = 1 → t.sqAt q.val = { d with en := v.getLsbD 54, vec := v.extractLsb' 0 11 })) ∧
      (d.en = false → k = 1 → v.getLsbD 54 = true → 4 ≤ (v.extractLsb' 56 5).toNat → (v.extractLsb' 56 5).toNat ≤ 16 →
        4 ≤ d.rlLog2n.toNat → d.rlLog2n.toNat ≤ 16 → t.sqAt q.val = { d with
          log2n := v.extractLsb' 56 5, loc := v.getLsbD 55, pd := v.extractLsb' 32 12, vec := v.extractLsb' 0 11, en := true
          lastSeq := 0, tail := 0, head := 0, rlHead := 0, rlTail := 0 } ∧
        (d.head ≠ d.tail → readLE t.mem ((if v.getLsbD 55 then devKey else hostKey) (d.mirror.toNat + 8)) 8 = 0)) ∧
      (d.en = false → k = 1 → v.getLsbD 54 = true →
        ((v.extractLsb' 56 5).toNat < 4 ∨ 16 < (v.extractLsb' 56 5).toNat ∨ d.rlLog2n.toNat < 4 ∨ 16 < d.rlLog2n.toNat) →
          (t.sqAt q.val).en = false ∧ (t.sqAt q.val).malform = true) ∧
      (k = 4 → t.sqAt q.val = d) ∧
      (k = 5 → t.sqAt q.val = { d with overrun := d.overrun && !v.getLsbD 17, malform := d.malform && !v.getLsbD 16 }) ∧
      (k = 7 → t.sqAt q.val =
        if (v.extractLsb' 0 16).toNat < 2 ^ d.rlLog2n.toNat then { d with rlHead := v.extractLsb' 0 16 } else d)) ∧
  (∀ (s : State) (q : Fin 4096) (k : Fin 8) (v : Word), s.TakesInputs → (s.cqAt q.val).due = [] → (s.cqAt q.val).held = [] →
    let d := s.cqAt q.val
    let n := v.extractLsb' 56 5
    ∃ t, exec (.cqDescriptorWrite q k v) s = .next t ∧ t.mem = s.mem ∧ (∀ p : Nat, p ≠ q.val → t.cqAt p = s.cqAt p) ∧
      (k = 0 → t.cqAt q.val = if d.en = true then d else { d with base := v }) ∧
      (k = 1 → d.en = true → t.cqAt q.val = { d with en := v.getLsbD 55 }) ∧
      (k = 1 → d.en = false → v.getLsbD 55 = true →
        let bad := n.toNat < 4 ∨ 16 < n.toNat ∨ v.extractLsb' 40 8 = 0 ∨ v.extractLsb' 32 8 = 0 ∨ 64 < (v.extractLsb' 32 8).toNat
        (bad → (t.cqAt q.val).en = false ∧ (t.cqAt q.val).malform = true) ∧
        (¬bad → t.cqAt q.val = { d with
          log2n := n, pnote := v.getLsbD 54, cn := v.extractLsb' 40 8, ct := v.extractLsb' 32 8, vec := v.extractLsb' 0 11, en := true
          tail := 0, head := 0, phase := true })) ∧
      (k = 2 → t.cqAt q.val = { d with malform := d.malform && !v.getLsbD 18 }) ∧
      (k = 3 → t.cqAt q.val = if d.en = true then d else { d with pd := v.extractLsb' 32 12 })) ∧
  (∀ (s : State) (q : Fin 4096) (v : Word), s.TakesInputs → (s.cqAt q.val).due = [] → (s.cqAt q.val).held = [] →
    ∃ t, exec (.cqHeadDoorbell q v) s = .next t ∧ t.cqAt q.val =
      if v.toNat < 2 ^ 16 ∧ v.toNat < 2 ^ (s.cqAt q.val).log2n.toNat then { s.cqAt q.val with head := v.extractLsb' 0 16 } else s.cqAt q.val) ∧
  (∀ (s : State) (i : Fin 131072) (k : Fin 64) (v : Word), s.TakesInputs →
    let x := s.ctxAt i.val
    let may := x.st = .free ∨ x.st = .faulted ∨ (x.st = .parked ∧ x.reason = .host)
    let ro := k = 0 ∨ k = 5 ∨ k = 6 ∨ (17 ≤ k.val ∧ k.val ≤ 31)
    ∃ t, exec (.lightListWrite i k v) s = .next t ∧ (∀ j, j ≠ i.val → t.ctxAt j = s.ctxAt j) ∧
      (ro → t = s) ∧
      (¬ro → ¬may → t = { s with mgmt := { s.mgmt with lightDiscards := s.mgmt.lightDiscards + 1 } }) ∧
      (¬ro → may →
        (∀ j, j < 64 → j ≠ k.val → (t.ctxAt i.val).word i.val j = x.word i.val j) ∧
        ((k = 2 ∨ k = 3 ∨ k = 4 ∨ k = 8 ∨ (11 ≤ k.val ∧ k.val ≤ 16) ∨ 32 ≤ k.val) → (t.ctxAt i.val).word i.val k.val = v.toNat) ∧
        (k = 1 → (t.ctxAt i.val).prio.val = (v.extractLsb' 32 3).toNat ∧ (t.ctxAt i.val).shd = v.extractLsb' 16 12 ∧
          (t.ctxAt i.val).pd = v.extractLsb' 0 12) ∧
        (k = 7 → (t.ctxAt i.val).accepted = v.extractLsb' 0 32 ∧ (t.ctxAt i.val).lineage = x.lineage) ∧
        (k = 9 → (t.ctxAt i.val).nflags = x.nflags &&& ~~~(v.extractLsb' 0 8)) ∧
        (k = 10 → (t.ctxAt i.val).probeSet = v.extractLsb' 8 8 ∧ (t.ctxAt i.val).steerEn = v.getLsbD 7 ∧
          (t.ctxAt i.val).steerSet = v.extractLsb' 0 6) ∧
        (k = 3 → t.tenderQ[ctxDie (handleOf i.val x).toNat] =
          (s.tenderQ[ctxDie (handleOf i.val x).toNat]).put s.wakeNo (.hint (handleOf i.val x).toNat v)) ∧
        (k ≠ 3 → t.tenderQ = s.tenderQ))) ∧
  (∀ (s : State) (q : Nat) (code : Nat), s.mgmt.phase = .run → s.nextQueue = some q → (s.headRec q).type ≠ 2 →
    s.checkRec q (s.headRec q) = some code →
      let d := s.sqAt q
      let n := 2 ^ d.rlLog2n.toNat
      let at_ := hostKey (d.rlBase.toNat + 16 * d.rlTail.toNat)
      ∃ t, exec .launch s = .next t ∧ t.lan = s.lan ∧ t.front.served = q ∧ t.msix = s.msix ++ [(q / 1024, d.vec.toNat)] ∧
        (t.sqAt q).head = BitVec.ofNat 16 ((d.head.toNat + 1) % 2 ^ d.log2n.toNat) ∧
        ((d.rlTail.toNat + 1) % n = d.rlHead.toNat → (t.sqAt q).rlLost = d.rlLost + 1 ∧ (t.sqAt q).rlTail = d.rlTail) ∧
        ((d.rlTail.toNat + 1) % n ≠ d.rlHead.toNat → (t.sqAt q).rlTail = BitVec.ofNat 16 ((d.rlTail.toNat + 1) % n) ∧
          (at_ + 16 ≤ d.key (d.mirror.toNat + 8) ∨ d.key (d.mirror.toNat + 8) + 8 ≤ at_ →
            readLE t.mem at_ 8 = (code * 2 ^ 56 + 0xFFFF * 2 ^ 32 + (s.headRec q).tag) % 2 ^ 64 ∧
            readLE t.mem (at_ + 8) 8 = d.head.toNat))) ∧
  (∀ (s : State) (q : Nat) (g : GraphEntry), s.mgmt.phase = .run → s.nextQueue = some q →
    let r := s.headRec q
    let d := s.sqAt q
    let e := s.listElem q d.pd r.list 0
    let n := ctxIndex e.ctx
    let x := s.ctxAt n
    r.type = 1 → s.checkRec q r = none → r.nctx = 1 → (s.lan.graphs.find? fun g => g.pd = d.pd && g.addr = r.graph) = some g →
    s.checkLaunch d.pd g.id e = none →
      let row : RowData := { rlen := e.rlen, pos := e.pos, lineage := e.lineage, tag := BitVec.ofNat 32 r.tag, cq := r.cq }
      ∃ t, exec .launch s = .next t ∧ t.front.served = q ∧ t.insts = s.insts ∧ t.msix = s.msix ∧
        (t.sqAt q).head = BitVec.ofNat 16 ((d.head.toNat + 1) % 2 ^ d.log2n.toNat) ∧
        readLE t.mem (d.key (d.mirror.toNat + 8)) 8 = (d.head.toNat + 1) % 2 ^ d.log2n.toNat ∧
        (x.st = .free ∨ (x.st = .parked ∧ x.reason = .host) → t.ctxAt n = { x with
          st := .ready, reason := .none, since := s.now, entry := s.now, aged := false, graphId := g.id, node := 0, row := row }) ∧
        (x.st = .faulted ∨ (x.st = .parked ∧ x.reason ≠ .host) → t.ctxAt n = { x with
          st := .ready, reason := .none, since := s.now, entry := s.now, aged := false, row := row }) ∧
        (x.st = .swapped → (t.ctxAt n).st = .parked ∧ (t.ctxAt n).reason = .page ∧ (t.ctxAt n).row = row ∧
          t.tenderQ[ctxDie e.ctx.toNat] = (s.tenderQ[ctxDie e.ctx.toNat]).put s.wakeNo (.swapIn e.ctx.toNat))) ∧
  (∀ (s : State) (q : Nat), s.mgmt.phase = .run → s.nextQueue = some q →
    let r := s.headRec q
    let d := s.sqAt q
    let e := s.listElem q d.pd r.list 0
    let n := ctxIndex e.ctx
    r.type = 2 → s.checkRec q r = none → r.nctx = 1 →
      ∃ t, exec .release s = .next t ∧ t.front.served = q ∧ (t.sqAt q).head = BitVec.ofNat 16 ((d.head.toNat + 1) % 2 ^ d.log2n.toNat) ∧
        (s.names e.ctx = true → (s.ctxAt n).pd = d.pd → (s.ctxAt n).releasable = true →
          t.ctxAt n = { Ctx.reset with gen := (s.ctxAt n).gen + 1, since := s.now } ∧ t.msix = s.msix ∧
          t.tenderQ[ctxDie e.ctx.toNat] = (s.tenderQ[ctxDie e.ctx.toNat]).put s.wakeNo (.released e.ctx.toNat)) ∧
        (s.names e.ctx = false ∨ (s.ctxAt n).pd ≠ d.pd ∨ (s.ctxAt n).releasable = false →
          t.lan = s.lan ∧ t.tenderQ = s.tenderQ ∧ t.msix = s.msix ++ [(q / 1024, d.vec.toNat)])) ∧
  (∀ (s : State) (q : Nat) (r : CompRec),
    let d := s.cqAt q
    s.mgmt.phase ≠ .fatal → d.due = [] → d.held = [] → d.canWrite = true → s.awaited r = false →
      let at_ := hostKey (d.base.toNat + 32 * d.tail.toNat)
      let n := (d.tail.toNat + 1) % 2 ^ d.log2n.toNat
      let t := s.complete q r
      readLE t.mem at_ 8 = ((r.words[0] : Word) ||| (if d.phase then 0x800000000000#64 else 0)).toNat ∧
      (∀ k : Fin 4, k ≠ 0 → readLE t.mem (at_ + 8 * k.val) 8 = (r.words[k] : Word).toNat) ∧
      (t.cqAt q).tail = BitVec.ofNat 16 n ∧ (t.cqAt q).phase = (if n = 0 then !d.phase else d.phase) ∧ t.lan = s.lan ∧
      t.msix = s.msix ++ (if d.cn.toNat ≤ d.fresh + 1 then [(q / 1024, d.vec.toNat)] else []))

/-- R23, R53 to R62, R66, R380: a formation turn of the Lantern without an aged row takes the rows of the key that its virtual times
choose, in rank order and at most 1,024, places them on the cores chosen where R60 allows the choice, makes them an instance whose
regions conflict with no other's, sets their contexts RUNNING and sends a STAGE for each core; a row is aged once its time in the
pool is over; records that no interrupt covers get one when the queue's time is over.
That an aged row stays aged (log entry 42), and what a turn asks of its span and of cores that are kept (log entries 44 and 45), are the
model's readings and choices. -/
def Obligations.LanternFormsBatches : Prop :=
  (∀ (s : State) (cores : List CoreId), s.mgmt.phase ≠ .run → exec (.formationTurn cores) s = .next s) ∧
  (∀ (s : State) (cores : List CoreId) (k : RowKey) (d : NodeDesc) (last : Bool), s.mgmt.phase = .run → s.replay.mode = .off → s.NoneSaved →
    s.NoRecords → s.agedRows = [] → s.pickKey (s.eligible [] s.keptFor) = some k → s.keyNode k = some (d, last) → d.dlpol = 1 →
    s.insts.length < 2 ^ 24 →
      let rows := (s.rowsOf k d).take 1024
      let w := min d.cps rows.length
      rows ≠ [] → s.spanOk (s.eligible [] s.keptFor) cores w d.stages = true →
        ∃ t i, exec (.formationTurn cores) s = .next t ∧ t.insts = s.insts ++ [i] ∧ (∀ j ∈ s.insts, j.id ≠ i.id) ∧
          i.pd = k.pd ∧ i.graph = k.graph ∧ i.node = k.node ∧ i.desc = d ∧ i.lastNode = last ∧ i.width = w ∧ i.nstages = d.stages ∧
          i.cancelled = false ∧ i.rows.map InstRow.ctx = rows.map (fun e => handleOf e.2.1 e.2.2) ∧
          i.groups.map InstGroup.core = cores ∧ (∀ g ∈ i.groups, g.phase = .staged) ∧
          (∀ e ∈ rows, (t.ctxAt e.2.1).st = .running) ∧ (∀ n, (∀ e ∈ rows, e.2.1 ≠ n) → t.ctxAt n = s.ctxAt n) ∧
          (∀ c ∈ cores, ∃ b, .stage c b ∈ (t.down[clusterOf c]).sent ++ (t.down[clusterOf c]).held ∧ b.inst = i.id ∧ b.pd = k.pd) ∧ t.mem = s.mem ∧
          (∀ j ∈ s.insts, j.conflicts d = false)) ∧
  (∀ (s : State) (cores : List CoreId), s.NoneSaved → s.NoRecords → s.agedRows = [] → s.pickKey (s.eligible [] s.keptFor) = none →
    exec (.formationTurn cores) s = .next s) ∧
  (∀ (d : NodeDesc) (i : Nat) (x : Ctx) (last : Bool), rowDeadline d x < 2 ^ 64 → x.row.rlen < 2 ^ 16 → x.row.pos < 2 ^ 32 →
    let ws := rowWords d last i x
    ws.length = 16 ∧ ws[0]?.map (fun w => w.extractLsb' 0 32) = some (handleOf i x) ∧
      ws[0]?.map (fun w => (w.extractLsb' 32 16).toNat) = some x.row.rlen ∧ ws[0]?.map (fun w => w.getLsbD 48) = some true ∧
      ws[1]?.map (fun w => (w.extractLsb' 0 32).toNat) = some x.row.pos ∧ ws[1]?.map (fun w => w.extractLsb' 32 32) = some x.accepted ∧
      ws[4]? = some x.rng.s0 ∧ ws[8]? = some x.rngCount ∧ ws[9]?.map BitVec.toNat = some (rowDeadline d x)) ∧
  (∀ (s : State) (i : Fin 131072), s.NoneSaved →
    exec (.rowAged i) s = .next (if (s.ctxAt i.val).st = .ready ∧ s.share (s.ctxAt i.val).prio ≠ 0 ∧ s.weight (s.ctxAt i.val).pd ≠ 0 ∧
        ((s.ctxAt i.val).aged = true ∨ (s.ctxAt i.val).entry + s.params.ageMax ≤ s.now) then
      s.setCtx i.val { s.ctxAt i.val with aged := true } else s)) ∧
  (∀ (s : State) (q : Fin 4096),
    let d := s.cqAt q.val
    ∃ t, exec (.cqCoalesceTimeout q) s = .next t ∧ t.mem = s.mem ∧
      (0 < d.fresh → d.first + d.ct.toNat * 1000 ≤ s.now → t.msix = s.msix ++ [(q.val / 1024, d.vec.toNat)] ∧
        t.cqAt q.val = { d with fresh := 0 }) ∧
      (d.fresh = 0 ∨ s.now < d.first + d.ct.toNat * 1000 → t = s))

/-- R3, R5, R7, R29, R41 to R45, R216, R218, R222, R308, R310, R336, R354, R381, R387 to R391, R398: what the driver and other
packages do at the ports. A register write reaches its register, and one of a reserved or read-only place nothing; a bias flip waits
its turn and its writes, ends with its page's bias changed or timed out, and is read off in BIASDONE; HSYNC and TAPSYNC read 1 until
nothing rests on the old contents; DIRQ shows a directory entry and DUMPFREE frees a dump; the debug block stops and resumes its
core; host and fabric requests read and write memory, and are refused outside the windows and after a failed boot; the doorbells
read as zero, and a Light List entry by its words.
Where the pool stands in the host's window, and its size, are the model's choices (log entries 60 and 79), and so are what other packages
may address (log entry 59), bases stored as written (log entry 5), a stop that is at once (log entry 38), inputs before boot's end and in
FATAL (log entry 55), what a flip and HSYNC wait for (log entry 56), a second TAPSYNC (log entry 108), PINS beyond its field (log
entry 102), and reads after a failed boot and the width of accesses (log entry 88). -/
def Obligations.PortsAndDriverAct : Prop :=
  (∀ (s : State) (port : Fin 4) (off : Nat) (v : Word), s.TakesInputs →
    (off % 8 ≠ 0 → exec (.registerWrite port off v) s = .next s) ∧
    (off % 8 = 0 → 0x200000 ≤ off → off < 0x208000 →
      exec (.registerWrite port off v) s = .next { s with htbase := Tab.set 0 s.htbase ((off - 0x200000) / 8) v }) ∧
    (off = 0x38 → exec (.registerWrite port off v) s = .next { s with front := { s.front with probeBase := v } }) ∧
    (off = 0x40 → exec (.registerWrite port off v) s = .next { s with front := { s.front with steerBase := v } }) ∧
    (s.front.moorBusy = true → off = 0x100 ∨ off = 0x108 ∨ off = 0x110 → exec (.registerWrite port off v) s = .next s) ∧
    (s.front.moorBusy = false →
      (off = 0x100 → exec (.registerWrite port off v) s = .next { s with front := { s.front with moorCmd := v &&& 0xFF000000FFFFFFFF#64 } }) ∧
      (off = 0x108 → exec (.registerWrite port off v) s = .next { s with front := { s.front with moorRange := v } }) ∧
      (off = 0x110 → exec (.registerWrite port off v) s = .next { s with front := { s.front with moorKeys := v, moorBusy := true } })) ∧
    (off = 0x18 ∨ off = 0x28 ∨ off = 0x48 ∨ off = 0x50 → exec (.registerWrite port off v) s =
      if off = 0x18 then exec (.hsync v) s else if off = 0x28 then exec (.dirq v) s else if off = 0x48 then exec (.tapsync v) s
      else exec (.dumpfree v) s) ∧
    (off = 0x10 ∨ off = 0x20 ∨ off = 0x30 ∨ (0x58 ≤ off ∧ off < 0x100) ∨ (0x118 ≤ off ∧ off < 0x100000) ∨ (0x208000 ≤ off ∧ off < 0x400000) →
      exec (.registerWrite port off v) s = .next s) ∧
    (off % 8 = 0 → 0x1000000 ≤ off → exec (.registerWrite port off v) s = .next s.refuseHost)) ∧
  (∀ (s : State) (port : Fin 4) (n off : Nat), barBytes n ≤ off / 8 * 8 → s.barRead port n off = .next s.refuseHost) ∧
  (∀ (s : State) (port : Fin 4) (off : Nat) (i : Fin 131072) (k : Fin 64), s.mgmt.phase ≠ .bootfail →
    (off < 0x400000 → s.barRead port 2 off = .next (s.answerHost (leBytes 8 0) false)) ∧
    s.barRead port 4 (i.val * 512 + 8 * k.val) = .next (s.answerHost (leBytes 8 ((s.ctxAt i.val).word i.val k.val)) false)) ∧
  (∀ (s : State) (p : Fin 4) (page : BitVec 24) (toHost : Bool) (i : Instr), i = (if toHost then .biasToHost p page else .biasToDevice p page) →
    s.TakesInputs →
      let l := s.front.flips[p]
      (16 ≤ l.length → exec i s = .next { s with front := { s.front with biasFull := s.front.biasFull.set p true } }) ∧
      (l.length < 16 → (∀ x ∈ l, x.done.isSome = true) → s.inHostBias page.toNat ≠ toHost →
        ∃ t, exec i s = .next t ∧ t.msix = s.msix ∧ t.front.hostBias = s.front.hostBias ∧ t.front.flips[p] =
          l ++ [{ page := page.toNat, toHost := toHost, start := some s.now
                  waits := if toHost then s.pageWrites page.toNat else [], done := none }]) ∧
      (l.length < 16 → (∀ x ∈ l, x.done.isSome = true) → s.inHostBias page.toNat = toHost →
        ∃ t, exec i s = .next t ∧ t.msix = s.msix ++ [(p.val, 0)] ∧ (∀ n, t.inHostBias n = s.inHostBias n) ∧ t.front.flips[p] =
          l ++ [{ page := page.toNat, toHost := toHost, start := none, waits := [], done := some false }])) ∧
  (∀ (s : State) (p : Fin 4) (l : List Flip) (x : Flip) (b : Nat), s.front.flips[p] = l ++ [x] → (∀ y ∈ l, y.done.isSome = true) →
    x.done = none → x.start = some b →
      (s.now ≤ b + 1000000 → (∀ f ∈ x.waits, s.writeOpen x.page f = false) → ∃ t, exec (.biasFlipComplete p) s = .next t ∧ t.front.flips[p] = l ++ [{ x with done := some false }] ∧
        (∀ n, t.inHostBias n = if n = x.page then x.toHost else s.inHostBias n) ∧ t.msix = s.msix ++ [(p.val, 0)]) ∧
      (b + 1000000 < s.now ∨ (∃ f ∈ x.waits, s.writeOpen x.page f = true) → exec (.biasFlipComplete p) s = .next s) ∧
      (b + 1000000 ≤ s.now → ∃ t, exec (.biasFlipTimeout p) s = .next t ∧ t.front.flips[p] = l ++ [{ x with done := some true }] ∧
        t.front.hostBias = s.front.hostBias ∧ t.msix = s.msix ++ [(p.val, 0)]) ∧
      (s.now < b + 1000000 → exec (.biasFlipTimeout p) s = .next s)) ∧
  (∀ (s : State) (p : Fin 4),
    (s.mgmt.phase = .bootfail → exec (.biasdone p) s = .next s.refuseHost) ∧
    (s.mgmt.phase ≠ .bootfail → (∀ x l timeout, s.front.flips[p] = x :: l → x.done = some timeout → ∃ t, exec (.biasdone p) s = .next t ∧ t.front.flips[p] = l ∧
      t.hostOut = some { bytes := leBytes 8 (x.page * 2 ^ 40 + 2 + (if timeout then 1 else 0)), poison := false, refused := false }) ∧
    ((∀ x, s.front.flips[p].head? = some x → x.done = none) →
      exec (.biasdone p) s = .next (s.answerHost (leBytes 8 0) false)))) ∧
  (∀ (s : State) (v : Word), s.TakesInputs → s.front.hsync = none →
    ∃ t, exec (.hsync v) s = .next t ∧ t = { s with front := { s.front with hsync := t.front.hsync } } ∧
      ∃ uses, t.front.hsync = some (v.extractLsb' 0 12, uses) ∧ (∀ u ∈ uses, s.useOpen u = true) ∧
        (∀ f ∈ s.net, f.pd = v.extractLsb' 0 12 → f.dst = none → .flight f ∈ uses) ∧
        (∀ c, (s.coreAt c).g.run.isSome = true → (s.coreAt c).g.bank.pd = v.extractLsb' 0 12 → ∀ a ∈ (s.coreAt c).g.asReads,
          .read c a.no ∈ uses)) ∧
  (∀ (s : State), exec .hsyncComplete s = .next (match s.front.hsync with
    | some h => if h.2.any s.useOpen then s else { s with front := { s.front with hsync := none } }
    | none => s)) ∧
  (∀ (s : State) (v : Word), s.TakesInputs →
    let e := s.page (v.extractLsb' 0 28).toNat
    ∃ t, exec (.dirq v) s = .next t ∧ t = { s with front := { s.front with dirq := v, dirData := t.front.dirData } } ∧
      (e.pins < 2 ^ 16 → e.refs < 2 ^ 32 → e.dest ≠ .moving → ((t.front.dirData)[0]).extractLsb' 0 32 = BitVec.ofNat 32 e.refs ∧
        ((t.front.dirData)[0]).extractLsb' 32 16 = BitVec.ofNat 16 e.pins ∧ ((t.front.dirData)[0]).extractLsb' 61 3 = BitVec.ofNat 3 e.level.code) ∧
      ((t.front.dirData)[1]).extractLsb' 32 32 = e.owner ∧ ((t.front.dirData)[1]).extractLsb' 16 12 = e.shd ∧
      ((t.front.dirData)[1]).extractLsb' 0 12 = e.pd ∧ (t.front.dirData)[2] = e.loc ∧ (t.front.dirData)[3] = e.last) ∧
  (∀ (s : State) (v : Word), s.TakesInputs →
    exec (.tapsync v) s = .next { s with front := { s.front with tapsync := some (v.getLsbD 8, (v.extractLsb' 0 8).toNat) } }) ∧
  (∀ (s : State) (steer : Bool) (n : Nat), s.front.tapsync = some (steer, n) →
    (((∀ c, snapshotHolds (s.coreAt c).g steer n = false) ∧ ∀ v ∈ s.saved, snapshotHolds v.g steer n = false) →
      exec .tapsyncComplete s = .next { s with front := { s.front with tapsync := none } }) ∧
    (((∃ c, snapshotHolds (s.coreAt c).g steer n = true) ∨ ∃ v ∈ s.saved, snapshotHolds v.g steer n = true) →
      exec .tapsyncComplete s = .next s)) ∧
  (∀ (s : State) (v : Word), s.TakesInputs →
    exec (.dumpfree v) s = .next { s with dumpUsed := s.dumpUsed.filter fun n => n != (v.extractLsb' 0 16).toNat }) ∧
  (∀ (s : State) (c : CoreId), s.TakesInputs → s.debugAt c = true → (s.coreAt c).runs = true → (s.coreAt c).dbg.scope = false →
    (s.coreAt c).haltReq = none → (s.coreAt c).stopHalt = false →
    ∃ t, exec (.debugStopreq c) s = .next t ∧ (t.coreAt c).dbg.stopped = true ∧ (t.coreAt c).dbg.src = 0 ∧ (t.coreAt c).runs = false ∧
      s.SameGroup t c ∧ ∀ d, d ≠ c → t.coreAt d = s.coreAt d) ∧
  (∀ (s : State) (c : CoreId) (kind : HaltKind), s.TakesInputs → s.debugAt c = true → (s.coreAt c).runs = true → (s.coreAt c).dbg.scope = false →
    (s.coreAt c).haltReq = some kind → (s.coreAt c).stopHalt = false →
    ∃ t, exec (.debugStopreq c) s = .next t ∧ (t.coreAt c).dbg.stopped = false ∧ (t.coreAt c).haltReq = some kind ∧
      (t.coreAt c).stopLater = some 0 ∧ (t.coreAt c).g = (s.coreAt c).g ∧ ∀ d, d ≠ c → t.coreAt d = s.coreAt d) ∧
  (∀ (s : State) (c : CoreId), s.TakesInputs → s.debugAt c = true →
    exec (.debugResume c) s = .next (s.setCoreAt c { s.coreAt c with dbg := { (s.coreAt c).dbg with stopped := false } })) ∧
  (∀ (s : State) (c : CoreId), s.debugAt c = true → (s.coreAt c).runs = true → (s.coreAt c).haltReq = none → (s.coreAt c).stopHalt = false →
    ((s.coreAt c).dbg.cycen = true → BitVec.ofNat 64 (s.coreAt c).cycle = (s.coreAt c).dbg.matchVal + 1 →
      ∃ t, exec (.cycleMatchStop c) s = .next t ∧ (t.coreAt c).dbg.stopped = true ∧ (t.coreAt c).dbg.src = 2 ∧
        (t.coreAt c).dbg.cycen = false ∧ s.SameGroup t c) ∧
    ((s.coreAt c).dbg.reten = true → BitVec.ofNat 64 (s.coreAt c).g.retired = (s.coreAt c).dbg.matchVal →
      ∃ t, exec (.retiredMatchStop c) s = .next t ∧ (t.coreAt c).dbg.stopped = true ∧ (t.coreAt c).dbg.src = 3 ∧
        (t.coreAt c).dbg.reten = false ∧ s.SameGroup t c)) ∧
  (∀ (s : State) (c : CoreId), (s.coreAt c).dbg.stopReq = true →
    (s.debugAt c = false ∨ (s.coreAt c).dbg.stopped = true ∨ (s.coreAt c).stopHalt = true →
      exec (.scopeStop c) s = .next (s.setCoreAt c { s.coreAt c with dbg := { (s.coreAt c).dbg with stopReq := false } })) ∧
    (s.debugAt c = true → (s.coreAt c).runs = true → (s.coreAt c).haltReq = none → (s.coreAt c).stopHalt = false →
      ∃ t, exec (.scopeStop c) s = .next t ∧ (t.coreAt c).dbg.stopped = true ∧
      (t.coreAt c).dbg.src = 4 ∧ (t.coreAt c).dbg.stopReq = false ∧ s.SameGroup t c ∧ ∀ d, d ≠ c → t.coreAt d = s.coreAt d)) ∧
  (∀ (s : State) (a : Word) (n : Nat),
    let key : Nat → Nat := fun k => if a.toNat + k < Config.hbmBytes then devKey (a.toNat + k) else poolKey (a.toNat + k - Config.hbmBytes)
    let data := (List.range n).map fun k => readByte s.mem (key k)
    (s.mgmt.phase ≠ .bootfail → a.toNat + n ≤ Config.hbmBytes + Config.poolBytes → (∀ k, k < n → s.poisoned (key k) 1 = false) →
      exec (.hostMemRead a n) s = .next (s.answerHost data false)) ∧
    (s.mgmt.phase ≠ .bootfail → a.toNat + n ≤ Config.hbmBytes + Config.poolBytes → (∃ k, k < n ∧ s.poisoned (key k) 1 = true) →
      ∃ t, exec (.hostMemRead a n) s = .next t ∧ t.mem = s.mem ∧ t.hostOut = some { bytes := data, poison := true, refused := false }) ∧
    (s.mgmt.phase = .bootfail ∨ (0 < n ∧ Config.hbmBytes + Config.poolBytes < a.toNat + n) →
      exec (.hostMemRead a n) s = .next s.refuseHost)) ∧
  (∀ (s : State) (a : Word) (bytes : List Byte), s.replay.mode = .off →
    let key : Nat → Nat := fun k => if a.toNat + k < Config.hbmBytes then devKey (a.toNat + k) else poolKey (a.toNat + k - Config.hbmBytes)
    (s.mgmt.phase ≠ .bootfail → a.toNat + bytes.length ≤ Config.hbmBytes + Config.poolBytes →
      ∃ t, exec (.hostMemWrite a bytes) s = .next t ∧ t.cores = s.cores ∧ (∀ k b, bytes[k]? = some b → readByte t.mem (key k) = b) ∧
        (∀ j, (∀ k, k < bytes.length → key k ≠ j) → readByte t.mem j = readByte s.mem j)) ∧
    (s.mgmt.phase = .bootfail ∨ (bytes ≠ [] ∧ Config.hbmBytes + Config.poolBytes < a.toNat + bytes.length) →
      exec (.hostMemWrite a bytes) s = .next s.refuseHost)) ∧
  (∀ (s : State) (a : Word), exec (.cxlSnoop a) s = .next (s.answerHost [] false)) ∧
  (∀ (s : State) (a : Word) (q : FabricReq), s.mgmt.phase = .bootfail ∨ Config.hbmBytes < a.toNat + fabricSize q ∨ fabricServed a.toNat q = false →
    exec (.fabricRequest a q) s = .next { s with fabricOut := .refused }) ∧
  (∀ (s : State) (a : Word), s.TakesInputs →
    (∀ n, a.toNat + n ≤ Config.hbmBytes → exec (.fabricRequest a (.read n)) s = .next
      { s with fabricOut := .data ((List.range n).map fun k => readByte s.mem (devKey (a.toNat + k))) }) ∧
    (∀ bytes : List Byte, a.toNat + bytes.length ≤ Config.hbmBytes → ∃ t, exec (.fabricRequest a (.write bytes)) s = .next t ∧
      (∀ k b, bytes[k]? = some b → readByte t.mem (devKey (a.toNat + k)) = b) ∧
      (∀ key, key < devKey a.toNat ∨ devKey (a.toNat + bytes.length) ≤ key → readByte t.mem key = readByte s.mem key)) ∧
    (∀ n cmp new, a.toNat + n ≤ Config.hbmBytes → (n = 4 ∨ n = 8) → a.toNat % n = 0 → ∃ t, exec (.fabricRequest a (.cas n cmp new)) s = .next t ∧
      t.fabricOut = .data (leBytes n (readLE s.mem (devKey a.toNat) n)) ∧ readLE t.mem (devKey a.toNat) n =
        if readLE s.mem (devKey a.toNat) n = cmp.toNat % 256 ^ n then new.toNat % 256 ^ n else readLE s.mem (devKey a.toNat) n) ∧
    (∀ ty op sat v, a.toNat + combineWidth ty / 8 ≤ Config.hbmBytes → fabricServed a.toNat (.combine ty op sat v) = true →
      let n := combineWidth ty / 8
      let old := readLE s.mem (devKey a.toNat) n
      ∃ t, exec (.fabricRequest a (.combine ty op sat v)) s = .next t ∧ t.fabricOut = .data (leBytes n old) ∧
        readLE t.mem (devKey a.toNat) n = (combineValue ty op sat old v.toNat).1 % 256 ^ n))

/-- R30, R46, R398 to R405: what a mailbox command leaves: its tag, status, response and vector 1 of its port; a short request is
refused, and a command written while one runs does nothing. A parameter takes a value in its range and no other; telemetry, the
error log and parameters are read back; an image is written, and verified before it replaces the flash's; a swapped context is
exported and imported. A power sample gives its die the largest of its rates, which takes effect later, and stops the package at 115
°C; a package reset leaves only what lies outside the package and its flash, and boot ends in RUN or BOOTFAIL as the image verifies.
The numbers of the parameters and the bytes of requests are the model's (log entries 10 and 51), and so are what an export or import does
with pages and the save area and its statuses (log entry 50), the fraction and the temperatures of the power rule (log entry 54), and
what a package reset clears (log entries 2 and 57) and boot checks (log entry 58). -/
def Obligations.ManagementCommandsAct : Prop :=
  (∀ (s : State) (port : Fin 4) (len : BitVec 16) (tag : BitVec 32) (i : Instr) (least : Nat),
    ((i = .paramSet port len tag ∧ least = 16) ∨ (i = .paramGet port len tag ∧ least = 8) ∨ (i = .telemetry port len tag ∧ least = 16) ∨
      (i = .spdm port len tag ∧ least = 0) ∨ (i = .imageWrite port len tag ∧ least = 8) ∨ (i = .imageCommit port len tag ∧ least = 8) ∨
      (i = .errlog port len tag ∧ least = 0) ∨ (∃ pick, i = .ctxExport port len tag pick ∧ least = 16) ∨
      ∃ pick, i = .ctxImport port len tag pick ∧ least = 24) →
    (s.mgmt.busy ≠ none → s.replay.mode = .off → exec i s = .next s) ∧
    (s.mgmt.busy = none → ∃ t, exec i s = .next t ∧ t.mgmt.busy = none ∧ t.mgmt.rtag = tag ∧ t.mgmt.tag = tag ∧ t.mgmt.len = len ∧ t.msix = s.msix ++ [(port.val, 1)] ∧
      t.mgmt.phase = s.mgmt.phase ∧ t.cores.toList.map Core.g = s.cores.toList.map Core.g ∧
      (len.toNat < least ∨ 3840 < len.toNat → t.mgmt.status = 2 ∧ t.mgmt.rlen = 0 ∧ t.mem = s.mem ∧ t.lan = s.lan ∧ t.params = s.params))) ∧
  (∀ (s : State) (port : Fin 4) (len : BitVec 16) (tag : BitVec 32), s.mgmt.busy = none → 16 ≤ len.toNat → len.toNat ≤ 3840 →
    let n := Config.paramNumber (BitVec.ofNat 64 (s.mbLE 0 8))
    ∃ t, exec (.paramSet port len tag) s = .next t ∧ t.params = (s.setParam n (s.mbLE 8 8)).1.params ∧ t.mem = s.mem ∧ t.lan = s.lan ∧
      t.mgmt.status = BitVec.ofNat 4 (s.setParam n (s.mbLE 8 8)).2.code) ∧
  (∀ (s : State) (v : Nat),
    (∀ c : Fin 8, (v ≤ 255 → s.setParam c.val v = ({ s with params := { s.params with shares := s.params.shares.set c v } }, .ok)) ∧
      (255 < v → s.setParam c.val v = (s, .badparam))) ∧
    (∀ pd : Nat, pd < 4096 →
      (v ≤ 255 → s.setParam (4096 + pd) v = ({ s with params := { s.params with weights := Tab.set 1 s.params.weights pd v } }, .ok)) ∧
      (255 < v → s.setParam (4096 + pd) v = (s, .badparam))) ∧
    (100000 ≤ v → v ≤ 1000000000 → s.setParam 8 v = ({ s with params := { s.params with ageMax := v } }, .ok)) ∧
    (v < 100000 ∨ 1000000000 < v → s.setParam 8 v = (s, .badparam)) ∧
    (1 ≤ v → v ≤ 64 → s.setParam 11 v =
      if (s.lan.ctxs.any fun (e : Nat × Ctx) => e.2.st = .running) = true then (s, .notnow)
      else ({ s with params := { s.params with npc := v } }, .ok)) ∧
    (v ≤ 48 → s.setParam 12 v = ({ s with params := { s.params with nmin := v } }, .ok))) ∧
  (∀ (s : State) (port : Fin 4) (len : BitVec 16) (tag : BitVec 32), s.mgmt.busy = none → 8 ≤ len.toNat → len.toNat ≤ 3840 →
    ∃ t, exec (.paramGet port len tag) s = .next t ∧
      match s.getParam (Config.paramNumber (BitVec.ofNat 64 (s.mbLE 0 8))) with
      | some v => t.mgmt.status = 0 ∧ t.mgmt.rlen = 8 ∧ t.mbLE 0 8 = v % 2 ^ 64
      | none => t.mgmt.status = 2 ∧ t.mgmt.rlen = 0) ∧
  (∀ (s : State) (port : Fin 4) (len : BitVec 16) (tag : BitVec 32), s.mgmt.busy = none → 16 ≤ len.toNat → len.toNat ≤ 3840 →
    let first := s.mbLE 0 8
    let n := s.mbLE 8 8
    ∃ t, exec (.telemetry port len tag) s = .next t ∧
      (n = 0 ∨ 480 < n ∨ 1568 < first + n → t.mgmt.status = 2) ∧
      (1 ≤ n → n ≤ 480 → first + n ≤ 1568 → t.mgmt.status = 0 ∧ t.mgmt.rlen = BitVec.ofNat 12 (8 * n) ∧
        ∀ k, k < n → t.mbLE (8 * k) 8 = s.counter (first + k))) ∧
  (∀ (s : State) (port : Fin 4) (len : BitVec 16) (tag : BitVec 32), s.mgmt.busy = none → len.toNat ≤ 3840 →
    ∃ t, exec (.spdm port len tag) s = .next t ∧ t.mgmt.status = 0 ∧ t = { s with mgmt := t.mgmt, msix := t.msix, replay := t.replay } ∧
      (s.replay.mode = .off → t.replay = s.replay)) ∧
  (∀ (s : State) (port : Fin 4) (len : BitVec 16) (tag : BitVec 32), s.mgmt.busy = none → 8 ≤ len.toNat → len.toNat ≤ 3840 →
    let off := s.mbLE 0 8
    let n := s.mbLE 0 8
    (∃ t, exec (.imageWrite port len tag) s = .next t ∧ t.mem = s.mem ∧
      (67108864 < off + (len.toNat - 8) → t.mgmt.status = 2 ∧ t.mgmt.newImage = s.mgmt.newImage) ∧
      (off + (len.toNat - 8) ≤ 67108864 → t.mgmt.status = 0 ∧ ∀ k, Tab.get 0 t.mgmt.newImage k =
        if off ≤ k ∧ k < off + (len.toNat - 8) then s.mbByte (8 + (k - off)) else Tab.get 0 s.mgmt.newImage k)) ∧
    (∃ t, exec (.imageCommit port len tag) s = .next t ∧
      (67108864 < n → t.mgmt.status = 2 ∧ t.mem = s.mem) ∧
      (n ≤ 67108864 → s.mgmt.newImage.Pairwise (fun a b => a.1 ≠ b.1) →
        if Config.imageVerifies (imageOf (s.mgmt.newImage.filter fun (e : Nat × Byte) => e.1 < n)) = true then
          t.mgmt.status = 0 ∧ (∀ k, k < 67108864 → readByte t.mem (flashKey k) = if k < n then Tab.get 0 s.mgmt.newImage k else 0) ∧
            ∀ key, key < flashKey 0 ∨ flashKey 67108864 ≤ key → readByte t.mem key = readByte s.mem key
        else t.mgmt.status = 4 ∧ t.mem = s.mem))) ∧
  (∀ (s : State) (port : Fin 4) (len : BitVec 16) (tag : BitVec 32), s.mgmt.busy = none → len.toNat ≤ 3840 → s.mgmt.errors.length ≤ 64 →
    ∃ t, exec (.errlog port len tag) s = .next t ∧ t.mgmt.status = 0 ∧ t.mgmt.rlen = BitVec.ofNat 12 (16 * s.mgmt.errors.length) ∧
      ∀ k r, s.mgmt.errors[k]? = some r → t.mbLE (16 * k) 8 = r.1.toNat ∧ t.mbLE (16 * k + 8) 8 = r.2.toNat) ∧
  (∀ (s : State) (port : Fin 4) (len : BitVec 16) (tag : BitVec 32) (pick : Nat), s.mgmt.busy = none → 16 ≤ len.toNat → len.toNat ≤ 3840 →
    let h : BitVec 32 := BitVec.ofNat 32 (s.mbLE 0 8)
    let e := s.mbLE 8 8
    let x := s.ctxAt (ctxIndex h)
    ∃ t, exec (.ctxExport port len tag pick) s = .next t ∧
      (s.names h = false ∨ e % 4096 ≠ 0 → t.mgmt.status = 2 ∧ t.lan = s.lan ∧ t.mem = s.mem) ∧
      (s.names h = true → e % 4096 = 0 → x.st ≠ .swapped → t.mgmt.status = 3 ∧ t.lan = s.lan ∧ t.mem = s.mem) ∧
      (s.names h = true → e % 4096 = 0 → x.st = .swapped → x.kvroot = 0 → e + 5120 ≤ Config.poolBytes → s.params.npc < 2 ^ 16 →
        t.mgmt.status = 0 ∧ t.mbLE 0 8 = 5120 ∧ t.ctxAt (ctxIndex h) = { Ctx.reset with gen := x.gen + 1, since := s.now } ∧
        readLE t.mem (poolKey e) 8 = 0x59464358 * 2 ^ 32 + 1 * 2 ^ 16 + s.params.npc ∧ readLE t.mem (poolKey (e + 8)) 8 = 0 ∧
        (∀ key, key < poolKey e ∨ poolKey (e + 5120) ≤ key → readByte t.mem key = readByte s.mem key))) ∧
  (∀ (s : State) (port : Fin 4) (len : BitVec 16) (tag : BitVec 32) (pick : Nat), s.mgmt.busy = none → 24 ≤ len.toNat → len.toNat ≤ 3840 →
    let i := s.mbLE 0 8
    let pd := s.mbLE 8 8
    let e := s.mbLE 16 8
    let w : Nat → Nat := fun k => readLE s.mem (poolKey (e + 8 * k)) 8
    let d : Fin 4 := Fin.ofNat 4 pick
    ∃ t, exec (.ctxImport port len tag pick) s = .next t ∧
      (131072 ≤ i ∨ 4096 ≤ pd ∨ fld (w 0) 32 32 ≠ 0x59464358 ∨ fld (w 0) 16 16 ≠ 1 ∨ fld (w 0) 0 16 ≠ s.params.npc ∨
        (s.ctxAt i).st ≠ .free ∨ Config.poolBytes < e + 5120 + 16 * w 1 → t.mgmt.status = 2 ∧ t.lan = s.lan ∧ t.mem = s.mem) ∧
      (i < 131072 → pd < 4096 → fld (w 0) 32 32 = 0x59464358 → fld (w 0) 16 16 = 1 → fld (w 0) 0 16 = s.params.npc →
        (s.ctxAt i).st = .free → e + 5120 ≤ Config.poolBytes → w 1 = 0 → s.tender.tables = [] → 1 ≤ (s.params.tables[d]).2 →
        ∀ f, s.saveRoom pick (pick % 2 ^ 32) (fun _ => true) = some f →
          t.mgmt.status = 0 ∧ (t.ctxAt i).saveFrame = BitVec.ofNat 64 f ∧ (t.ctxAt i).st = .swapped ∧ (t.ctxAt i).gen = (s.ctxAt i).gen + 1 ∧
          (t.ctxAt i).pd = BitVec.ofNat 12 pd ∧ (t.ctxAt i).rngCount = BitVec.ofNat 64 (w 80) ∧ (t.ctxAt i).deadline = BitVec.ofNat 64 (w 66) ∧
          t.mbLE 0 8 = (handleOf i (t.ctxAt i)).toNat)) ∧
  (∀ (s : State) (offset : Int), exec (.ptmExchange offset) s = .next { s with slew := offset, slewPart := 0 }) ∧
  (∀ (s : State) (d : Fin 4) (current temp : Nat), temp < 115000 →
    ∃ t n, exec (.powerSample d current temp) s = .next t ∧ t.nextRates[d] = some n ∧ t.rates = s.rates ∧ t.mgmt.phase = s.mgmt.phase ∧ n ≤ 48 ∧
      (s.params.nmin ≤ 48 → s.params.nmin ≤ n) ∧ (current * (64 - n) ≤ s.params.imax[d] * (64 - s.rates[d]) ∨ n = 48) ∧
      (95000 ≤ temp → min 48 (8 * (temp - 95000) / 1000) ≤ n) ∧
      (temp ≤ 95000 → s.params.nmin = 0 → 0 < n → s.params.imax[d] * (64 - s.rates[d]) < current * (64 - (n - 1)))) ∧
  (∀ (s : State) (d : Fin 4) (current temp : Nat), 115000 ≤ temp → s.mgmt.phase ≠ .fatal →
    ∃ t, exec (.powerSample d current temp) s = .next t ∧ t.mgmt.phase = .fatal ∧ t.msix = s.msix ++ [(0, 1), (1, 1), (2, 1), (3, 1)] ∧
      ∀ c, (t.coreAt c).runs = false) ∧
  (∀ (s : State) (d : Fin 4), exec (.swallowRateChange d) s = .next (match s.nextRates[d] with
    | some n => { s with rates := s.rates.set d n, nextRates := s.nextRates.set d none }
    | none => s)) ∧
  (∀ (s : State), ∃ t, exec .packageReset s = .next t ∧ t.mgmt = Mgmt.reset ∧ t.cores = State.reset.cores ∧ t.lan = Lantern.reset ∧
    t.front = Front.reset ∧ t.params = Params.reset ∧ t.net = [] ∧ t.insts = [] ∧ t.saved = [] ∧
    ∀ key, readByte t.mem key =
      if (poolKey 0 ≤ key ∧ key < hostKey 0 + spaceSize) ∨ flashKey 0 ≤ key then readByte s.mem key else 0) ∧
  (∀ (s : State), (s.mgmt.phase ≠ .boot → exec .bootComplete s = .next s) ∧
    (s.mgmt.phase = .boot → ∃ t, exec .bootComplete s = .next t ∧ t = { s with mgmt := { s.mgmt with phase := t.mgmt.phase, running := t.mgmt.running } } ∧
      (t.mgmt.phase = .run ∨ t.mgmt.phase = .bootfail)))

/-- R227 to R231, R249, R335 to R337: what a Tender does. A NEED of an unmapped page gets a zero-filled page in a free frame, mapped and
RESIDENT; one of a page at its level is answered, and one of a lower page starts its move; PAGEIN and PAGEOUT copy the bytes of a move
up and down, and its completion puts the page where it went or frees one that was released; a context is swapped out and in, near and
for a SWAPIN, its pages moving first; HINT and RELEASED are taken; ATTACH maps the leaves that match, and PUBLISH makes a leaf of a
full chunk, both with their status.
That messages about a whole context go to the Tender of die INDEX mod 4 is the model's choice (log entry 61).
That the save area of a swapped context lies in a frame of the pool is the model's reading (log entries 50 and 75).
What PUBLISH and ATTACH answer for N = 0 and above 4,096 (log entry 49), one move in each event (log entry 47), how free places are
chosen (log entry 62) and the ROWEVENT that a NEED waits for (log entry 74) are the model's choices and readings. -/
def Obligations.TendersMoveAndSharePages : Prop :=
  (∀ (s : State) (d : Fin 4) (no h page : Nat) (sram : Bool) (rest : List (Nat × TenderMsg)) (gpn : BitVec 28) (pick a la : Nat),
    (s.tenderQ[d]).queue = (no, .need h page sram) :: rest → oldestOf TenderMsg.ctx s.tenderQ no (.need h page sram) = true →
    s.dropUnderWay (BitVec.ofNat 32 h) = false → s.frameQueue d s.tender.wants = false → s.names (BitVec.ofNat 32 h) = true →
    let x := s.ctxAt (h % 131072)
    let l : Level := if sram then .sram else .hbm
    let root := devKey (x.kvroot.toNat + 8 * (page / 512 % 512))
    let f := frameKey l a
    x.st ≠ .free → (s.leaf x.kvroot page).1 = 0 → s.leafAddr x.kvroot page = some la → gpn ≠ 0 → homeDie gpn.toNat = d →
    (s.page gpn.toNat).level = .free → s.freeFrame d l (pick % 2 ^ 32) = some a → (f + 65536 ≤ devKey la ∨ devKey la + 8 ≤ f) →
    (f + 65536 ≤ root ∨ root + 8 ≤ f) → (root + 8 ≤ devKey la ∨ devKey la + 8 ≤ root) →
      ∃ t, exec (.need d 0 gpn pick) s = .next t ∧ t.tenderQ[d] = (s.tenderQ[d]).take 0 ∧
        t.tenderReplies[d] = (s.tenderReplies[d]).put s.wakeNo (.resident h) ∧
        t.page gpn.toNat = { DirEntry.free with
          level := l, refs := 1, owner := BitVec.ofNat 32 h, shd := x.shd, pd := x.pd, loc := BitVec.ofNat 64 a } ∧
        t.leaf x.kvroot page = (gpn.toNat, 0) ∧ (∀ k, k < 65536 → readByte t.mem (f + k) = 0) ∧ t.lan = s.lan) ∧
  (∀ (s : State) (d : Fin 4) (no h page : Nat) (sram : Bool) (rest : List (Nat × TenderMsg)) (gpn : BitVec 28) (pick : Nat),
    (s.tenderQ[d]).queue = (no, .need h page sram) :: rest → oldestOf TenderMsg.ctx s.tenderQ no (.need h page sram) = true →
    s.dropUnderWay (BitVec.ofNat 32 h) = false → h < 2 ^ 32 → s.names (BitVec.ofNat 32 h) = true → (s.ctxAt (h % 131072)).st ≠ .free →
    let g := (s.leaf (s.ctxAt (h % 131072)).kvroot page).1
    let e := s.page g
    g ≠ 0 →
      (e.level = .sram ∨ (e.level = .hbm ∧ sram = false) → ∃ t, exec (.need d 0 gpn pick) s = .next t ∧
        t.tenderQ[d] = (s.tenderQ[d]).take 0 ∧ t.dir = s.dir ∧ t.tenderReplies[homeDie g] = (s.tenderReplies[homeDie g]).put s.wakeNo (.resident h)) ∧
      (∀ up a, ((e.level = .pool ∧ up = .hbm) ∨ (e.level = .hbm ∧ sram = true ∧ up = .sram)) → e.pins = 0 →
        s.frameQueue (homeDie g) s.tender.wants = false → s.freeFrame (homeDie g) up pick = some a →
          ∃ t, exec (.need d 0 gpn pick) s = .next t ∧ t.tenderQ[d] = (s.tenderQ[d]).take 0 ∧
          t.tenderReplies = s.tenderReplies ∧ t.page g = { e with level := .moving, dest := up } ∧
          t.tender.moves = s.tender.moves ++
            [{ gpn := g, source := e.level, src := e.loc, dest := up, dst := BitVec.ofNat 64 a, copied := false }] ∧
          t.tender.wants = s.tender.wants ++ [{ ctx := BitVec.ofNat 32 h, gpn := g, sram := sram }])) ∧
  (∀ (s : State) (d : Fin 4) (no h : Nat) (wake : Word) (rest : List (Nat × TenderMsg)), (s.tenderQ[d]).queue = (no, .hint h wake) :: rest →
    exec (.hint d 0) s = .next (if oldestOf TenderMsg.ctx s.tenderQ no (.hint h wake) = true then
      { s with tenderQ := s.tenderQ.set d ((s.tenderQ[d]).take 0) } else s)) ∧
  (∀ (s : State) (d : Fin 4) (no h : Nat) (rest : List (Nat × TenderMsg)), (s.tenderQ[d]).queue = (no, .released h) :: rest →
    oldestOf TenderMsg.ctx s.tenderQ no (.released h) = true →
    ∃ t, exec (.released d 0) s = .next t ∧ t.tenderQ[d] = (s.tenderQ[d]).take 0 ∧ t.lan = s.lan ∧ (∀ w ∈ t.tender.wants, w.ctx ≠ BitVec.ofNat 32 h) ∧
      ∀ w ∈ t.tender.swaps, w.ctx ≠ BitVec.ofNat 32 h) ∧
  (∀ (s : State) (hdr : CmdHdr) (v : Lane) (i : Instr) (up : Bool) (m : Move), i = (if up then .pagein hdr v else .pageout hdr v) → s.MemOk →
    (s.tender.moves.find? fun m => m.gpn = v.toNat && !m.copied && m.dest.above m.source == up) = some m →
      ∃ t, exec i s = .next t ∧ t.dir = s.dir ∧
        (∀ k, k < 65536 → readByte t.mem (frameKey m.dest m.dst.toNat + k) = readByte s.mem (frameKey m.source m.src.toNat + k)) ∧
        (∀ key, key < frameKey m.dest m.dst.toNat ∨ frameKey m.dest m.dst.toNat + 65536 ≤ key → readByte t.mem key = readByte s.mem key) ∧
        ∀ x ∈ t.tender.moves, x.gpn = v.toNat → x.copied = true) ∧
  (∀ (s : State) (gpn : BitVec 28) (pick : Nat) (m : Move), (s.tender.moves.find? fun m => m.gpn = gpn.toNat && m.copied) = some m →
    (∀ w ∈ s.tender.wants, w.gpn ≠ gpn.toNat) → s.tender.swaps = [] →
      ∃ t, exec (.pageMoveComplete gpn pick) s = .next t ∧ t.mem = s.mem ∧ (∀ x ∈ t.tender.moves, x.gpn ≠ gpn.toNat) ∧
        t.page gpn.toNat = (if (s.page gpn.toNat).refs = 0 then DirEntry.free
          else { s.page gpn.toNat with level := m.dest, dest := .free, loc := m.dst })) ∧
  (∀ (s : State) (i : Fin 131072) (pick : Nat),
    let x := s.ctxAt i.val
    let h := handleOf i.val x
    s.swapOf h = none →
      (x.st = .parked → x.reason ≠ .page → (if x.wake = 0 then x.since + s.params.hswap ≤ s.now else s.now + s.params.hswap ≤ x.wake.toNat) →
        (s.saveStays i.val = false → s.needAt (ctxDie h.toNat) = true ∨ s.saveRoom h.toNat (pick % 2 ^ 32) (fun d => !s.needAt d) = none →
          exec (.tenderSwapOut i pick) s = .next s) ∧
        (∀ f, s.saveStays i.val = false → s.needAt (ctxDie h.toNat) = false →
          s.saveRoom h.toNat (pick % 2 ^ 32) (fun d => !s.needAt d) = some f → x.kvroot = 0 → s.MemOk → ∃ t, exec (.tenderSwapOut i pick) s = .next t ∧
          t.tenderReplies[ctxDie h.toNat] = (s.tenderReplies[ctxDie h.toNat]).put s.wakeNo (.swappedOut h.toNat) ∧ { ctx := i.val, frame := f, stays := false } ∈ t.tender.saves ∧
          (∀ k, k < 4096 → readByte t.mem (poolKey f + k) = readByte s.mem (devKey (x.saveFrame.toNat + k))) ∧
          (∀ key, key < poolKey f ∨ poolKey f + 4096 ≤ key → readByte t.mem key = readByte s.mem key)) ∧
        (∀ u p g vlen a, s.saveOut i.val (pick % 2 ^ 32) = some u → u.mappedPages x.kvroot = [(p, g, vlen)] → (s.page g).level = .hbm →
          (s.page g).pins = 0 → (s.page g).refs = 1 → s.needFirst g = false → u.freeFrame (homeDie g) .pool pick = some a →
            ∃ t, exec (.tenderSwapOut i pick) s = .next t ∧ t.page g = { s.page g with level := .moving, dest := .pool } ∧
              t.tenderReplies = s.tenderReplies ∧ t.mem = u.mem)) ∧
      (x.st = .parked → x.reason ≠ .page → ¬(if x.wake = 0 then x.since + s.params.hswap ≤ s.now else s.now + s.params.hswap ≤ x.wake.toNat) →
        exec (.tenderSwapOut i pick) s = .next s) ∧
      (x.st = .swapped → x.wake ≠ 0 → x.wake.toNat ≤ s.now + s.params.hnear → x.kvroot = 0 → s.needAt (ctxDie h.toNat) = false →
        ∃ t, exec (.tenderNear i pick) s = .next t ∧
          t.tenderReplies[ctxDie h.toNat] = (s.tenderReplies[ctxDie h.toNat]).put s.wakeNo (.swappedIn h.toNat)) ∧
      (x.wake = 0 ∨ s.now + s.params.hnear < x.wake.toNat → exec (.tenderNear i pick) s = .next s)) ∧
  (∀ (s : State) (d : Fin 4) (no n : Nat) (rest : List (Nat × TenderMsg)) (pick : Nat), (s.tenderQ[d]).queue = (no, .swapIn n) :: rest →
    oldestOf TenderMsg.ctx s.tenderQ no (.swapIn n) = true → s.names (BitVec.ofNat 32 n) = true → n < 2 ^ 32 →
    s.swapOf (BitVec.ofNat 32 n) = none → (s.ctxAt (n % 131072)).kvroot = 0 → s.needAt (ctxDie n) = false → s.MemOk →
      ∃ t, exec (.swapinReq d 0 pick) s = .next t ∧ t.tenderQ[d] = (s.tenderQ[d]).take 0 ∧ t.lan = s.lan ∧
        t.tenderReplies[ctxDie n] = (s.tenderReplies[ctxDie n]).put s.wakeNo (.resident n) ∧
        (∀ v, s.saveArea (n % 131072) = some v → s.saveStays (n % 131072) = false →
          ∀ k, k < 4096 → readByte t.mem (devKey ((s.ctxAt (n % 131072)).saveFrame.toNat + k)) = readByte s.mem (poolKey v.frame + k)) ∧
        (s.saveStays (n % 131072) = true → t.mem = s.mem)) ∧
  (∀ (s : State) (keys : Word) (i : Instr) (op : Nat), ((i = .attach keys ∧ op = 1) ∨ (i = .publish keys ∧ op = 2)) → s.TakesInputs →
    let h : BitVec 32 := s.front.moorCmd.extractLsb' 0 32
    let first := (s.front.moorRange.extractLsb' 32 32).toNat
    let n := (s.front.moorRange.extractLsb' 0 32).toNat
    let c := ctxIndex h
    let x := s.ctxAt c
    let may := s.names h = true ∧ (x.st = .free ∨ x.st = .faulted ∨ (x.st = .parked ∧ x.reason = .host)) ∧ x.kvroot ≠ 0
    (s.front.moorCmd.extractLsb' 56 8 ≠ BitVec.ofNat 8 op ∨ s.front.moorBusy = true → exec i s = .next s) ∧
    (s.front.moorCmd.extractLsb' 56 8 = BitVec.ofNat 8 op → s.front.moorBusy = false → ∃ t, exec i s = .next t ∧ t.front.moorBusy = false ∧
      (¬may → t.front.moorStatus = 1 ∧ t.front.moorDone = 0 ∧ t.lan = s.lan) ∧
      (may → x.shd = 0 → t.front.moorStatus = 2 ∧ t.front.moorDone = 0 ∧ t.lan = s.lan) ∧
      (may → x.shd ≠ 0 → first ≠ x.mchunks.toNat ∨ n = 0 ∨ 4096 < n → t.front.moorStatus = 3 ∧ t.front.moorDone = 0 ∧ t.lan = s.lan) ∧
      (may → x.shd ≠ 0 → first = x.mchunks.toNat → n = 1 → op = 1 → s.childOf x.pd x.shd x.mleaf.toNat (s.moorKey keys.toNat) = none →
        t.front.moorStatus = 0 ∧ t.front.moorDone = 0 ∧ t.lan = s.lan ∧ t.dir = s.dir) ∧
      (∀ (l : MoorLeaf) (g la : Nat), may → x.shd ≠ 0 → first = x.mchunks.toNat → n = 1 → op = 1 → s.params.npc = 1 →
        s.childOf x.pd x.shd x.mleaf.toNat (s.moorKey keys.toNat) = some l → l.gpns = [g] → g ≠ 0 → g < 2 ^ 28 →
        (s.leaf x.kvroot x.mchunks.toNat).1 = 0 → s.leafAddr x.kvroot x.mchunks.toNat = some la →
        (let root := x.kvroot.toNat + 8 * (x.mchunks.toNat / 512 % 512); root + 8 ≤ la ∨ la + 8 ≤ root) →
          t.front.moorStatus = 0 ∧ t.front.moorDone = 1 ∧ t.leaf x.kvroot x.mchunks.toNat = (g, 1024) ∧
          (t.page g).refs = (s.page g).refs + 1 ∧ (t.ctxAt c).mleaf = BitVec.ofNat 32 l.id ∧ (t.ctxAt c).mchunks = x.mchunks + 1) ∧
      (∀ g : Nat, may → x.shd ≠ 0 → first = x.mchunks.toNat → n = 1 → op = 2 → s.params.npc = 1 →
        s.childOf x.pd x.shd x.mleaf.toNat (s.moorKey keys.toNat) = none → s.leaf x.kvroot x.mchunks.toNat = (g, 1024) → g ≠ 0 →
        s.tender.leaves.length < 1048576 →
          t.front.moorStatus = 0 ∧ t.front.moorDone = 1 ∧ t.mem = s.mem ∧ (t.page g).refs = (s.page g).refs + 1 ∧
          (t.ctxAt c).mchunks = x.mchunks + 1 ∧
          ∃ l, t.tender.leaves = s.tender.leaves ++ [l] ∧ l.id ≠ 0 ∧ (∀ o ∈ s.tender.leaves, o.id ≠ l.id) ∧ l.gpns = [g] ∧
            l.key = s.moorKey keys.toNat ∧ l.parent = x.mleaf.toNat ∧ l.pd = x.pd ∧ l.shd = x.shd ∧ (t.ctxAt c).mleaf = BitVec.ofNat 32 l.id) ∧
      (may → x.shd ≠ 0 → first = x.mchunks.toNat → n = 1 → op = 2 → s.params.npc = 1 →
        ((s.leaf x.kvroot x.mchunks.toNat).1 = 0 ∨ (s.leaf x.kvroot x.mchunks.toNat).2 ≠ 1024) →
          t.front.moorStatus = 3 ∧ t.front.moorDone = 0 ∧ t.lan = s.lan)))
end

