-- ==== Sys2Proof/Laws/State.lean ====
section
/-! SUPPORT. The small laws of reading and changing parts of the state. -/

namespace Sys2Proof.Machine

/-! ## Cores -/

@[simp] theorem coreAt_setCoreAt_self (s : State) (c : CoreId) (k : Core) : (s.setCoreAt c k).coreAt c = k := by
  simp [State.setCoreAt, State.coreAt]

theorem coreAt_setCoreAt_ne (s : State) (c d : CoreId) (k : Core) (h : c ≠ d) : (s.setCoreAt c k).coreAt d = s.coreAt d := by
  have : c.val ≠ d.val := fun e => h (Fin.ext e)
  simp [State.setCoreAt, State.coreAt, this]

@[simp] theorem setCoreAt_setCoreAt (s : State) (c : CoreId) (k l : Core) : (s.setCoreAt c k).setCoreAt c l = s.setCoreAt c l := by
  simp [State.setCoreAt, Vector.set_set]

@[simp] theorem setCoreAt_coreAt (s : State) (c : CoreId) : s.setCoreAt c (s.coreAt c) = s := by
  cases s; simp [State.setCoreAt, State.coreAt, Vector.set_getElem_self]

@[simp] theorem setCoreAt_mem (s : State) (c : CoreId) (k : Core) : (s.setCoreAt c k).mem = s.mem := rfl
@[simp] theorem setCoreAt_poison (s : State) (c : CoreId) (k : Core) : (s.setCoreAt c k).poison = s.poison := rfl
@[simp] theorem setCoreAt_focus (s : State) (c : CoreId) (k : Core) : (s.setCoreAt c k).focus = s.focus := rfl
@[simp] theorem setCoreAt_side (s : State) (c : CoreId) (k : Core) : (s.setCoreAt c k).side = s.side := rfl
@[simp] theorem setCoreAt_ring (s : State) (c : CoreId) (k : Core) : (s.setCoreAt c k).ring = s.ring := rfl
@[simp] theorem setCoreAt_mig (s : State) (c : CoreId) (k : Core) : (s.setCoreAt c k).mig = s.mig := rfl
@[simp] theorem setCoreAt_net (s : State) (c : CoreId) (k : Core) : (s.setCoreAt c k).net = s.net := rfl
@[simp] theorem setCoreAt_agenda (s : State) (c : CoreId) (k : Core) : (s.setCoreAt c k).agenda = s.agenda := rfl
@[simp] theorem setCoreAt_tracePds (s : State) (c : CoreId) (k : Core) : (s.setCoreAt c k).tracePds = s.tracePds := rfl

/-! ## The core in focus -/

@[simp] theorem cur_modCore (s : State) (f : Core → Core) : (s.modCore f).cur = f s.cur := by simp [State.modCore, State.cur]

@[simp] theorem modCore_modCore (s : State) (f g : Core → Core) : (s.modCore f).modCore g = s.modCore fun k => g (f k) := by
  simp [State.modCore, State.cur]

@[simp] theorem modCore_mem (s : State) (f : Core → Core) : (s.modCore f).mem = s.mem := rfl
@[simp] theorem modCore_focus (s : State) (f : Core → Core) : (s.modCore f).focus = s.focus := rfl
@[simp] theorem modCore_side (s : State) (f : Core → Core) : (s.modCore f).side = s.side := rfl

@[simp] theorem cur_modG (s : State) (f : Group → Group) : (s.modG f).cur = { s.cur with g := f s.cur.g } := by
  simp [State.modG]

@[simp] theorem g_modG (s : State) (f : Group → Group) : (s.modG f).g = f s.g := by simp [State.g]

@[simp] theorem modG_modG (s : State) (f g : Group → Group) : (s.modG f).modG g = s.modG fun x => g (f x) := by
  simp [State.modG]

@[simp] theorem modG_mem (s : State) (f : Group → Group) : (s.modG f).mem = s.mem := rfl
@[simp] theorem modG_focus (s : State) (f : Group → Group) : (s.modG f).focus = s.focus := rfl
@[simp] theorem modG_side (s : State) (f : Group → Group) : (s.modG f).side = s.side := rfl
@[simp] theorem modG_ring (s : State) (f : Group → Group) : (s.modG f).ring = s.ring := rfl
@[simp] theorem modG_net (s : State) (f : Group → Group) : (s.modG f).net = s.net := rfl

/-! ## The sequencer at work -/

@[simp] theorem seq_modSeq_self (g : Group) (side : Side2) (f : Seq → Seq) : (g.modSeq side f).seq side = f (g.seq side) := by
  cases side <;> rfl

@[simp] theorem modSeq_modSeq_group (g : Group) (side : Side2) (f h : Seq → Seq) :
    (g.modSeq side f).modSeq side h = g.modSeq side fun q => h (f q) := by
  cases side <;> rfl

@[simp] theorem seq_modSeq (s : State) (f : Seq → Seq) : (s.modSeq f).seq = f s.seq := by
  simp [State.modSeq, State.seq]

@[simp] theorem modSeq_modSeq (s : State) (f h : Seq → Seq) : (s.modSeq f).modSeq h = s.modSeq fun q => h (f q) := by
  simp [State.modSeq]

@[simp] theorem g_modSeq (s : State) (f : Seq → Seq) : (s.modSeq f).g = s.g.modSeq s.side f := by simp [State.modSeq]

@[simp] theorem modSeq_mem (s : State) (f : Seq → Seq) : (s.modSeq f).mem = s.mem := rfl
@[simp] theorem modSeq_focus (s : State) (f : Seq → Seq) : (s.modSeq f).focus = s.focus := rfl
@[simp] theorem modSeq_side (s : State) (f : Seq → Seq) : (s.modSeq f).side = s.side := rfl
@[simp] theorem modSeq_net (s : State) (f : Seq → Seq) : (s.modSeq f).net = s.net := rfl

/-- Only what the sequencer at work becomes matters. -/
theorem modSeq_congr (s : State) {f h : Seq → Seq} (e : f s.seq = h s.seq) : s.modSeq f = s.modSeq h := by
  cases hs : s.side <;>
    simp_all [State.modSeq, State.modG, State.modCore, Group.modSeq, State.seq, State.g, Group.seq]

theorem modSeq_id (s : State) : (s.modSeq fun q => q) = s := by
  have h : ∀ g : Group, (g.modSeq s.side fun q => q) = g := fun g => by cases s.side <;> rfl
  have e : (s.modSeq fun q => q) = s.setCoreAt s.focus { s.coreAt s.focus with g := (s.coreAt s.focus).g.modSeq s.side fun q => q } := rfl
  rw [e, h]
  exact setCoreAt_coreAt s s.focus

/-! ## Memory writes and trace records -/

@[simp] theorem writeMem_cores (s : State) (l : List (Nat × Byte)) : (s.writeMem l).cores = s.cores := rfl
@[simp] theorem writeMem_coreAt (s : State) (l : List (Nat × Byte)) (c : CoreId) : (s.writeMem l).coreAt c = s.coreAt c := rfl
@[simp] theorem writeMem_mem (s : State) (l : List (Nat × Byte)) : (s.writeMem l).mem = writeCells s.mem l := rfl
@[simp] theorem writeMem_focus (s : State) (l : List (Nat × Byte)) : (s.writeMem l).focus = s.focus := rfl
@[simp] theorem writeMem_side (s : State) (l : List (Nat × Byte)) : (s.writeMem l).side = s.side := rfl
@[simp] theorem writeMem_g (s : State) (l : List (Nat × Byte)) : (s.writeMem l).g = s.g := rfl
@[simp] theorem writeMem_seq (s : State) (l : List (Nat × Byte)) : (s.writeMem l).seq = s.seq := rfl

/-- A trace record changes memory and the trace pool of its core, and nothing else of any core. -/
theorem traceRecord_core (s : State) (c d : CoreId) (a b : Nat) :
    ∃ t, (s.traceRecord c a b).coreAt d = { s.coreAt d with trace := t } := by
  by_cases h : c = d
  · subst h
    unfold State.traceRecord
    simp only []
    split <;> simp
  · refine ⟨(s.coreAt d).trace, ?_⟩
    unfold State.traceRecord
    simp only []
    split <;> rw [coreAt_setCoreAt_ne _ _ _ _ h] <;> rfl

@[simp] theorem traceRecord_focus (s : State) (c : CoreId) (a b : Nat) : (s.traceRecord c a b).focus = s.focus := by
  unfold State.traceRecord; simp only []; split <;> rfl

@[simp] theorem traceRecord_side (s : State) (c : CoreId) (a b : Nat) : (s.traceRecord c a b).side = s.side := by
  unfold State.traceRecord; simp only []; split <;> rfl

theorem traceRecord_g (s : State) (c d : CoreId) (a b : Nat) : ((s.traceRecord c a b).coreAt d).g = (s.coreAt d).g := by
  obtain ⟨t, h⟩ := traceRecord_core s c d a b
  rw [h]

/-- A trace record stays within its 16 bytes. -/
theorem traceRecord_net (s : State) (c : CoreId) (a b : Nat) : (s.traceRecord c a b).net = s.net := by
  unfold State.traceRecord; simp only []; split <;> rfl

@[simp] theorem traceWait_focus (s : State) (c : CoreId) (k : Nat) (e : Eng) (o : Bool) (j : Nat) (pc : BitVec 32) (n m : Nat)
    (r : CoreId) : (s.traceWait c k e o j pc n m r).focus = s.focus := by
  unfold State.traceWait; split <;> simp

@[simp] theorem traceWait_side (s : State) (c : CoreId) (k : Nat) (e : Eng) (o : Bool) (j : Nat) (pc : BitVec 32) (n m : Nat)
    (r : CoreId) : (s.traceWait c k e o j pc n m r).side = s.side := by
  unfold State.traceWait; split <;> simp

theorem traceWait_g (s : State) (c d : CoreId) (k : Nat) (e : Eng) (o : Bool) (j : Nat) (pc : BitVec 32) (n m : Nat)
    (r : CoreId) : ((s.traceWait c k e o j pc n m r).coreAt d).g = (s.coreAt d).g := by
  unfold State.traceWait; split
  · rfl
  · exact traceRecord_g ..

/-! ## The end of a row group -/

/-- What a discard leaves as it was: the registers of a sequencer, and its control registers. -/
theorem discard_regs (g : Group) (keep : Bool) : SameRegs g.xs (g.discard keep).xs ∧ SameRegs g.as_ (g.discard keep).as_ :=
  ⟨⟨fun _ => rfl, fun _ => rfl, rfl, rfl, rfl⟩, ⟨fun _ => rfl, fun _ => rfl, rfl, rfl, rfl⟩⟩

@[simp] theorem discard_sems (g : Group) (keep : Bool) : (g.discard keep).sems = g.sems := rfl
@[simp] theorem discard_fsr (g : Group) (keep : Bool) : (g.discard keep).fsr = g.fsr := rfl
@[simp] theorem discard_retired (g : Group) (keep : Bool) : (g.discard keep).retired = g.retired := rfl
@[simp] theorem discard_run (g : Group) (keep : Bool) : (g.discard keep).run = g.run := rfl
@[simp] theorem discard_storeQ (g : Group) (keep : Bool) : (g.discard keep).storeQ = [] := rfl
@[simp] theorem discard_asReads (g : Group) (keep : Bool) : (g.discard keep).asReads = [] := rfl

/-- A row group that has left keeps its registers and control registers, and nothing runs. -/
theorem left_keeps (g : Group) : g.left.run = none ∧ SameRegs g.xs g.left.xs ∧ SameRegs g.as_ g.left.as_ ∧ SameControl g g.left :=
  ⟨rfl, ⟨fun _ => rfl, fun _ => rfl, rfl, rfl, rfl⟩, ⟨fun _ => rfl, fun _ => rfl, rfl, rfl, rfl⟩,
    ⟨rfl, rfl, rfl, rfl, rfl, rfl, rfl, rfl, rfl, rfl, rfl, rfl, rfl⟩⟩

@[simp] theorem left_sems (g : Group) : g.left.sems = g.sems := rfl
@[simp] theorem left_slots (g : Group) : g.left.slots = [] := rfl
@[simp] theorem perform_lastPerf (g : Group) (e : Eng) : (g.perform e).lastPerf.head? = some e := rfl
@[simp] theorem perform_run (g : Group) (e : Eng) : (g.perform e).run = g.run := rfl

@[simp] theorem holdSem_mem (s : State) (c : CoreId) (h : HeldSem) : (s.holdSem c h).mem = s.mem := rfl
@[simp] theorem holdSem_net (s : State) (c : CoreId) (h : HeldSem) : (s.holdSem c h).net = s.net := rfl
@[simp] theorem holdSem_heldSems (s : State) (c : CoreId) (h : HeldSem) :
    ((s.holdSem c h).coreAt c).heldSems = (s.coreAt c).heldSems ++ [h] := by simp [State.holdSem]
@[simp] theorem holdSem_g (s : State) (c : CoreId) (h : HeldSem) : ((s.holdSem c h).coreAt c).g = (s.coreAt c).g := by
  simp [State.holdSem]

/-- A group that counts as issued changes RETIRED of its row group alone, and on the XS only. -/
theorem countIssued_g (s : State) :
    s.countIssued.g = { s.g with retired := if s.side = .xs then s.g.retired + 1 else s.g.retired } := by
  unfold State.countIssued
  cases s.side <;> simp

@[simp] theorem countIssued_mem (s : State) : s.countIssued.mem = s.mem := by
  unfold State.countIssued
  cases s.side <;> rfl

end Sys2Proof.Machine
end

