-- ==== Sys2Proof/Laws/Memory.lean ====
section
/-! SUPPORT. The laws of tables and of memory: reading after writing, what a write leaves alone, and the canonical form. -/

namespace Sys2Proof.Machine

/-! ## Tables -/

theorem Tab.get_del {α : Type} (d : α) (t : Tab α) (i j : Nat) : Tab.get d (Tab.del t i) j = if j = i then d else Tab.get d t j := by
  induction t with
  | nil => simp [Tab.del, Tab.get]
  | cons e rest ih =>
    obtain ⟨k, v⟩ := e
    by_cases hk : k = i
    · subst hk
      have : Tab.del ((k, v) :: rest) k = Tab.del rest k := by simp [Tab.del]
      rw [this, ih]
      by_cases hj : j = k <;> simp [Tab.get, hj]
    · have : Tab.del ((k, v) :: rest) i = (k, v) :: Tab.del rest i := by simp [Tab.del, hk]
      rw [this]
      by_cases hj : j = k
      · subst hj; simp [Tab.get, hk]
      · simp [Tab.get, hj, ih]

/-- A key reads as it was last set, and every other key as before. -/
theorem Tab.get_set {α : Type} [DecidableEq α] (d : α) (t : Tab α) (i j : Nat) (x : α) :
    Tab.get d (Tab.set d t i x) j = if j = i then x else Tab.get d t j := by
  induction t with
  | nil =>
    by_cases hx : x = d
    · subst hx; simp [Tab.set, Tab.get]
    · simp [Tab.set, Tab.get, hx]
  | cons e rest ih =>
    obtain ⟨k, v⟩ := e
    by_cases h1 : i < k
    · by_cases hx : x = d
      · subst hx
        simp only [Tab.set, h1, if_true, Tab.get, Tab.get_del]
        by_cases hj : j = k
        · subst hj; simp [Nat.ne_of_gt h1]
        · simp [hj]
      · simp [Tab.set, h1, hx, Tab.get]
    · by_cases h2 : i = k
      · subst h2
        by_cases hx : x = d
        · subst hx
          simp only [Tab.set, Nat.lt_irrefl, if_false, if_true, Tab.get, Tab.get_del]
          by_cases hj : j = i <;> simp [hj]
        · simp only [Tab.set, Nat.lt_irrefl, if_false, if_true, hx, Tab.get]
          by_cases hj : j = i <;> simp [hj]
      · simp only [Tab.set, h1, h2, if_false, Tab.get, ih]
        by_cases hj : j = k
        · subst hj; simp [Ne.symm h2]
        · simp [hj]

theorem Tab.okFrom_mono {α : Type} [DecidableEq α] {d : α} {lo lo' : Nat} {t : Tab α} (h : Tab.okFrom d lo t = true) (hl : lo' ≤ lo) :
    Tab.okFrom d lo' t = true := by
  cases t with
  | nil => rfl
  | cons e rest =>
    obtain ⟨k, v⟩ := e
    simp only [Tab.okFrom, Bool.and_eq_true, decide_eq_true_eq] at h ⊢
    exact ⟨⟨Nat.le_trans hl h.1.1, h.1.2⟩, h.2⟩

theorem Tab.okFrom_filter {α : Type} [DecidableEq α] {d : α} (p : Nat × α → Bool) (t : Tab α) :
    ∀ lo, Tab.okFrom d lo t = true → Tab.okFrom d lo (t.filter p) = true := by
  induction t with
  | nil => intro lo _; rfl
  | cons e rest ih =>
    obtain ⟨k, v⟩ := e
    intro lo h
    simp only [Tab.okFrom, Bool.and_eq_true, decide_eq_true_eq] at h
    rw [List.filter_cons]
    split
    · simp only [Tab.okFrom, Bool.and_eq_true, decide_eq_true_eq]
      exact ⟨h.1, ih _ h.2⟩
    · exact Tab.okFrom_mono (ih _ h.2) (Nat.le_succ_of_le h.1.1)

/-- Setting a key keeps the canonical form. -/
theorem Tab.okFrom_set {α : Type} [DecidableEq α] {d : α} (i : Nat) (x : α) (t : Tab α) :
    ∀ lo, lo ≤ i → Tab.okFrom d lo t = true → Tab.okFrom d lo (Tab.set d t i x) = true := by
  induction t with
  | nil =>
    intro lo hlo _
    by_cases hx : x = d <;> simp [Tab.set, Tab.okFrom, hx, hlo]
  | cons e rest ih =>
    obtain ⟨k, v⟩ := e
    intro lo hlo h
    have h' := h
    simp only [Tab.okFrom, Bool.and_eq_true, decide_eq_true_eq] at h
    by_cases h1 : i < k
    · by_cases hx : x = d
      · simp only [Tab.set, h1, if_true, hx, Tab.okFrom, Bool.and_eq_true, decide_eq_true_eq]
        exact ⟨h.1, Tab.okFrom_filter _ _ _ h.2⟩
      · simp only [Tab.set, h1, if_true, hx, if_false, Tab.okFrom, Bool.and_eq_true, decide_eq_true_eq]
        exact ⟨⟨hlo, by simpa using hx⟩, ⟨h1, h.1.2⟩, h.2⟩
    · by_cases h2 : i = k
      · subst h2
        by_cases hx : x = d
        · simp only [Tab.set, Nat.lt_irrefl, if_false, if_true, hx]
          exact Tab.okFrom_mono (Tab.okFrom_filter _ _ _ h.2) (Nat.le_succ_of_le hlo)
        · simp only [Tab.set, Nat.lt_irrefl, if_false, if_true, hx, Tab.okFrom, Bool.and_eq_true, decide_eq_true_eq]
          exact ⟨⟨hlo, by simpa using hx⟩, h.2⟩
      · simp only [Tab.set, h1, h2, if_false, Tab.okFrom, Bool.and_eq_true, decide_eq_true_eq]
        exact ⟨h.1, ih _ (by omega) h.2⟩

/-! ## Memory -/

/-- A byte reads as it was last written, and every other byte as before. -/
theorem readByte_writeByte (m : Memory) (i j : Nat) (b : Byte) : readByte (writeByte m i b) j = if j = i then b else readByte m j :=
  Tab.get_set ..

theorem wf_writeByte {m : Memory} (h : m.wf = true) (i : Nat) (b : Byte) : (writeByte m i b).wf = true :=
  Tab.okFrom_set i b m 0 (Nat.zero_le _) h

theorem wf_filter {m : Memory} (h : m.wf = true) (p : Host.Cell → Bool) : Memory.wf (m.filter p) = true := Tab.okFrom_filter p m 0 h

@[simp] theorem writeCells_nil (m : Memory) : writeCells m [] = m := rfl

theorem writeCells_cons (m : Memory) (c : Nat × Byte) (l : List (Nat × Byte)) : writeCells m (c :: l) = writeCells (writeByte m c.1 c.2) l := rfl

theorem writeCells_append (m : Memory) (a b : List (Nat × Byte)) : writeCells m (a ++ b) = writeCells (writeCells m a) b := by
  simp [writeCells, List.foldl_append]

/-- Writing cells keeps the canonical form. -/
theorem wf_writeCells (l : List (Nat × Byte)) : ∀ {m : Memory}, m.wf = true → (writeCells m l).wf = true := by
  induction l with
  | nil => intro m h; exact h
  | cons c l ih => intro m h; rw [writeCells_cons]; exact ih (wf_writeByte h ..)

/-- Writing cells leaves every other byte alone. -/
theorem readByte_writeCells_of_not_mem (l : List (Nat × Byte)) (j : Nat) :
    ∀ (m : Memory), (∀ c ∈ l, c.1 ≠ j) → readByte (writeCells m l) j = readByte m j := by
  induction l with
  | nil => intro m _; rfl
  | cons c l ih =>
    intro m h
    rw [writeCells_cons, ih _ fun x hx => h x (List.mem_cons_of_mem _ hx), readByte_writeByte,
      if_neg fun e => h c List.mem_cons_self e.symm]

theorem mem_leCells (n : Nat) : ∀ (key w : Nat) (c : Nat × Byte), c ∈ leCells key n w → key ≤ c.1 ∧ c.1 < key + n := by
  induction n with
  | zero => intro key w c h; simp [leCells] at h
  | succ n ih =>
    intro key w c h
    rcases List.mem_cons.mp h with rfl | h
    · simp
    · have := ih _ _ _ h; omega

/-- A little-endian write leaves every byte outside it alone. -/
theorem readByte_writeCells_le (m : Memory) (key n w j : Nat) (h : j < key ∨ key + n ≤ j) :
    readByte (writeCells m (leCells key n w)) j = readByte m j :=
  readByte_writeCells_of_not_mem _ _ _ fun c hc e => by have := mem_leCells _ _ _ _ hc; omega

/-- A little-endian write reads back. -/
theorem readLE_writeCells_le (n : Nat) : ∀ (m : Memory) (key w : Nat),
    readLE (writeCells m (leCells key n w)) key n = w % 256 ^ n := by
  induction n with
  | zero => intro m key w; simp [readLE, Nat.mod_one]
  | succ n ih =>
    intro m key w
    rw [readLE, leCells, writeCells_cons]
    rw [ih, readByte_writeCells_le _ _ _ _ _ (Or.inl (Nat.lt_succ_self _)), readByte_writeByte, if_pos rfl]
    have h2 : (BitVec.ofNat 8 w).toNat = w % 256 := by simp
    rw [h2, Nat.pow_succ, Nat.mul_comm (256 ^ n) 256, Nat.mod_mul]

/-- Every byte of a range that does not change, the range reads as before. -/
theorem readLE_congr (n : Nat) : ∀ (m m' : Memory) (key : Nat), (∀ j, key ≤ j → j < key + n → readByte m' j = readByte m j) →
    readLE m' key n = readLE m key n := by
  induction n with
  | zero => intro m m' key _; rfl
  | succ n ih =>
    intro m m' key h
    rw [readLE, readLE, h key (Nat.le_refl _) (by omega), ih m m' (key + 1) fun j h1 h2 => h j (by omega) (by omega)]

theorem wf_clearRange {m : Memory} (h : m.wf = true) (lo len : Nat) : (clearRange m lo len).wf = true := wf_filter h _

theorem wf_copyRange {m : Memory} (h : m.wf = true) (src dst len : Nat) : (copyRange m src dst len).wf = true :=
  wf_writeCells _ (wf_clearRange h ..)

/-! ## Operations of the state that write memory -/

theorem memOk_writeMem {s : State} (h : s.MemOk) (l : List (Nat × Byte)) : (s.writeMem l).MemOk := wf_writeCells l h

theorem memOk_setRowField {s : State} (h : s.MemOk) (c : CoreId) (row off n v : Nat) : (s.setRowField c row off n v).MemOk :=
  wf_writeCells _ h

theorem memOk_clearMem {s : State} (h : s.MemOk) (lo len : Nat) : (s.clearMem lo len).MemOk := wf_clearRange h ..

theorem memOk_copyMem {s : State} (h : s.MemOk) (src dst len : Nat) : (s.copyMem src dst len).MemOk := wf_copyRange h ..

/-- What a trace record writes lies in its 16 bytes. -/
theorem traceRecord_readByte (s : State) (c : CoreId) (a b key : Nat)
    (h : key < devKey ((s.coreAt c).trace.base.toNat + (s.coreAt c).trace.idx * 16) ∨
      devKey ((s.coreAt c).trace.base.toNat + (s.coreAt c).trace.idx * 16) + 16 ≤ key) :
    readByte (s.traceRecord c a b).mem key = readByte s.mem key := by
  unfold State.traceRecord
  simp only []
  split
  · rw [setCoreAt_mem, writeMem_mem]
    exact readByte_writeCells_le _ _ _ _ _ h
  · rfl

theorem memOk_traceRecord {s : State} (h : s.MemOk) (c : CoreId) (a b : Nat) : (s.traceRecord c a b).MemOk := by
  unfold State.traceRecord State.MemOk
  simp only []
  split
  · rw [setCoreAt_mem]
    exact memOk_writeMem h _
  · exact h

/-- A range has a first poisoned byte just where it is poisoned (R354). -/
theorem poisonAt_isSome (s : State) (key n : Nat) : (s.poisonAt key n).isSome = s.poisoned key n := by
  unfold State.poisonAt State.poisoned
  cases h : s.poison.filter fun w => w * 8 < key + n && key < w * 8 + 8 with
  | nil =>
    have : s.poison.any (fun w => w * 8 < key + n && key < w * 8 + 8) = false := by
      rw [List.any_eq_false]
      intro w hw hp
      have := List.mem_filter (p := fun w => w * 8 < key + n && key < w * 8 + 8).mpr ⟨hw, hp⟩
      rw [h] at this
      cases this
    rw [this]; rfl
  | cons w l =>
    have hw : w ∈ s.poison.filter fun w => w * 8 < key + n && key < w * 8 + 8 := by rw [h]; exact List.mem_cons_self ..
    obtain ⟨hm, hp⟩ := List.mem_filter.mp hw
    rw [List.any_eq_true.mpr ⟨w, hm, hp⟩]
    simp [List.min?]

end Sys2Proof.Machine
end

