-- ==== Sys2Proof/Laws/Issue.lean ====
section
/-! SUPPORT. What the issue of one word can do, said once. -/

namespace Sys2Proof.Machine

/-- A word that acts has its effect in the ready state, and nothing else. -/
theorem issue_acts {s : State} {i : Instr} (h : s.Acts i) (eff : State → State) : issue i s eff = .next (eff (s.ready i)).endWord := by
  obtain ⟨hg, hp | ⟨ht, hh, hw, ho⟩⟩ := h
  · simp [issue, State.runWord, State.ready, hp, hg]
  · by_cases hp : s.seq.passed = true
    · simp [issue, State.runWord, State.ready, hp, hg]
    · simp [issue, State.runWord, State.ready, hp, hg, ht, hh, hw, ho]

/-- A result made pending is the pending result of its word. -/
theorem result_eq (s : State) (lat : Nat) (d : Dest) (v : Word) (fl : Flags) :
    s.result lat d v fl = s.modSeq fun q => { q with pend := q.pend ++ [s.pendOf (lat, d, v, fl)] } := rfl

/-- What a pending result takes from the state. -/
theorem pendOf_modSeq (s : State) (f : Seq → Seq) (h1 : (f s.seq).ic = s.seq.ic) (h2 : (f s.seq).grpStart = s.seq.grpStart) :
    (s.modSeq f).pendOf = s.pendOf := by
  have h3 : (s.modSeq f).groupIndex = s.groupIndex := by
    unfold State.groupIndex
    rw [modSeq_side]
    cases h : s.side
    · have hs : s.seq = s.g.as_ := by unfold State.seq; rw [h]; rfl
      rw [hs] at h1
      simp [Group.modSeq, h, h1]
    · simp [Group.modSeq, h]
  have h4 : (s.modSeq f).ten = s.ten := by
    unfold State.ten
    rw [modSeq_side]
    cases h : s.side <;> simp [Group.modSeq, h]
  funext r
  have h5 : (s.modSeq f).g.retired = s.g.retired := by rw [g_modSeq]; cases s.side <;> rfl
  unfold State.pendOf
  rw [h3, h4, h5, seq_modSeq, h1, h2]

theorem pendOf_result (s : State) (lat : Nat) (d : Dest) (v : Word) (fl : Flags) : (s.result lat d v fl).pendOf = s.pendOf := by
  rw [result_eq]
  exact pendOf_modSeq s _ rfl rfl

/-- Results made one after the other. -/
theorem results_modSeq (rs : List WordResult) : ∀ s : State,
    rs.foldl (fun (s : State) (r : WordResult) => s.result r.1 r.2.1 r.2.2.1 r.2.2.2) s
      = s.modSeq fun q => { q with pend := q.pend ++ rs.map s.pendOf } := by
  induction rs with
  | nil => intro s; simpa using (modSeq_id s).symm
  | cons r rest ih =>
    intro s
    rw [List.foldl_cons, ih]
    rw [pendOf_result, result_eq, modSeq_modSeq]
    simp

/-- A result made pending, and the end of its word. -/
theorem endWord_result (s : State) (lat : Nat) (d : Dest) (v : Word) (fl : Flags) :
    (s.result lat d v fl).endWord = s.withResults [(lat, d, v, fl)] := by
  rw [result_eq]
  simp [State.endWord, State.withResults, State.withPends]

/-- A result whose flags raise nothing made pending, and the end of its word (R130). -/
theorem endWord_quietResult (s : State) (lat : Nat) (d : Dest) (v : Word) (fl : Flags) :
    (s.quietResult lat d v fl).endWord = s.withPends [{ s.pendOf (lat, d, v, fl) with ten := 0 }] := by
  have e : s.quietResult lat d v fl = s.modSeq fun q => { q with pend := q.pend ++ [{ s.pendOf (lat, d, v, fl) with ten := 0 }] } := rfl
  rw [e]
  simp [State.endWord, State.withPends]

theorem withResults_nil (s : State) : s.withResults [] = s.endWord := by simp [State.endWord, State.withResults, State.withPends]

/-- Results made one after the other, and the end of their word. -/
theorem endWord_results (s : State) (rs : List WordResult) :
    (rs.foldl (fun (s : State) (r : WordResult) => s.result r.1 r.2.1 r.2.2.1 r.2.2.2) s).endWord = s.withResults rs := by
  rw [results_modSeq]
  simp [State.endWord, State.withResults, State.withPends]

/-- The results of a tile. -/
theorem endWord_tileResult (s : State) (lat : Nat) (step : Bool) (rows : List RowOut) :
    (s.tileResult lat step rows).endWord = s.withResults (tileResults lat step rows) := by
  rw [← endWord_results]
  unfold State.tileResult tileResults
  rw [List.foldl_map]

/-! ## The ready state -/

@[simp] theorem endRecord_focus (s : State) (m : Nat × CoreId) : (s.endRecord m).focus = s.focus := by simp [State.endRecord]

@[simp] theorem endRecord_side (s : State) (m : Nat × CoreId) : (s.endRecord m).side = s.side := by simp [State.endRecord]

/-- The record of a wait changes which of its cycles are recorded, and nothing else of the row group. -/
theorem endRecord_g (s : State) (m : Nat × CoreId) :
    (s.endRecord m).g = s.g.modSeq s.side fun q => { q with waitFrom := q.waited } := by
  unfold State.endRecord
  rw [g_modSeq, traceWait_side]
  congr 1
  unfold State.g State.cur
  rw [traceWait_focus]
  exact traceWait_g ..

/-- A sequencer whose wait is over. -/
def Seq.calm (q : Seq) : Seq := if q.waited = 0 then q else { q with waited := 0, waitFrom := 0 }

@[simp] theorem endWait_focus (s : State) : s.endWait.focus = s.focus := by
  unfold State.endWait; split <;> simp

@[simp] theorem endWait_side (s : State) : s.endWait.side = s.side := by
  unfold State.endWait; split <;> simp

/-- The end of a wait changes the counts of waited cycles, and nothing else of the row group. -/
theorem endWait_g (s : State) : s.endWait.g = s.g.modSeq s.side Seq.calm := by
  unfold State.endWait
  split
  · rename_i h
    have e : s.modSeq Seq.calm = s.modSeq fun q => q := modSeq_congr s (by simp [Seq.calm, h])
    have := congrArg State.g e
    rw [modSeq_id, g_modSeq] at this
    exact this.symm
  · rename_i h
    rw [g_modSeq, endRecord_side, endRecord_g, modSeq_modSeq_group]
    have e : s.modSeq Seq.calm = s.modSeq fun q => { q with waited := 0, waitFrom := 0 } := modSeq_congr s (by simp [Seq.calm, h])
    have := congrArg State.g e
    rw [g_modSeq, g_modSeq] at this
    exact this.symm

theorem endWait_seq (s : State) : s.endWait.seq = s.seq.calm := by
  simp [State.seq, endWait_g]

@[simp] theorem takePipe_focus (s : State) (i : Instr) : (s.takePipe i).focus = s.focus := by
  unfold State.takePipe; simp only []; repeat (first | split | rfl)

@[simp] theorem takePipe_side (s : State) (i : Instr) : (s.takePipe i).side = s.side := by
  unfold State.takePipe; simp only []; repeat (first | split | rfl)

@[simp] theorem takePipe_mem (s : State) (i : Instr) : (s.takePipe i).mem = s.mem := by
  unfold State.takePipe; simp only []; repeat (first | split | rfl)

/-- A word that takes a pipe changes when the pipes are free, and nothing else of the row group. -/
theorem takePipe_g (s : State) (i : Instr) : ∃ a b, (s.takePipe i).g = { s.g with vaFree := a, vbFree := b } := by
  unfold State.takePipe
  simp only []
  split
  · exact ⟨s.g.vaFree, s.g.vbFree, rfl⟩
  · split
    · exact ⟨_, s.g.vbFree, g_modG s _⟩
    · exact ⟨s.g.vaFree, _, g_modG s _⟩

/-- A word that is no vector word takes no pipe. -/
theorem takePipe_scalar (s : State) (i : Instr) (h : isVecWord i = false) : s.takePipe i = s := by simp [State.takePipe, h]

theorem ready_focus (s : State) (i : Instr) : (s.ready i).focus = s.focus := by
  unfold State.ready; split <;> simp

theorem ready_side (s : State) (i : Instr) : (s.ready i).side = s.side := by
  unfold State.ready; split <;> simp

/-- What the ready state has of the row group: the pipes and the counts of waited cycles apart, everything. -/
theorem ready_g (s : State) (i : Instr) :
    ∃ a b w f, (s.ready i).g =
      { (s.g.modSeq s.side fun q => { q with waited := w, waitFrom := f }) with vaFree := a, vbFree := b } := by
  have same : ∀ q : Seq, ({ q with waited := q.waited, waitFrom := q.waitFrom } : Seq) = q := fun _ => rfl
  unfold State.ready
  split
  · obtain ⟨a, b, h⟩ := takePipe_g s i
    refine ⟨a, b, s.seq.waited, s.seq.waitFrom, ?_⟩
    rw [h]
    cases hs : s.side <;> simp [Group.modSeq, State.seq, Group.seq, hs]
  · obtain ⟨a, b, h⟩ := takePipe_g s.endWait i
    refine ⟨a, b, s.seq.calm.waited, s.seq.calm.waitFrom, ?_⟩
    rw [h, endWait_g]
    cases hs : s.side <;> simp [Group.modSeq, State.seq, Group.seq, hs, Seq.calm] <;> split <;> rfl

theorem ready_seq (s : State) (i : Instr) : ∃ w f, (s.ready i).seq = { s.seq with waited := w, waitFrom := f } := by
  obtain ⟨a, b, w, f, h⟩ := ready_g s i
  refine ⟨w, f, ?_⟩
  unfold State.seq
  rw [h, ready_side]
  cases s.side <;> rfl

@[simp] theorem ready_getX (s : State) (i : Instr) (r : RegNum) : (s.ready i).seq.getX r = s.seq.getX r := by
  obtain ⟨w, f, h⟩ := ready_seq s i
  rw [h]; rfl

@[simp] theorem ready_getP (s : State) (i : Instr) (r : RegNum) : (s.ready i).seq.getP r = s.seq.getP r := by
  obtain ⟨w, f, h⟩ := ready_seq s i
  rw [h]; rfl

@[simp] theorem ready_mod (s : State) (i : Instr) : (s.ready i).seq.mod = s.seq.mod := by
  obtain ⟨w, f, h⟩ := ready_seq s i
  rw [h]

@[simp] theorem ready_pend (s : State) (i : Instr) : (s.ready i).seq.pend = s.seq.pend := by
  obtain ⟨w, f, h⟩ := ready_seq s i
  rw [h]

@[simp] theorem ready_pc (s : State) (i : Instr) : (s.ready i).seq.pc = s.seq.pc := by
  obtain ⟨w, f, h⟩ := ready_seq s i
  rw [h]

@[simp] theorem ready_grpStart (s : State) (i : Instr) : (s.ready i).seq.grpStart = s.seq.grpStart := by
  obtain ⟨w, f, h⟩ := ready_seq s i
  rw [h]

@[simp] theorem ready_ic (s : State) (i : Instr) : (s.ready i).seq.ic = s.seq.ic := by
  obtain ⟨w, f, h⟩ := ready_seq s i
  rw [h]

@[simp] theorem ready_fcr (s : State) (i : Instr) : (s.ready i).g.fcr = s.g.fcr := by
  obtain ⟨a, b, w, f, h⟩ := ready_g s i
  rw [h]; cases s.side <;> rfl

@[simp] theorem ready_numCtl (s : State) (i : Instr) : (s.ready i).numCtl = s.numCtl := by
  unfold State.numCtl
  rw [ready_side, ready_fcr, ready_mod]

/-- Without a modifier before the word, no modifier acts (R113). -/
theorem numCtl_plain (s : State) (h : s.seq.mod = none) : s.numCtl.mod = OpMod.plain := by
  unfold State.numCtl
  cases s.side <;> simp [h, NumCtl.plain]

/-! ## Memory in the ready state -/

theorem traceWait_readByte (s : State) (c : CoreId) (k : Nat) (e : Eng) (o : Bool) (j : Nat) (pc : BitVec 32) (n m : Nat)
    (r : CoreId) (key : Nat) (h : key < devKey ((s.coreAt c).trace.base.toNat + (s.coreAt c).trace.idx * 16) ∨
      devKey ((s.coreAt c).trace.base.toNat + (s.coreAt c).trace.idx * 16) + 16 ≤ key) :
    readByte (s.traceWait c k e o j pc n m r).mem key = readByte s.mem key := by
  unfold State.traceWait
  split
  · rfl
  · exact traceRecord_readByte _ _ _ _ _ h

theorem memOk_traceWait {s : State} (h : s.MemOk) (c : CoreId) (k : Nat) (e : Eng) (o : Bool) (j : Nat) (pc : BitVec 32) (n m : Nat)
    (r : CoreId) : (s.traceWait c k e o j pc n m r).MemOk := by
  unfold State.traceWait
  split
  · exact h
  · exact memOk_traceRecord h _ _ _

/-- The record of a wait writes its 16 bytes alone. -/
theorem endRecord_readByte (s : State) (m : Nat × CoreId) (key : Nat) (h : key < s.recordKey ∨ s.recordKey + 16 ≤ key) :
    readByte (s.endRecord m).mem key = readByte s.mem key := traceWait_readByte _ _ _ _ _ _ _ _ _ _ _ h

theorem memOk_endRecord {s : State} (h : s.MemOk) (m : Nat × CoreId) : (s.endRecord m).MemOk := memOk_traceWait h ..

/-- Until it acts, a word writes no memory but the record of its wait. -/
theorem ready_sameMemory (s : State) (i : Instr) : SameMemory s (s.ready i) := by
  intro key h
  unfold State.ready
  rw [takePipe_mem]
  split
  · rfl
  · rename_i hp
    unfold State.endWait
    split
    · rfl
    · rename_i hw
      rw [modSeq_mem]
      refine endRecord_readByte _ _ _ ?_
      rcases h with h | h | h | h
      · exact absurd h hp
      · exact absurd h hw
      · exact Or.inl h
      · exact Or.inr h

theorem memOk_endWait {s : State} (h : s.MemOk) : s.endWait.MemOk := by
  unfold State.endWait
  split
  · exact h
  · exact memOk_endRecord h _

theorem memOk_ready {s : State} (h : s.MemOk) (i : Instr) : (s.ready i).MemOk := by
  unfold State.ready State.MemOk
  rw [takePipe_mem]
  split
  · exact h
  · exact memOk_endWait h

end Sys2Proof.Machine
end

