-- ==== Sys2Proof/Tests/Slice0.lean ====
section
/-! SUPPORT. The model's own tests: ill-formed terms that WellFormed refuses, words written out bit by bit from the encoding tables,
single steps with results worked out by hand, and for each statement a state and operands that meet its hypotheses. -/

open Sys2Proof
open Sys2Proof.Machine

set_option maxRecDepth 8000

/-! ## WellFormed refuses an ill-formed term of each check -/

/-- A header with nothing in it. -/
def testHdr : CmdHdr :=
  { await := 0, amode := .none, raise := 0, re := false, popL := false, popR := false, pushL := false, pushR := false, mig := false
    lin := false, thr := 0, linw := 0 }

/-- R104, R108, R107, R111. -/
theorem test_illformed_words : ∀ i ∈ [Instr.fcvt 1 2 .f32 .f32 0, .fcvt 1 2 .i64 .n32 0, .ld 1 2 .d true 0, .ldq 1 2 .d true 0,
    .cmpi .feq 1 2 0, .cmpi .flt 1 2 0, .cmpi .fle 1 2 0, .cmpi .fun_ 1 2 0, .semsigRemote 1 0, .semsetRemote 1 0, .semrdRemote 1 0],
    i.wellFormed = false := by decide

/-- R118: an await or a threshold without a mode, a raise without RE, MIG on a command that may not migrate, a lineage word without LIN. -/
theorem test_illformed_headers : ∀ h ∈ [{ testHdr with await := 3 }, { testHdr with thr := 1 }, { testHdr with raise := 2 },
    { testHdr with mig := true }, { testHdr with linw := 1 }],
    (Instr.mnop h).wellFormed = false ∧ (Instr.copy h 0).wellFormed = false ∧ (Instr.csig h 0).wellFormed = false := by decide

theorem test_wellformed : ∀ i ∈ [Instr.fcvt 1 2 .i64 .f32 0, .ld 1 2 .w true 0, .cmpi .tst 1 2 0, .semsigRemote 1 2,
    .mnop testHdr, .mma { testHdr with mig := true, amode := .ge, await := 3, thr := 1, re := true, raise := 2 } 0 0 0], i.wellFormed = true := by
  decide

/-! ## Words written out from the encoding tables (R97, R103 to R113) -/

/-- Class 0 (R102 to R104). -/
theorem test_decode_class0 : ∀ e ∈ [
    (0b1_000_000000_000001_100010_000011_0100, Instr.add 1 34 3 4),
    (0b1_000_000001_000001_100010_000011_0100, .sub 1 34 3 4),
    (0b1_000_000010_000001_100010_000011_0100, .mul 1 34 3 4),
    (0b1_000_000011_000001_100010_000011_0100, .mulh 1 34 3 4),
    (0b1_000_000100_000001_100010_000011_0100, .mulhu 1 34 3 4),
    (0b1_000_000101_000001_100010_000011_0100, .div 1 34 3 4),
    (0b1_000_000110_000001_100010_000011_0100, .divu 1 34 3 4),
    (0b1_000_000111_000001_100010_000011_0100, .rem 1 34 3 4),
    (0b1_000_001000_000001_100010_000011_0100, .remu 1 34 3 4),
    (0b1_000_001001_000001_100010_000011_0100, .and_ 1 34 3 4),
    (0b1_000_001010_000001_100010_000011_0100, .or_ 1 34 3 4),
    (0b1_000_001011_000001_100010_000011_0100, .xor_ 1 34 3 4),
    (0b1_000_001100_000001_100010_000011_0100, .andn 1 34 3 4),
    (0b1_000_001101_000001_100010_000011_0100, .shl 1 34 3 4),
    (0b1_000_001110_000001_100010_000011_0100, .shr 1 34 3 4),
    (0b1_000_001111_000001_100010_000011_0100, .sar 1 34 3 4),
    (0b1_000_010000_000001_100010_000011_0100, .rotl 1 34 3 4),
    (0b1_000_010001_000001_100010_000011_0100, .min 1 34 3 4),
    (0b1_000_010010_000001_100010_000011_0100, .max 1 34 3 4),
    (0b1_000_010011_000001_100010_000011_0100, .minu 1 34 3 4)],
    (decodeWord e.1).toOption = some e.2 := by decide

/-- Class 0 (R102 to R104). -/
theorem test_decode_class0b : ∀ e ∈ [
    (0b1_000_010100_000001_100010_000011_0100, Instr.maxu 1 34 3 4),
    (0b1_000_010101_000001_100010_000011_0100, .sel 1 34 3 4),
    (0b1_000_010110_000001_100010_000011_0100, .fshl 1 34 3 4),
    (0b1_000_010111_000001_100010_000011_0100, .fshr 1 34 3 4),
    (0b1_000_011000_000001_100010_000011_0100, .bfx 1 34 3 4),
    (0b1_000_011001_000001_100010_000011_0100, .bfxs 1 34 3 4),
    (0b1_000_011010_000001_100010_000011_0100, .bfi 1 34 3 4),
    (0b1_000_011011_000001_100010_000000_1111, .clz 1 34 15),
    (0b1_000_011100_000001_100010_000000_1111, .ctz 1 34 15),
    (0b1_000_011101_000001_100010_000000_1111, .popc 1 34 15),
    (0b1_000_011110_000001_100010_000000_1111, .bswap 1 34 15),
    (0b1_000_011111_000001_100010_000000_1111, .mov 1 34 15),
    (0b1_000_100000_000001_100010_000011_0100, .fadd 1 34 3 4),
    (0b1_000_100001_000001_100010_000011_0100, .fsub 1 34 3 4),
    (0b1_000_100010_000001_100010_000011_0100, .fmul 1 34 3 4),
    (0b1_000_100011_000001_100010_000011_0100, .fmin 1 34 3 4),
    (0b1_000_100100_000001_100010_000011_0100, .fmax 1 34 3 4),
    (0b1_000_100101_000001_100010_000011_0100, .ffma 1 34 3 4),
    (0b1_000_100110_000001_100010_101_010_0011, .fcvt 1 34 .i32 .f32 3)],
    (decodeWord e.1).toOption = some e.2 := by decide

/-- Class 1 (R105). -/
theorem test_decode_class1 : ∀ e ∈ [
    (0b0_001_0000_000001_100010_100000000101, Instr.addi 1 34 0x805),
    (0b0_001_0001_000001_100010_100000000101, .andi 1 34 0x805),
    (0b0_001_0010_000001_100010_100000000101, .ori 1 34 0x805),
    (0b0_001_0011_000001_100010_100000000101, .xori 1 34 0x805),
    (0b0_001_0100_000001_100010_000000_100001, .shli 1 34 33),
    (0b0_001_0101_000001_100010_000000_100001, .shri 1 34 33),
    (0b0_001_0110_000001_100010_000000_100001, .sari 1 34 33),
    (0b0_001_0111_000001_100010_100000000101, .muli 1 34 0x805),
    (0b0_001_1000_000001_100010_100000000101, .mini 1 34 0x805),
    (0b0_001_1001_000001_100010_100000000101, .maxi 1 34 0x805),
    (0b0_001_1010_000001_100000000000000101, .li 1 0x20005),
    (0b0_001_1011_000001_100000000000000101, .lish 1 0x20005)],
    (decodeWord e.1).toOption = some e.2 := by decide

/-- Class 2 (R106, R107). -/
theorem test_decode_class2 : ∀ e ∈ [
    (0b1_010_0000_00000000_1111111111111110, Instr.br 0xFFFE),
    (0b1_010_0001_1_000101_0_1111111111111110, .brp true 5 0xFFFE),
    (0b1_010_0010_1_0000000_1111111111111110, .brq true 0xFFFE),
    (0b1_010_0011_000101_000000000000000000, .jr 5),
    (0b1_010_0100_000101_00_1111111111111110, .call 5 0xFFFE),
    (0b1_010_0101_000101_000110_000000000000, .callr 5 6),
    (0b1_010_0110_000101_000000000000000000, .ret 5),
    (0b1_010_0111_01_000101_0000000000000011, .loop 1 5 3),
    (0b1_010_1000_10_1111111111_000000000011, .loopi 2 1023 3),
    (0b1_010_1001_11_000101_1_0_00000000000011, .loopr 3 5 true false 3),
    (0b1_010_1010_1010_000101_000110_000111_00, .cmp .tst 5 6 7),
    (0b1_010_1011_0100_000101_000110_11001000, .cmpi .ltu 5 6 200),
    (0b1_010_1100_000101_000110_000111_0110_00, .plog 5 6 7 6),
    (0b1_010_1101_000000000000000000000000, .nop)],
    (decodeWord e.1).toOption = some e.2 := by decide

/-- Class 3 (R108). -/
theorem test_decode_class3 : ∀ e ∈ [
    (0b1_011_00000_000001_000010_010_1_1111111, Instr.ld 1 2 .w true 0x7F),
    (0b1_011_00001_000001_000010_011_0_1111111, .st 1 2 .d 0x7F),
    (0b1_011_00010_0111_000010_001_1_100000001, .ldq 7 2 .h true 0x101),
    (0b1_011_00011_1001_000010_0000000000000, .qpush 9 2),
    (0b1_011_00100_0001_000010_0000000000000, .qpop 1 2),
    (0b1_011_00101_0001_000010_0000000000000, .qpeek 1 2),
    (0b1_011_00110_0001_000010_0000000000000, .qcnt 1 2),
    (0b1_011_00111_0000_000010_1_000000000000, .qpushb 2 true),
    (0b1_011_01000_00011_000010_000000000000, .agdef 3 2),
    (0b1_011_01001_00011_000010_0110000_00000, .agset 3 2 48),
    (0b1_011_01010_00011_000010_1001_00000000, .agadv 3 2 9),
    (0b1_011_01011_00011_0111_00000000000000, .agld 3 7),
    (0b1_011_01100_00011_0111_000010_00000000, .aggath 3 7 2),
    (0b1_011_01101_000001_000010_00000000000, .pgref 1 2),
    (0b1_011_01110_10_000010_000000000000000, .cmdw .ch1 2),
    (0b1_011_01111_01_000000000000000000000, .cmdpub .ch0),
    (0b1_011_10000_1_000010_0000000000000000, .wpwait .c1 2),
    (0b1_011_10001_00000001_000010_000011_000, .vld 1 2 3),
    (0b1_011_10010_00000001_000010_000011_000, .vst (plainOp 1) 2 3),
    (0b1_011_10011_00000001_000010_00000011_0, .vldx 1 2 (plainOp 3)),
    (0b1_011_10100_000001_00000010_000011_000, .vextr 1 (plainOp 2) 3),
    (0b1_011_10101_00000001_000010_000011_000, .vins 1 2 3),
    (0b1_011_10110_00111_01111_0001_0010_00000, .vshape 7 15 1 2),
    (0b1_011_10111_00000110_111_000000000000, .vtap (plainOp 6) 7),
    (0b1_011_11000_00000001_000010_000000000, .vmaskrow 1 2)],
    (decodeWord e.1).toOption = some e.2 := by decide

/-- Class 4 (R110). -/
theorem test_decode_class4 : ∀ e ∈ [
    (0b1_100_0000_00000001_00000010_00000011, Instr.vadd 1 (plainOp 2) (plainOp 3)),
    (0b1_100_0001_00000001_00000010_00000011, .vsub 1 (plainOp 2) (plainOp 3)),
    (0b1_100_0010_00000001_00000010_00000011, .vmul 1 (plainOp 2) (plainOp 3)),
    (0b1_100_0011_00000001_00000010_00000011, .vfma 1 (plainOp 2) (plainOp 3)),
    (0b1_100_0100_00000001_00000010_00000011, .vfms 1 (plainOp 2) (plainOp 3)),
    (0b1_100_0101_00000001_00000010_00000011, .vmin 1 (plainOp 2) (plainOp 3)),
    (0b1_100_0110_00000001_00000010_00000011, .vmax 1 (plainOp 2) (plainOp 3)),
    (0b1_100_0111_00000001_00000010_00000011, .vabsd 1 (plainOp 2) (plainOp 3)),
    (0b1_100_1000_00000001_00000010_00000011, .vand 1 (plainOp 2) (plainOp 3)),
    (0b1_100_1001_00000001_00000010_00000011, .vor 1 (plainOp 2) (plainOp 3)),
    (0b1_100_1010_00000001_00000010_00000011, .vxor 1 (plainOp 2) (plainOp 3)),
    (0b1_100_1011_00000001_00000010_00000011, .vandn 1 (plainOp 2) (plainOp 3)),
    (0b1_100_1100_00000001_00000010_00000011, .vshl 1 (plainOp 2) (plainOp 3)),
    (0b1_100_1101_00000001_00000010_00000011, .vshr 1 (plainOp 2) (plainOp 3)),
    (0b1_100_1110_00000001_00000010_00000011, .vsar 1 (plainOp 2) (plainOp 3)),
    (0b1_100_1111_00000001_00000010_00000011, .vsel 1 (plainOp 2) (plainOp 3))],
    (decodeWord e.1).toOption = some e.2 := by decide

/-- Class 5 (R110). -/
theorem test_decode_class5 : ∀ e ∈ [
    (0b1_101_0000_00000001_00000010_00000011, Instr.vcmpeq 1 (plainOp 2) (plainOp 3)),
    (0b1_101_0001_00000001_00000010_00000011, .vcmpne 1 (plainOp 2) (plainOp 3)),
    (0b1_101_0010_00000001_00000010_00000011, .vcmplt 1 (plainOp 2) (plainOp 3)),
    (0b1_101_0011_00000001_00000010_00000011, .vcmple 1 (plainOp 2) (plainOp 3)),
    (0b1_101_0100_00000001_00000010_000_00000, .vunMov 1 (plainOp 2)),
    (0b1_101_0100_00000001_00000010_000_00001, .vunNeg 1 (plainOp 2)),
    (0b1_101_0100_00000001_00000010_000_00010, .vunAbs 1 (plainOp 2)),
    (0b1_101_0100_00000001_00000010_000_00011, .vunNot 1 (plainOp 2)),
    (0b1_101_0100_00000001_00000010_000_00100, .vunCvt 1 (plainOp 2)),
    (0b1_101_0100_00000001_00000010_000_00101, .vunExp 1 (plainOp 2)),
    (0b1_101_0100_00000001_00000010_000_00110, .vunExp2 1 (plainOp 2)),
    (0b1_101_0100_00000001_00000010_000_00111, .vunLog2 1 (plainOp 2)),
    (0b1_101_0100_00000001_00000010_000_01000, .vunRcp 1 (plainOp 2)),
    (0b1_101_0100_00000001_00000010_000_01001, .vunRsq 1 (plainOp 2)),
    (0b1_101_0100_00000001_00000010_000_01010, .vunSqrt 1 (plainOp 2)),
    (0b1_101_0100_00000001_00000010_000_01011, .vunTanh 1 (plainOp 2)),
    (0b1_101_0100_00000001_00000010_000_01100, .vunSigm 1 (plainOp 2)),
    (0b1_101_0100_00000001_00000010_000_01101, .vunErf 1 (plainOp 2)),
    (0b1_101_0100_00000001_00000010_000_01110, .vunClz 1 (plainOp 2)),
    (0b1_101_0100_00000001_00000010_000_01111, .vunPopc 1 (plainOp 2)),
    (0b1_101_0100_00000001_00000000_000_10000, .vunIota 1),
    (0b1_101_0100_00000001_00000010_000_10001, .vunPack 1 (plainOp 2)),
    (0b1_101_0100_00000001_00000010_000_10010, .vunUnpk 1 (plainOp 2)),
    (0b1_101_0101_00000001_00000010_01_010_000, .vred 1 (plainOp 2) .rows .max),
    (0b1_101_0110_00000001_00000010_01_010_000, .vscan 1 (plainOp 2) .rows .max),
    (0b1_101_0111_00000001_00000010_000_00111, .vshli 1 (plainOp 2) 7),
    (0b1_101_1000_00000001_00000010_000_00111, .vshri 1 (plainOp 2) 7),
    (0b1_101_1001_00000001_00000010_000_00111, .vsari 1 (plainOp 2) 7),
    (0b1_101_1010_00000001_00000010_00000011, .vbfx 1 (plainOp 2) (plainOp 3)),
    (0b1_101_1011_00000001_00000010_00000011, .vfsh 1 (plainOp 2) (plainOp 3)),
    (0b1_101_1100_00000001_00000010_00000011, .vlut 1 (plainOp 2) (plainOp 3)),
    (0b1_101_1101_00000001_00_001001_00000000, .vsplat 1 9),
    (0b1_101_1110_00000001_00000010_00000011, .vquant 1 (plainOp 2) (plainOp 3)),
    (0b1_101_1111_00000001_00000010_00000011, .vdeq 1 (plainOp 2) (plainOp 3))],
    (decodeWord e.1).toOption = some e.2 := by decide

/-- Class 6 (R111). XB of X0 is the form on a local semaphore. -/
theorem test_decode_class6 : ∀ e ∈ [
    (0b1_110_00000_000001_000010_00000000000, Instr.semwait 1 2),
    (0b1_110_00001_000001_000010_00000000000, .semwaitb 1 2),
    (0b1_110_00010_000001_000000_000101_00000, .semsigLocal 1 5),
    (0b1_110_00010_000001_000010_000000_00000, .semsigRemote 1 2),
    (0b1_110_00011_000001_000000_000101_00000, .semsetLocal 1 5),
    (0b1_110_00011_000001_000010_000000_00000, .semsetRemote 1 2),
    (0b1_110_00100_000001_000000_000101_00000, .semrdLocal 1 5),
    (0b1_110_00100_000001_000010_000000_00000, .semrdRemote 1 2),
    (0b1_110_00101_1_0000000000000000000000, .tokpop .right),
    (0b1_110_00110_0_0000000000000000000000, .tokpush .left),
    (0b1_110_00111_000000011_100000000_00000, .fence 3 256),
    (0b1_110_01000_000000011_000001_000010_00, .acq 3 1 2),
    (0b1_110_01001_000000011_000001_000010_00, .rel 3 1 2),
    (0b1_110_01010_11111_000001_000000000000, .bind 31 1),
    (0b1_110_01011_00000000000000000000000, .sdrain),
    (0b1_110_01100_000001_000001111_00000000, .aballoc 1 15),
    (0b1_110_01101_000001_000001111_00000000, .abfree 1 15),
    (0b1_110_01110_000001_000010_000_00000000, .rngdrawRaw 1 2),
    (0b1_110_01110_000001_000010_001_00000000, .rngdrawUnit 1 2),
    (0b1_110_01111_000001_000010_00000000000, .rngskip 1 2)],
    (decodeWord e.1).toOption = some e.2 := by decide

/-- Class 7 (R112, R113). -/
theorem test_decode_class7 : ∀ e ∈ [
    (0b1_111_01_00000_00000_0000000000101010, Instr.trap 42),
    (0b1_111_01_00001_000000000000000000000, .rett),
    (0b1_111_01_00010_000000000000000000000, .termg),
    (0b1_111_01_00011_000000000000000000000, .exit),
    (0b1_111_01_00100_000000000000000000000, .yield),
    (0b1_111_01_00101_000000000000000000000, .ctxsw),
    (0b1_111_01_00110_000001_0000100_00000000, .rdcr 1 4),
    (0b1_111_01_00111_000001_0000100_00000000, .wrcr 1 4),
    (0b1_111_01_01000_00000_0000000000000011, .bkpt 3),
    (0b1_111_01_01001_000100_000000000000000, .frqpop 4),
    (0b1_111_01_01010_000101_000000000000000, .rowmask 5),
    (0b0_111_00_1_10_1_0_0_1_11111_1_000011_100_0000, .modifier { sat := true, clamp := 2, negA := true, absA := false, negB := false, absB := true, scale := 0x1F#5, gn := true, gp := 3, rnd := .rdn })],
    (decodeWord e.1).toOption = some e.2 := by decide

/-- R119: a reserved op of class 3, a field written as zero that is not, SZ 4, VUN sub-op 0x13, and class 7 sub 2 decode to nothing. -/
theorem test_decode_reserved : ∀ w ∈ [0b1_011_11111_00000000000000000000000, 0b1_000_011011_000001_000010_000001_0000,
    0b1_011_00000_000001_000010_100_0_0000000, 0b1_101_0100_00000001_00000010_000_10011, 0b1_111_10_00000_000000000000000000000],
    (decodeWord w).toOption = none := by decide

/-- The header of the command words below. -/
def testCmdHdr : CmdHdr :=
  { await := 2, amode := .ge, raise := 7, re := true, popL := true, popR := false, pushL := false, pushR := true, mig := false
    lin := true, thr := 5, linw := 6 }

/-- Commands (R116, R117), each with an await, a threshold of 5, a raise, POPL, PUSHR and a lineage word of 6. -/
theorem test_decode_commands : ∀ e ∈ [
    (StepEngine.me, 0b000000_010_000010_01_000111_1_1_0_0_1_0_1_00, [5, 6], Instr.mnop testCmdHdr),
    (.me, 0b000001_101_000010_01_000111_1_1_0_0_1_1_1_00, [11, 12, 13, 5, 6], .mma ({ testCmdHdr with mig := true }) 11 12 13),
    (.me, 0b000010_110_000010_01_000111_1_1_0_0_1_1_1_00, [11, 12, 13, 14, 5, 6], .mmar ({ testCmdHdr with mig := true }) 11 12 13 14),
    (.me, 0b000011_011_000010_01_000111_1_1_0_0_1_0_1_00, [11, 5, 6], .mzero testCmdHdr 11),
    (.me, 0b000100_011_000010_01_000111_1_1_0_0_1_0_1_00, [11, 5, 6], .anchor testCmdHdr 11),
    (.me, 0b000101_100_000010_01_000111_1_1_0_0_1_0_1_00, [11, 12, 5, 6], .resolve testCmdHdr 11 12),
    (.me, 0b000110_100_000010_01_000111_1_1_0_0_1_0_1_00, [11, 12, 5, 6], .drain testCmdHdr 11 12),
    (.me, 0b000111_100_000010_01_000111_1_1_0_0_1_0_1_00, [11, 12, 5, 6], .topk testCmdHdr 11 12),
    (.me, 0b001000_100_000010_01_000111_1_1_0_0_1_0_1_00, [11, 12, 5, 6], .acccmp testCmdHdr 11 12),
    (.me, 0b001001_100_000010_01_000111_1_1_0_0_1_0_1_00, [11, 12, 5, 6], .accspill testCmdHdr 11 12),
    (.me, 0b001010_100_000010_01_000111_1_1_0_0_1_0_1_00, [11, 12, 5, 6], .accfill testCmdHdr 11 12),
    (.me, 0b001011_100_000010_01_000111_1_1_0_0_1_0_1_00, [11, 12, 5, 6], .accmov testCmdHdr 11 12),
    (.me, 0b001100_100_000010_01_000111_1_1_0_0_1_0_1_00, [11, 12, 5, 6], .accadd testCmdHdr 11 12),
    (.me, 0b001101_100_000010_01_000111_1_1_0_0_1_0_1_00, [11, 12, 5, 6], .epcfg testCmdHdr 11 12),
    (.me, 0b001110_011_000010_01_000111_1_1_0_0_1_0_1_00, [11, 5, 6], .msig testCmdHdr 11),
    (.channel, 0b000000_010_000010_01_000111_1_1_0_0_1_0_1_00, [5, 6], .cnop testCmdHdr),
    (.channel, 0b000001_011_000010_01_000111_1_1_0_0_1_0_1_00, [11, 5, 6], .copy testCmdHdr 11),
    (.channel, 0b000010_100_000010_01_000111_1_1_0_0_1_0_1_00, [11, 12, 5, 6], .gather testCmdHdr 11 12),
    (.channel, 0b000011_100_000010_01_000111_1_1_0_0_1_0_1_00, [11, 12, 5, 6], .scatter testCmdHdr 11 12),
    (.channel, 0b000100_100_000010_01_000111_1_1_0_0_1_0_1_00, [11, 12, 5, 6], .fill testCmdHdr 11 12),
    (.channel, 0b000101_011_000010_01_000111_1_1_0_0_1_0_1_00, [11, 5, 6], .accw testCmdHdr 11),
    (.channel, 0b000110_100_000010_01_000111_1_1_0_0_1_0_1_00, [11, 12, 5, 6], .fetchop testCmdHdr 11 12),
    (.channel, 0b000111_100_000010_01_000111_1_1_0_0_1_0_1_00, [11, 12, 5, 6], .cas testCmdHdr 11 12),
    (.channel, 0b001000_011_000010_01_000111_1_1_0_0_1_0_1_00, [11, 5, 6], .csig testCmdHdr 11),
    (.tender, 0b001001_011_000010_01_000111_1_1_0_0_1_0_1_00, [11, 5, 6], .pagein testCmdHdr 11),
    (.tender, 0b001010_011_000010_01_000111_1_1_0_0_1_0_1_00, [11, 5, 6], .pageout testCmdHdr 11)],
    (decodeCommand e.1 e.2.1 e.2.2.1).toOption = some e.2.2.2 := by decide

/-! ## States for the witnesses -/

/-- Regions of the node of the test states: 64 KiB of its own scratchpad, and page 0 of its rows. -/
def testRegions : List Region :=
  [{ base := aliasAddr 0x40000, extent := 0x10000, read := true, write := true, sync := .none, addr := 0 },
   { base := 0x8000000000000000#64, extent := 0x10000, read := true, write := false, sync := .none, addr := 0 }]

/-- A stream of eight 32-bit elements in the first of them. -/
def testStream : Ag := Vector.ofFn fun k : Fin 16 =>
  if k = 0 then aliasAddr 0x40000 else if k = 1 then 0x1400000000000000#64 else if k = 2 then 0x0000080000000001#64 else 0

/-- A queue of one entry that is available. -/
def testQueue : Queue := { entries := [{ val := 7, ready := true, born := 0, tag := some 0, fill := 0 }], lastPop := none }

/-- X10 the row area, X11 a row stride, X12 the region, X13 the name of local semaphore 5 and X14 of semaphore 5 of core 1, X15 a page of
row 0, X16 an operand of ROWMASK. -/
def testRegs (q : Seq) : Seq :=
  ((((((q.setX 10 (aliasAddr 0)).setX 11 128).setX 12 (aliasAddr 0x40000)).setX 13 0x8000000000000005#64).setX 14 0x205).setX 15
    0x8000000000000000#64).setX 16 0x0D00000000000000#64

/-- The row group of the test states: one LIVE row with a row budget and two tap sites, of one chunk and of two, with an entry in the
queues that the XS pops and a token in each FIFO. -/
def testGroup (g : Group) : Group :=
  { g with
    run := g.run.map fun r => { r with
      desc := { r.desc with regions := testRegions, rowBudget := 100, ntaps := 2, me := ⟨0, 4, 0x20000, 0⟩ }
      taps := [{ layer := 0, d := 32, probeFirst := false, post := false, sslot := 0 },
        { layer := 0, d := 64, probeFirst := false, post := false, sslot := 0 }] }
    queues := (((g.queues.set 0 testQueue).set 8 testQueue).set 13 testQueue).set 15 testQueue
    fifos := Vector.replicate 8 { toks := [.ready 0], lastPop := none }
    sites := Vector.replicate 8 { chunk := 0, tcur := 0, e := 0, ahead := 1 }
    ags := g.ags.set 0 testStream }

/-- That row group on core 0, its XS at work in cycle 5. -/
def testXs : State :=
  (((State.reset.place .xs [0x88000000]).modG testGroup).modCore fun k => { k with cycle := 5 }).modSeq testRegs

/-- The same with its AS at work. -/
def testAs : State :=
  (((({ State.reset.place .as [0x88000000] with side := .as } : State).modG testGroup).modG fun g => { g with
    queues := g.queues.set 9 testQueue }).modCore fun k => { k with cycle := 5 }).modSeq testRegs

/-- The XS in handler mode, with a store-fault record in its queue. -/
def testHandler : State :=
  testXs.modG fun g => { g with
    handler := some ⟨0x40⟩
    faultQ := [{ addr := 0, vec := false, blk := 0, cause := 6, pc := 0, grp := 0 }] }

/-- A modifier word that saturates and scales by 2. -/
def testModifier : Modifier :=
  { sat := true, clamp := 1, negA := true, absA := false, negB := false, absB := false, scale := 1, gn := false, gp := 0, rnd := .keep }

/-- The XS with ETYPE and DTYPE codes in SHP. -/
def testTypes (t u : Nat) : State := testXs.modG fun g => { g with shp := BitVec.ofNat 64 (0x82000000 + t * 2 ^ 16 + u * 2 ^ 7) }

/-! ## One step on small states -/

/-- The XS with X1, X2 and X3 set; what a word there or on the AS is to write, and its FSR flags. -/
def testXYZ (a b c : Word) : State := testXs.modSeq fun q => ((q.setX 1 a).setX 2 b).setX 3 c
def testNext (i : Instr) (s : State) : State :=
  match exec i s with
  | .next t => t
  | _ => State.reset
def testOut (i : Instr) (s : State) : List (Dest × Word × Flags) := (testNext i s).seq.pend.map fun p => (p.dest, p.val, p.flags)

/-- Hand calculation from R129: the sum wraps modulo 2^64. -/
theorem test_add_wraps : testOut (.add 3 1 2 0) (testXYZ 0xFFFFFFFFFFFFFFFF 2 0) = [(.x 3, 1, 0)] := by decide

/-- Hand calculation from R129: −2 × 3 = −6, whose high half is −1; unsigned it is 2. -/
theorem test_mulh : testOut (.mulh 3 1 2 0) (testXYZ 0xFFFFFFFFFFFFFFFE 3 0) = [(.x 3, 0xFFFFFFFFFFFFFFFF, 0)] ∧
    testOut (.mulhu 3 1 2 0) (testXYZ 0xFFFFFFFFFFFFFFFE 3 0) = [(.x 3, 2, 0)] := by decide

/-- R130: a division by zero gives all ones, the remainder XA, and DZ; −2^63 / −1 gives −2^63; −7 / 2 is −3, remainder −1. -/
theorem test_divide :
    testOut (.div 3 1 2 0) (testXYZ 7 0 0) = [(.x 3, 0xFFFFFFFFFFFFFFFF, 2)] ∧ testOut (.rem 3 1 2 0) (testXYZ 7 0 0) = [(.x 3, 7, 2)] ∧
    testOut (.div 3 1 2 0) (testXYZ 0x8000000000000000 0xFFFFFFFFFFFFFFFF 0) = [(.x 3, 0x8000000000000000, 0)] ∧
    testOut (.div 3 1 2 0) (testXYZ 0xFFFFFFFFFFFFFFF9 2 0) = [(.x 3, 0xFFFFFFFFFFFFFFFD, 0)] ∧
    testOut (.rem 3 1 2 0) (testXYZ 0xFFFFFFFFFFFFFFF9 2 0) = [(.x 3, 0xFFFFFFFFFFFFFFFF, 0)] := by decide

/-- R131 by hand: the byte at bit 8 of 0x1280, plain and sign-extended from bit 7 at position 0; the insertion of 0xF at bit 4. -/
theorem test_bit_fields :
    testOut (.bfx 3 1 2 0) (testXYZ 0x1280 0x808 0) = [(.x 3, 0x12, 0)] ∧ testOut (.bfxs 3 1 2 0) (testXYZ 0x1280 0x800 0) = [(.x 3, 0xFFFFFFFFFFFFFF80, 0)] ∧
    testOut (.bfi 3 1 2 0) (testXYZ 0xF 0x404 0x1100) = [(.x 3, 0x11F0, 0)] ∧
    testOut (.fshr 3 1 2 0) (testXYZ 0xAB 8 0x1122334455667788) = [(.x 3, 0xAB11223344556677, 0)] := by decide

/-- R144 by hand: −1 is less than 1 as a signed number, and not as an unsigned one. -/
theorem test_compare :
    testOut (.cmp .lt 3 1 2) (testXYZ 0xFFFFFFFFFFFFFFFF 1 0) = [(.p 3, 1, 0)] ∧ testOut (.cmp .ltu 3 1 2) (testXYZ 0xFFFFFFFFFFFFFFFF 1 0) = [(.p 3, 0, 0)] := by
  decide

/-- R133 by hand on binary32: 1.0 + 2.0 = 3.0 exactly; 1.0 + 2^−24 is a tie, rounded to the even 1.0 with NX; ∞ − ∞ is invalid. -/
theorem test_float_add :
    testOut (.fadd 3 1 2 0) (testXYZ 0x3F800000 0x40000000 0) = [(.x 3, 0x40400000, 0)] ∧
    testOut (.fadd 3 1 2 0) (testXYZ 0x3F800000 0x33800000 0) = [(.x 3, 0x3F800000, 0x10)] ∧
    (testOut (.fadd 3 1 2 0) (testXYZ 0x7F800000 0xFF800000 0)).map (fun e => e.2.2) = [1] := by decide

/-- R135 by hand: −1.5 to a signed integer under RNE is −2, with NX. -/
theorem test_convert : testOut (.fcvt 3 1 .f32 .i64 0) (testXYZ 0xBFC00000 0 0) = [(.x 3, 0xFFFFFFFFFFFFFFFE, 0x10)] := by decide

/-- R132 by hand: with NEGA, SCALE 1, SAT and CLAMP to [0, 2^63 − 1], −(−5) + 1 = 6, doubled 12. -/
theorem test_modifier :
    testOut (.add 3 1 2 0) ((testXYZ 0xFFFFFFFFFFFFFFFB 1 0).modSeq fun q => { q with mod := some { testModifier with absA := false } }) = [(.x 3, 12, 0)] := by decide

/-- The tile of the specification's example in "a row through VQUANT and back" (R200, R201). -/
def testTile : State :=
  testXs.modG fun g => { g with
    shp := BitVec.ofNat 64 (1 * 2 ^ 26 + 16 * 2 ^ 20 + 2 * 2 ^ 16 + 7 * 2 ^ 7)
    v := ((List.range 8).map fun j => (laneKey 6 0 j, (0x40400000#32 : Lane))) ++ ((List.range 7).map fun j => (laneKey 6 0 (8 + j), (0x42400000#32 : Lane)))
      ++ [(laneKey 6 0 15, 0xC1400000#32), (laneKey 7 0 0, 3#32)] }

/-- The lanes other than zero of a row of registers that a word is to write. -/
def testLanes (i : Instr) (s : State) : List (Nat × Lane) :=
  (testNext i s).seq.pend.flatMap fun p => match p.dest with
    | .v l => (l.map fun w => (w.key, w.val)).filter fun e => e.2 != 0
    | _ => []

/-- The example's word, and its results in V8 and V9. -/
theorem test_quantise :
    decodeTableWord 32 0xDE0806C7 = some (.vquant 8 (plainOp 6) { dir := .bcast, reg := 7 }) ∧
    testLanes (.vquant 8 (plainOp 6) { dir := .bcast, reg := 7 }) testTile =
      [(laneKey 8 0 0, 0x60606060), (laneKey 8 0 1, 0x60606060), (laneKey 8 0 2, 0x60606060), (laneKey 8 0 3, 0xE8606060),
       (laneKey 9 0 0, 0x00000101), (laneKey 9 0 2, 0x0001F8F4), (laneKey 9 0 5, 2)] := by decide

/-- R341, R343: a TRAP word of the XS enters the handler at TRAPVEC, with the cause SOFTWARE in TRAPCAUSE. -/
theorem test_trap :
    let s := testXs.modG fun g => { g with trapVec := 0x40 }
    let t := (testNext (.trap 5) s)
    t.g.handler.isSome = true ∧ t.seq.pc = 0x40 ∧ t.g.trapCause = 0x0D := by decide

/-- R82, R85: a cycle of the core issues the group of one word at the PC of the XS, which moves past it. -/
theorem test_step : (match step testXs with
    | .next t => (t.coreAt 0).g.xs.pc.toNat - (testXs.coreAt 0).g.xs.pc.toNat
    | _ => 0) = 4 := by decide
theorem wit_IntegerWordResults : testXs.seq.mod = none ∧ ∀ i ∈ [Instr.add 1 2 3 0, .sub 0 2 3 0, .mul 1 2 3 0, .mulh 1 2 3 0, .mulhu 1 2 3 0,
    .div 1 2 0 0, .divu 1 2 3 0, .rem 1 2 3 0, .remu 1 2 3 0, .and_ 1 2 3 0, .or_ 1 2 3 0, .xor_ 1 2 3 0, .andn 1 2 3 0, .shl 1 2 3 0,
    .shr 1 2 3 0, .sar 1 2 3 0, .rotl 1 2 3 0, .min 1 2 3 0, .max 1 2 3 0, .minu 1 2 3 0, .maxu 1 2 3 0, .sel 1 2 3 5, .fshl 1 2 3 0,
    .fshr 1 2 3 0, .bfx 1 2 3 0, .bfxs 1 2 3 0, .bfi 1 2 3 0, .clz 1 2 0, .ctz 1 2 0, .popc 1 2 0, .bswap 1 2 0, .mov 1 2 0, .addi 1 2 5,
    .andi 1 2 5, .ori 1 2 5, .xori 1 2 5, .shli 1 2 63, .shri 1 2 63, .sari 1 2 63, .muli 1 2 5, .mini 1 2 5, .maxi 1 2 5, .li 63 5,
    .lish 1 5], (integerResult testXs.seq i).isSome = true ∧ testXs.Acts i := by decide

theorem wit_IntegerWordResults_modified :
    let s := testXs.modSeq fun q => { q with mod := some testModifier }
    s.side = .xs ∧ s.seq.mod = some testModifier ∧
      ∀ i ∈ [Instr.add 1 2 3 0, .sub 1 2 3 0, .mul 1 2 3 0, .min 1 2 3 0, .max 0 2 3 0, .addi 1 2 5, .muli 1 2 5],
        (exactOp s.seq i).isSome = true ∧ modFits testModifier i = true ∧ s.Acts i := by decide

theorem wit_FloatWordResults : ∀ i ∈ [Instr.fadd 1 2 3 0, .fsub 1 2 3 0, .fmul 1 2 3 0, .fmin 1 2 3 0, .fmax 1 2 3 0, .ffma 1 2 3 0,
    .fcvt 1 2 .i64 .f32 0], (floatResult testXs.numCtl testXs.seq i).isSome = true ∧ testXs.Acts i := by decide

theorem wit_VectorElementResults : ∀ i ∈ [Instr.vadd 1 (plainOp 2) (plainOp 3), .vsub 1 ⟨.col, 2⟩ ⟨.diag, 3⟩,
    .vmul 63 ⟨.bcast, 2⟩ (plainOp 3), .vfma 1 (plainOp 2) (plainOp 3), .vfms 1 (plainOp 2) (plainOp 3), .vmin 1 (plainOp 2) (plainOp 3),
    .vmax 1 (plainOp 2) (plainOp 3), .vabsd 1 (plainOp 2) (plainOp 3)],
    (elementValue testXs.numCtl i).isSome = true ∧ testXs.Acts i := by decide

theorem wit_VectorElementResults_raw :
    (∀ i ∈ [Instr.vand 1 (plainOp 2) (plainOp 3), .vor 1 (plainOp 2) (plainOp 3), .vxor 1 (plainOp 2) (plainOp 3),
      .vandn 1 (plainOp 2) (plainOp 3), .vsel 1 (plainOp 2) (plainOp 3), .vunMov 1 (plainOp 2), .vunNot 1 (plainOp 2),
      .vbfx 1 (plainOp 2) (plainOp 3)], (rawLane testXs.g i).isSome = true ∧ testXs.Acts i) ∧
    (∀ i ∈ [Instr.vshl 1 (plainOp 2) (plainOp 3), .vshr 1 (plainOp 2) (plainOp 3), .vsar 1 (plainOp 2) (plainOp 3), .vshli 1 (plainOp 2) 31,
      .vshri 1 (plainOp 2) 0, .vsari 1 (plainOp 2) 7, .vfsh 1 (plainOp 2) (plainOp 3), .vunClz 1 (plainOp 2), .vunPopc 1 (plainOp 2)],
      (bitElement (shpEty testXs.g.shp).slot i).isSome = true ∧ testXs.Acts i) := by decide

theorem wit_VectorCompareAndSpecialResults :
    (∀ i ∈ [Instr.vcmpeq 1 (plainOp 2) (plainOp 3), .vcmpne 1 (plainOp 2) (plainOp 3), .vcmplt 1 (plainOp 2) (plainOp 3),
      .vcmple 1 (plainOp 2) (plainOp 3)], (relationOf i).isSome = true ∧ testXs.Acts i) ∧
    (∀ i ∈ [Instr.vunExp 1 (plainOp 2), .vunExp2 1 (plainOp 2), .vunLog2 1 (plainOp 2), .vunRcp 1 (plainOp 2), .vunRsq 1 (plainOp 2),
      .vunSqrt 1 (plainOp 2), .vunTanh 1 (plainOp 2), .vunSigm 1 (plainOp 2), .vunErf 1 (plainOp 2)],
      (specialOf i).isSome = true ∧ testXs.Acts i) := by decide

theorem wit_VectorConversionAndReductionResults :
    (∀ e ∈ [(2, 2, Instr.vunNeg 1 (plainOp 2)), (2, 0, .vunAbs 1 (plainOp 2)), (2, 11, .vunCvt 1 (plainOp 2)), (0, 11, .vunIota 1),
      (2, 5, .vunPack 1 (plainOp 2)), (5, 0, .vunUnpk 2 (plainOp 4)), (0, 0, .vsplat 1 9), (1, 0, .vlut 1 (plainOp 2) (plainOp 3)),
      (0, 0, .vred 1 (plainOp 2) .lanes .add), (0, 0, .vred 1 (plainOp 2) .rows .max), (0, 0, .vscan 1 (plainOp 2) .lanes .min),
      (0, 0, .vscan 1 (plainOp 2) .rows .add), (2, 7, .vquant 2 (plainOp 4) (plainOp 5)), (7, 2, .vdeq 1 (plainOp 4) ⟨.bcast, 5⟩)],
      let s := testTypes e.1 e.2.1
      (otherRows s.g s.numCtl s.seq e.2.2).isSome = true ∧ s.Acts e.2.2) := by decide

theorem wit_PredicateWordResults : ∀ i ∈ [Instr.cmp .eq 1 2 3, .cmp .tst 0 2 3, .cmp .feq 63 2 3, .cmpi .ltu 1 2 200, .cmpi .ge 1 2 5, .plog 1 2 3 6],
    (predicateResult testXs.numCtl testXs.seq i).isSome = true ∧ testXs.Acts i := by decide

theorem wit_TransfersGoToTheirTargets : ∀ i ∈ [Instr.br 0xFFFF, .brp false 0 5, .brp true 0 5, .brq false 5, .brq true 5, .jr 11, .ret 11,
    .call 1 5, .callr 1 11], testXs.Acts i := by decide

theorem wit_TransfersGoToTheirTargets_queue :
    (State.reset.g.queue 8).canPop State.reset.cyc = false ∧ testAs.side = .as ∧
    (let s := testXs.modSeq fun q => { q with passed := true, mod := some { testModifier with gn := true } }
     s.seq.passed = true ∧ s.guardTrue (.brq false 5) = false) := by decide

theorem wit_LoopWordsStartLoops : (∀ i ∈ [Instr.loop 0 11 1, .loop 1 0 1, .loopi 3 1023 1, .loopi 3 0 1, .loopr 2 11 true true 1, .loopr 2 0 false true 1],
    (loopFields testXs.seq i).isSome = true ∧ testXs.Acts i) ∧
    (testXs.ready (.loopi 3 0 1)).groupAt testXs.side 6 (testXs.seq.grpStart + BitVec.ofNat 32 (4 * 0)).toNat = some [0x88000000] := by decide

/-- Loop 2 has its END at the group in issue, with `n` passes left. -/
def testLoop (n : Nat) : State := testXs.modSeq fun q => { q with
  lc := q.lc.set 2 (BitVec.ofNat 32 n), loops := q.loops.set 2 { LoopRec.clear with active := true, rv := true, rp := true, total := 2, kernel := 2 } }

theorem wit_BackEdgeOfOneLoop :
    (∀ n ∈ [1, 2], (testLoop n).g.handler = none ∧ ((testLoop n).seq.loops[(2 : Fin 4)]).active = true ∧
      ((testLoop n).seq.loops[(2 : Fin 4)]).stop = (testLoop n).seq.grpStart ∧
      ∀ m : Fin 4, m ≠ 2 → ((testLoop n).seq.loops[m]).active = true → ((testLoop n).seq.loops[m]).stop ≠ (testLoop n).seq.grpStart) ∧
    1 < ((testLoop 2).seq.lc[(2 : Fin 4)]).toNat ∧ ((testLoop 2).seq.loops[(2 : Fin 4)]).rv = true ∧
    ((testLoop 2).seq.loops[(2 : Fin 4)]).rp = true ∧ 32 < (testLoop 2).g.desc.vregs ∧ (testLoop 2).g.desc.vregs ≤ 64 ∧
    (testLoop 2).g.vrb.val < (testLoop 2).g.desc.vregs - 32 ∧ ¬1 < ((testLoop 1).seq.lc[(2 : Fin 4)]).toNat := by decide

theorem wit_WaitingWordsOnlyWait : ∀ i ∈ [Instr.nop, .ctxsw, .sdrain, .wpwait .c0 0, .wpwait .c1 0, .semwait 0 63, .semwaitb 11 0, .acq 1 0 13],
    testXs.Acts i := by decide

/-- A store of eight bytes to the region, four issue cycles old or younger. -/
def testStore (due : Nat) : StoreEntry :=
  { no := 0, due := due, pc := 0, grp := 0, vec := false, blk := 0, win := none, rows := [(aliasAddr 0x40000, [1, 2, 3, 4, 5, 6, 7, 8])] }

theorem wit_LoadResults :
    (testXs.Acts (.ld 1 10 .d false 15) ∧ testXs.Acts (.ld 1 10 .b true 0) ∧ (testXs.ready (.ld 1 10 .d false 15)).poisonIn (aliasAddr 120) 8 = none) ∧
    (let s : State := { testXs with poison := [0] }
     s.Acts (.ld 1 10 .d false 0) ∧ ((s.ready (.ld 1 10 .d false 0)).poisonIn (aliasAddr 0) 8).isSome = true) ∧
    testAs.side = .as ∧
    (let s := testXs.modG fun g => { g with storeQ := [testStore 8, testStore 9] }
     s.side = .xs ∧ localOff s.focus (aliasAddr 0x40008) = some 0x40008 ∧
       ∀ e ∈ s.g.storeQ, e.due ≤ s.g.xs.ic + 8 → ∀ r ∈ e.rows, ∀ o, localOff s.focus r.1 = some o → 0x40008 < o ∨ o + r.2.length ≤ 0x40008) ∧
    (let s := testXs.modG fun g => { g with storeQ := [testStore 7, testStore 8, testStore 9] }
     s.side = .xs ∧ localOff s.focus (aliasAddr 0x40007) = some 0x40007 ∧ s.g.storeQ = [testStore 7] ++ testStore 8 :: [testStore 9] ∧
       (testStore 8).due ≤ s.g.xs.ic + 8 ∧ (∀ y ∈ [testStore 9], s.g.xs.ic + 8 < y.due) ∧ localOff s.focus (aliasAddr 0x40000) = some 0x40000 ∧
       ([1, 2, 3, 4, 5, 6, 7, 8] : List Byte)[(0x40007 : Nat) - 0x40000]? = some 8) := by
  refine ⟨by decide, by decide, by decide, ⟨by decide, by decide, ?_⟩, by decide⟩
  intro e he _ r hr o ho
  have h : r.1 = aliasAddr 0x40000 ∧ r.2.length = 8 := by
    have : e ∈ [testStore 8, testStore 9] := he
    simp [testStore] at this
    rcases this with rfl | rfl <;> (simp at hr; subst hr; exact ⟨rfl, rfl⟩)
  rw [h.1] at ho
  have : localOff testXs.focus (aliasAddr 0x40000) = some 0x40000 := by decide
  have h2 : some o = some 0x40000 := ho.symm.trans this
  injection h2 with h2
  right; omega

theorem wit_LoadResults_counted :
    (spaceOf 0x3FFFF8 = 0 ∧ layoutOk 0x3FFFF8 = true ∧ ∃ k, k < 8 ∧ ownerAt (State.reset.coreAt (globalCore 0x3FFFF8)) (0x3FFFF8 + k) ≠ .pd 0) ∧
    spaceOf (aliasAddr 8) ≠ 0 ∧ layoutOk 0x80000000 = false ∧
    ¬ ∃ k, k < 0 ∧ ownerAt (State.reset.coreAt (globalCore 0)) k ≠ .pd 0 := by
  refine ⟨⟨by decide, by decide, 0, by decide, by decide⟩, by decide, by decide, fun ⟨_, h, _⟩ => absurd h (by omega)⟩

theorem wit_StoresEnterTheQueue : testXs.Acts (.st 1 12 .d 0x3F) ∧ testXs.Acts (.st 1 12 .b 0) ∧ testXs.Acts (.vst (plainOp 1) 12 11) := by decide

theorem wit_QueueWordsMoveEntries :
    (∀ i ∈ [Instr.qpush 9 1, .qpush 12 1, .qpush 14 1, .qpop 0 1, .qpop 8 1, .qpop 15 1, .qpeek 0 1, .qcnt 7 1], testXs.Acts i) ∧
    (∀ i ∈ [Instr.qpush 0 1, .qpush 7 1, .qpushb 2 true, .qpop 9 1, .qcnt 14 1], testAs.Acts i) ∧
    testXs.Acts (.qpop 13 1) ∧ testXs.g.desc.rowBudget ≠ 0 ∧
    (testXs.g.queue 13).entries = ({ val := 7, ready := true, born := 0, tag := some 0, fill := 0 } : QEntry) :: [] := by decide

theorem wit_AccessSequencerReadsAreIssued : ∀ i ∈ [Instr.ldq 0 12 .d false 0, .ldq 7 12 .b true 5, .agld 0 0, .agld 0 7, .aggath 0 3 11,
    .agdef 31 12, .pgref 1 15], testAs.Acts i := by decide

/-- Stream 0 with dimension 0 windowed, modulo 8, and with a base in page 0 of row 0. -/
def testWindowed : State := testAs.modG fun g => { g with ags := g.ags.set 0 (testStream.set 1 0x1400100000000008#64) }
def testKv : State := testAs.modG fun g => { g with ags := g.ags.set 0 (testStream.set 0 0x8000000000000000#64) }

theorem wit_StreamRegistersAreEdited :
    (∀ f ∈ [0, 14, 15, 16, 25, 32, 41, 48], testAs.Acts (.agset 0 11 (BitVec.ofNat 7 f)) ∧ testAs.Acts (.agset 31 11 (BitVec.ofNat 7 f))) ∧
    (testWindowed.Acts (.agadv 0 11 0) ∧ agWen testWindowed.g.ags[(0 : Fin 32)] = true ∧ agWdim testWindowed.g.ags[(0 : Fin 32)] = 0 ∧
      0 < agWmod testWindowed.g.ags[(0 : Fin 32)]) ∧
    (testAs.Acts (.agadv 0 11 0) ∧ agWen testAs.g.ags[(0 : Fin 32)] = false ∧ spaceOf (agBase testAs.g.ags[(0 : Fin 32)]) ≠ 2) ∧
    (testKv.Acts (.agadv 0 11 0) ∧ agWen testKv.g.ags[(0 : Fin 32)] = false ∧ spaceOf (agBase testKv.g.ags[(0 : Fin 32)]) = 2 ∧
      let off := (kvOff (agBase testKv.g.ags[(0 : Fin 32)]) : Int)
        + (testKv.seq.getX 11).toInt * agStride testKv.g.ags[(0 : Fin 32)] 0 * (agBits testKv.g.ags[(0 : Fin 32)] : Int) / 8
      0 ≤ off ∧ off < 65536) := by decide
/-- An MZERO header written, so that the next word of the ring is its argument; and a COPY header, whose argument is an operand word. -/
def testOpen (r : Ring) (h : Nat) : State :=
  testAs.modG fun g => (g.modRing r fun q => { q with cursor := 1, openHdr := some (BitVec.ofNat 32 h) })

theorem wit_RingWordsAreWritten :
    testAs.Acts (.cmdw .me 0) ∧ testAs.Acts (.cmdpub .me) ∧ testAs.Acts (.cmdpub .ch1) ∧
    (testOpen .me 0x0C800000).Acts (.cmdw .me 11) ∧ cmdwSlot .me (testOpen .me 0x0C800000).g.me = .value ∧
    (testOpen .ch0 0x04800000).Acts (.cmdw .ch0 0) ∧ cmdwSlot .ch0 (testOpen .ch0 0x04800000).g.ch0 = .operand 1 0 .t ∧
    (freeRecord (testOpen .ch0 0x04800000).g.ch0) = some 0 := by decide

theorem wit_VectorMemoryResults :
    (testXs.Acts (.vld 1 12 11) ∧
      (testXs.ready (.vld 1 12 11)).poisonRows (rowAddrs testXs.g (testXs.seq.getX 12) (testXs.seq.getX 11)) (4 * shpLanes testXs.g.shp) = none) ∧
    (testXs.Acts (.vldx 1 12 (plainOp 1)) ∧ (testXs.ready (.vldx 1 12 (plainOp 1))).poisonRows
      (gatherAddrs (testXs.seq.getX 12) (cornerLanes testXs.g (plainOp 1))) 4 = none) ∧
    (let s : State := { testXs with poison := [sramKey 0 0x40000 / 8] }
     (s.Acts (.vld 1 12 11) ∧
       ((s.ready (.vld 1 12 11)).poisonRows (rowAddrs s.g (s.seq.getX 12) (s.seq.getX 11)) (4 * shpLanes s.g.shp)).isSome = true) ∧
     (s.Acts (.vldx 1 12 (plainOp 1)) ∧
       ((s.ready (.vldx 1 12 (plainOp 1))).poisonRows (gatherAddrs (s.seq.getX 12) (cornerLanes s.g (plainOp 1))) 4).isSome = true)) ∧
    (∀ i ∈ [Instr.vextr 1 (plainOp 63) 11, .vins 63 2 3, .vshape 0 31 0 11, .vshape 31 0 2 3, .vmaskrow 1 0, .vmaskrow 1 11],
      testXs.Acts i) := by decide

theorem wit_TapWordMovesItsSite : ∀ k ∈ [(0 : Fin 8), 1],
    let s := testXs
    let r := s.ready (.vtap (plainOp 1) k)
    let x := ((s.g.run.map Run.taps).getD [])[k.val]?.getD { layer := 0, d := 1, probeFirst := false, post := false, sslot := 0 }
    let el := tapElems s.g
    let chunk := (s.g.sites[k]).chunk
    s.Acts (.vtap (plainOp 1) k) ∧
    ((r.tapBlock k).all fun b =>
      (tapReads (s.g.tapBind b.2.2 k.val) (chunk * el) (min el (x.d - chunk * el))).all fun a => !r.poisoned a.1 a.2) = true ∧
    (if k = 0 then x.d ≤ (chunk + 1) * el else (chunk + 1) * el < x.d) := by decide

/-- A remote SEMRD of core 1 that has been answered. -/
def testAnswered : State := testXs.modSeq fun q => { q with remote := .answered 9 }

theorem wit_SemaphoreWordsActOnTheirSemaphore :
    (∀ i ∈ [Instr.semsigLocal 1 0, .semsetLocal 1 63, .semrdLocal 1 5, .semsigRemote 1 13, .semsigRemote 1 14, .semsetRemote 1 14,
      .rel 1 1 13, .rel 0x7F 1 14, .semrdRemote 1 13, .bind 0 13, .bind 1 14], testXs.Acts i) ∧ testAs.Acts (.semsigLocal 1 0) ∧
    testXs.syncName testXs.focus (testXs.seq.getX 13) = some ⟨0, 5, false⟩ ∧
    testXs.syncName testXs.focus (testXs.seq.getX 14) = some ⟨1, 5, false⟩ ∧
    testAnswered.Acts (.semrdRemote 1 14) ∧ testAnswered.syncName testAnswered.focus (testAnswered.seq.getX 14) = some ⟨1, 5, false⟩ ∧
    testAnswered.seq.remote = .answered 9 := by decide

/-- A store to a bound region that is still in the queue, so that a release behind the stores waits; and a release of the XS that waits. -/
def testBehind : State := testXs.modG fun g => { g with storeQ := [testStore 9], storeNo := 1, binds := [(0, some ⟨0, 5, false⟩)] }
def testWaiting : State := testXs.modG fun g => { g with
  releases := [{ obj := ⟨0, 5, false⟩, upd := .add 1, issuer := .xs, before := testXs.beforeNow 0 1, covers := [] }] }

theorem wit_ReleasesWaitForTheirAccesses :
    (∀ o ∈ [(⟨0, 5, false⟩ : SemName), ⟨1, 5, false⟩],
      (testXs.g.releases.any fun q => q.issuer = .xs && q.obj.core = o.core && q.obj.num = o.num) = false ∧
      testXs.releaseReady 0 { obj := o, upd := .add 1, issuer := .xs, before := testXs.beforeNow 0 1, covers := testXs.covers 0 o } = true) ∧
    testXs.replay.mode = .off ∧
    (testBehind.releaseReady 0 { obj := ⟨0, 5, false⟩, upd := .add 1, issuer := .xs, before := testBehind.beforeNow 0 1
                                 covers := testBehind.covers 0 ⟨0, 5, false⟩ } = false) ∧
    ((testWaiting.coreAt 0).g.releases.any fun q => q.issuer = .xs && q.obj.core = 0 && q.obj.num = 5) = true ∧
    ({ Sem.zero with at_ := 4 } : Sem).at_ ≠ 5 := by decide

theorem wit_TokenAndFenceWords :
    (∀ i ∈ [Instr.tokpop .left, .tokpop .right, .tokpush .left, .tokpush .right, .fence 1 1, .fence 0x1FF 0x40, .fence 1 8], testXs.Acts i) ∧
    fenceStops testXs.side 0x40 = true ∧ fenceStops testXs.side 8 = false ∧ testAs.Acts (.fence 1 8) ∧ fenceStops testAs.side 8 = true := by decide

/-- The XS with its row group holding every bank but the first three, and one with banks 0 to 2. -/
def testBanks (n : Nat) : State := testXs.modG fun g => { g with held := n, banks := (List.range n).map fun k =>
  (k, { status := .redundant 0, tile := TileState.zero, written := false, lent := false }) }

theorem wit_BanksAreAllocatedAndFreed :
    ((testBanks 3).Acts (.aballoc 1 508) ∧ (testBanks 3).g.held + 509 ≤ (testBanks 3).g.desc.banks ∧ freeRun (testBanks 3).g 509 = some 3) ∧
    (testXs.Acts (.aballoc 1 0) ∧ testXs.g.held + 1 ≤ testXs.g.desc.banks ∧ freeRun testXs.g 1 = some 0) ∧
    ((testBanks 3).Acts (.aballoc 1 509) ∧ (testBanks 3).g.desc.banks < (testBanks 3).g.held + 510) ∧
    (let s := (testBanks 3).modG fun g => { g with held := 0 }
     s.Acts (.aballoc 1 509) ∧ freeRun s.g 510 = none) ∧
    ((testBanks 3).Acts (.abfree 0 2) ∧ (testBanks 3).abfreeBad ((testBanks 3).seq.getX 0).toNat 3 = none) := by decide

theorem wit_RandomWordsStepTheStream :
    let s := testXs.modSeq fun q => (q.setX 20 1).setX 21 2
    (∀ i ∈ [Instr.rngdrawRaw 1 0, .rngdrawUnit 1 0, .rngskip 0 0, .rngskip 0 20, .rngskip 0 21], s.Acts i) ∧ s.seq.getX 0 = 0 ∧
    (s.seq.getX 20).toNat = 1 ∧ (s.seq.getX 21).toNat = 2 ∧ (∀ i ∈ [Instr.rngdrawRaw 1 0, .rngdrawUnit 1 0, .rngskip 0 20], (s.ready i).rngPoison 0 = none) ∧
    (let u : State := { s with poison := [sramKey 0 32 / 8] }
     ∀ i ∈ [Instr.rngdrawRaw 1 0, .rngdrawUnit 1 0, .rngskip 0 20], u.Acts i ∧ ((u.ready i).rngPoison 0).isSome = true) := by decide

theorem wit_SystemWordsAct :
    (∀ i ∈ [Instr.rdcr 1 0, .rdcr 1 5, .wrcr 0 4, .frqpop 2, .rowmask 16, .exit, .yield], testXs.Acts i) ∧
    (∀ i ∈ [Instr.rdcr 1 5, .exit], testAs.Acts i) ∧ testXs.g.held = 0 ∧ testAs.side = .as ∧ (testXs.ready .yield).anyLive testXs.focus = true ∧
    testXs.frameFree testXs.focus = false ∧ (testBanks 3).Acts .exit ∧ (testBanks 3).side = .xs ∧ (testBanks 3).g.held ≠ 0 ∧
    (let s : State := { testXs with savePool := Vector.replicate 4 (some 0) }
     s.Acts .yield ∧ (s.ready .yield).anyLive s.focus = true ∧ s.frameFree s.focus = true) := by decide

theorem wit_WordsRaiseHoldOrWait_guard : ∀ i ∈ [Instr.add 1 2 3 1, .sel 1 2 3 0, .br 5, .vadd 1 (plainOp 2) (plainOp 3), .vtap (plainOp 1) 0, .trap 1, .sdrain],
    let s := testXs.modSeq fun q => { q with mod := match i with
      | .add .. => none
      | _ => some { testModifier with sat := false, clamp := 0, negA := false, scale := 0, gn := true } }
    i.isWord = true ∧ i.isModifier = false ∧ s.guardTrue i = false ∧ s.wordTrap i = none ∧ s.pipeHold [i] = false := by decide

/-- The XS with both vector pipes and the divider busy until cycle 9. -/
def testBusy : State := (testXs.modG fun g => { g with vaFree := 9, vbFree := 9 }).modSeq fun q => { q with divDue := 9 }

theorem wit_WordsRaiseHoldOrWait :
    testXs.seq.passed = false ∧ (Instr.add 1 2 3 0).isModifier = false ∧ (Instr.add 1 2 3 0).isWord = true ∧
    (testXs.wordTrap (.vadd 1 (plainOp 2) ⟨.col, 3⟩) = none ∧ (testXs.wordTrap (.loop 0 1 0)).isSome = true ∧ (testXs.wordTrap (.ld 1 16 .b false 0)).isSome = true) ∧
    (testBusy.wordTrap (.vadd 1 (plainOp 2) (plainOp 3)) = none ∧ testBusy.pipeHold [.vadd 1 (plainOp 2) (plainOp 3)] = true) ∧
    (testBusy.wordTrap (.div 1 2 3 0) = none ∧ testBusy.guardTrue (.div 1 2 3 0) = true ∧ testBusy.wordHold (.div 1 2 3 0) = true) ∧
    (∀ n ∈ [0, 0xFFFFFF, 0x1000000], let s := testXs.modSeq fun q => { q with waited := n }
      s.wordTrap (.qpop 1 1) = none ∧ s.pipeHold [.qpop 1 1] = false ∧ s.guardTrue (.qpop 1 1) = true ∧ s.wordHold (.qpop 1 1) = false ∧
      s.waitOf (.qpop 1 1) = some (.queue, 1) ∧ if n = 0x1000000 then s.g.waitMax ≤ s.seq.waited else s.seq.waited < s.g.waitMax) := by decide

theorem wit_WordsOfTheOtherSequencerAreIllegal : testAs.side = .as ∧ testAs.seq.passed = false ∧ testXs.side = .xs ∧ testXs.seq.passed = false ∧
    (Instr.vadd 1 (plainOp 2) (plainOp 3)).cls = some .c4 ∧ (Instr.vunNot 1 (plainOp 2)).cls = some .c5 := by decide

theorem wit_LoadsAndStoresAreChecked :
    (∀ e ∈ [(aliasAddr 0x3FFFFC, 8), (aliasAddr 0x30000, 8), (aliasAddr 0x4FFFF, 8), (0x8000000000000000#64, 1)],
      rangeLocal testXs.focus e = false ∨ (checkRegion testXs.g testXs.focus e.1 e.2 .read = false ∧ inRowArea testXs.g testXs.focus e.1 e.2 = false)) ∧
    (∀ e ∈ [(aliasAddr 0, 8), (aliasAddr 0x1FFFF, 1), (aliasAddr 0x40001, 2), (aliasAddr 0x4FFF8, 8), (0x40000#64, 8)],
      rangeLocal testXs.focus e = true ∧ (checkRegion testXs.g testXs.focus e.1 e.2 .read = true ∨ inRowArea testXs.g testXs.focus e.1 e.2 = true)) ∧
    (spaceOf (testXs.seq.getX 15) = 2 ∧ inAnyRegion testXs.g testXs.focus (aliasAddr 0x30000) 8 = false ∧
      inRowArea testXs.g testXs.focus (aliasAddr 0x30000) 8 = false) ∧
    (spaceOf (aliasAddr 0x40001) ≠ 2 ∧ inAnyRegion testXs.g testXs.focus (aliasAddr 0x40001) 2 = true) ∧
    ((testXs.modSeq fun q => q.setX 1 6).seq.getX 1).toNat % 4 ≠ 0 := by decide

/-- A cause at the first group. -/
def testTrap (c : Cause) : Trap := { cause := c, pc := 0, word := 0, detail := 5, shape := false }

/-- The XS with a handler, and with an open window. -/
def testVector : State := testXs.modG fun g => { g with trapVec := 0x100 }
def testWindow : State := testXs.modG fun g => { g with win := some 0 }

theorem wit_TrapAndBreakpointWords :
    (testXs.side = .xs ∧ testXs.seq.passed = false ∧ testXs.guardTrue (.trap 42) = true ∧ testXs.guardTrue (.bkpt 3) = true) ∧
    (testAs.seq.passed = false ∧ testAs.guardTrue (.bkpt 3) = true) ∧
    (testVector.g.win = none ∧ testVector.bkptStops = false ∧ testVector.side = .xs ∧ testVector.seq.passed = false ∧
      (∀ i ∈ [Instr.trap 0xFFFF, .bkpt 0], testVector.guardTrue i = true) ∧ testVector.g.handler = none ∧ testVector.g.trapVec ≠ 0 ∧
      testVector.g.trapVec.toNat < 2 ^ 32 ∧ testVector.g.xs.exited = false) := by decide

theorem wit_ReturnFromTheHandler :
    (testHandler.side = .xs ∧ testHandler.Acts .rett ∧ testHandler.g.handler = some ⟨0x40⟩ ∧ testHandler.g.faultQ.length = 1) ∧
    (let s := testHandler.modG fun g => { g with faultQ := [] }
     s.side = .xs ∧ s.Acts .rett ∧ s.g.handler = some ⟨0x40⟩ ∧ s.g.faultQ = []) := by decide

theorem wit_TermgEndsTheRowGroup : ∀ s ∈ [testXs, testHandler], s.side = .xs ∧ s.Acts .termg ∧ s.g.run.isSome = true ∧ s.cur.ending = none ∧
    s.dumpPds.contains s.g.bank.pd.toNat = false ∧ (s.net.any fun f => f.survives && s.isSent s.focus f) = false := by decide

theorem wit_TrapsEnterTheHandler : testVector.side = .xs ∧ testVector.bkptStops = false ∧ testVector.g.win = none ∧ testVector.g.handler = none ∧
    testVector.g.trapVec ≠ 0 ∧ testVector.g.xs.exited = false ∧ testVector.g.trapVec.toNat < 2 ^ 32 ∧
    ∀ c ∈ [Cause.breakpoint, .software, .portOversub, .illegalOpcode], (testTrap c).shape = false ∧ ((testTrap c).cause = .breakpoint → testVector.bkptStops = false) := by
  decide

theorem wit_OtherTrapsTerminateOrAreAbsorbed :
    (testAs.side = .as ∧ testAs.bkptStops = false) ∧
    (testXs.side = .xs ∧ testXs.bkptStops = false ∧ testXs.g.win = none ∧ testXs.g.trapVec = 0 ∧ testHandler.g.handler.isSome = true) ∧
    (0xFF < 256) ∧
    (testWindow.side = .xs ∧ testWindow.g.win = some 0 ∧ (testTrap .numeric).shape = false ∧ (testTrap .numeric).cause = .numeric ∧
      ∀ c ∈ [Cause.illegalOperand, .regionUndeclared, .align, .software, .waitTimeout], (testTrap c).shape = false ∧ (testTrap c).cause = c) := by
  decide

/-- Two LIVE rows of one token. -/
def testTwoRows : State :=
  let s := testXs.modG fun g => { g with run := g.run.map fun r => { r with bank := { r.bank with rowCount := 2 } } }
  { s with mem := writeCells s.mem (leCells (sramKey 0 132) 4 0x00010001) }

theorem wit_RowTrapsRemoveOneRow :
    (testXs.rowLive 0 1 = false ∧ 0 ∈ ((testXs.modG fun g => { g with trappedRows := [0] }).coreAt 0).g.trappedRows) ∧
    (testTwoRows.rowLive 0 0 = true ∧ 0 ∉ (testTwoRows.coreAt 0).g.trappedRows ∧ (testTwoRows.rowLeaves 0 0 8).anyLive 0 = true) := by decide

/-- A write of the row group under way in the network, behind its combining step. -/
def testFlight : Flight :=
  { src := 0, path := .ch0, dst := none, inst := 0, pd := 0, global := false, no := 0, lo := 0, len := 4, addrs := [], kv := none, after := 0, opRec := none, stepNo := 0
    cargo := .bytes [(devKey 0, 1)] }

theorem wit_TerminationEndsTheRowGroup :
    ((testXs.coreAt 0).g.run.isSome = true ∧ (testXs.coreAt 0).ending = none ∧ testXs.dumpPds.contains (testXs.coreAt 0).g.bank.pd.toNat = false ∧
      testXs.tracing 0 = none ∧ (testXs.coreAt 1).guest = none ∧
      (testXs.net.any fun f => f.survives && testXs.isSent 0 f) = false) ∧
    (let s : State := { testXs with net := [{ testFlight with cargo := .combine (devKey 0) 4 0 0 false 1 [] }] }
     (s.net.any fun f => f.survives && s.isSent 0 f) = true) := by decide
/-- A pending result of the XS. -/
def testPend (due : Nat) (d : Dest) (f : Flags) : Pend := { due := due, ord := 0, ret := 0, pc := 0, dest := d, val := 7, flags := f, ten := 0x1F }

/-- The XS in issue cycle 3 with results due in cycles 3 and 4. -/
def testDue : State := testXs.modSeq fun q => { q with
  ic := 3
  pend := [testPend 3 (.x 1) 0x02, testPend 3 (.p 5) 0, testPend 4 (.x 2) 0, testPend 3 (.v [{ key := 1024, mask := 0xFFFFFFFF#32, val := 9 }]) 0] }

theorem wit_ResultsLandWhenDue :
    testDue.side = .xs ∧
    (∀ p ∈ testDue.seq.pend, p.due ≤ testDue.seq.ic → (∃ r, p.dest = .x r) ∨ (∃ r, p.dest = .p r) ∨ ∃ l, p.dest = .v l) ∧
    (∃ p ∈ testDue.seq.pend, p.due ≤ testDue.seq.ic ∧ p.flags.setWidth 5 &&& p.ten ≠ 0#5) ∧ testDue.g.handler = none ∧
    testDue.g.xs.exited = false ∧ testDue.g.run.isSome = true ∧
    (∃ rest, testDue.seq.pend.filter (fun p => p.due ≤ testDue.seq.ic)
      = rest ++ [testPend 3 (.v [{ key := 1024, mask := 0xFFFFFFFF#32, val := 9 }]) 0]) := by
  refine ⟨by decide, ?_, ⟨testPend 3 (.x 1) 0x02, by decide, by decide⟩, by decide, by decide, by decide,
    ⟨[testPend 3 (.x 1) 0x02, testPend 3 (.p 5) 0], by decide⟩⟩
  intro p hp _
  have h : p ∈ [testPend 3 (.x 1) 0x02, testPend 3 (.p 5) 0, testPend 4 (.x 2) 0,
    testPend 3 (.v [{ key := 1024, mask := 0xFFFFFFFF#32, val := 9 }]) 0] := hp
  simp only [List.mem_cons, List.not_mem_nil, or_false] at h
  rcases h with rfl | rfl | rfl | rfl
  · exact .inl ⟨1, rfl⟩
  · exact .inr (.inl ⟨5, rfl⟩)
  · exact .inl ⟨2, rfl⟩
  · exact .inr (.inr ⟨_, rfl⟩)

/-- A store of one byte at an address. -/
def testByte (a : Word) (due : Nat) : StoreEntry :=
  { no := 0, due := due, pc := 0, grp := 0, vec := false, blk := 0, win := none, rows := [(a, [5])] }

/-- The XS with that store in its queue, in issue cycle 0. -/
def testStored (a : Word) (due : Nat) : State := testXs.modG fun g => { g with storeQ := [testByte a due] }

/-- The handle table of PD 0, at 0x5000, with an uncorrectable error in its entry 0. -/
theorem wit_StoresAreCheckedWhenDue_poisoned :
    let u := (testStored 0x4000000000000000#64 0).modG fun g => { g with run := g.run.map fun r => { r with desc := { r.desc with
      regions := [{ base := 0x4000000000000000#64, extent := 0x10000, read := true, write := true, sync := .none, addr := 0 }] } } }
    let s : State := { u with htbase := Tab.set 0 [] 0 0x5000, poison := [devKey 0x5000 / 8] }
    s.g.storeQ = [testByte 0x4000000000000000#64 0] ∧ (testByte 0x4000000000000000#64 0).due ≤ s.g.xs.ic ∧
      (s.storePoison (testByte 0x4000000000000000#64 0)).isSome = true := by decide

theorem wit_StoresAreCheckedWhenDue :
    (∀ e ∈ (testStored (aliasAddr 0x40000) 1).g.storeQ, (testStored (aliasAddr 0x40000) 1).g.xs.ic < e.due) ∧
    ((testByte 0x4000000000000000#64 0).due ≤ (testStored 0x4000000000000000#64 0).g.xs.ic ∧ (testByte 0x4000000000000000#64 0).win = none ∧
      ((testStored 0x4000000000000000#64 0).storeFault (testByte 0x4000000000000000#64 0)).isSome = true ∧
      (testStored 0x4000000000000000#64 0).storePoison (testByte 0x4000000000000000#64 0) = none ∧
      (testStored 0x4000000000000000#64 0).g.faultQ.length < 8 ∧ (testStored 0x4000000000000000#64 0).g.handler = none ∧
      (testStored 0x4000000000000000#64 0).g.faultQ = []) ∧
    8 ≤ (testXs.modG fun g => { g with faultQ := List.replicate 8 { addr := 0, vec := false, blk := 0, cause := 6, pc := 0, grp := 0 } }).g.faultQ.length ∧
    ((testStored (aliasAddr 0x40007) 0).storeFault (testByte (aliasAddr 0x40007) 0) = none ∧ 0x40007 % 8 + 1 ≤ 8 ∧ 0x40007 + 1 ≤ 2 ^ 22 ∧
      ((testStored (aliasAddr 0x40007) 0).groupsOf 0 0x40007).any (fun g => portHolds g 0x40007) = false) := by decide

theorem wit_AStepRunsTheDecodedInstruction :
    (let a := testXs.onSeq testXs.focus .xs
     let b := a.modSeq fun q => { q with grpStart := q.pc }
     let ws := groupWords none [0x88000000]
     testXs.agenda = [] ∧ testXs.replay.mode = .off ∧ a.frozenXs = none ∧ rawModifier 0x88000000 = false ∧
       a.endWait.groupAt .xs 6 a.seq.pc.toNat = some [0x88000000] ∧ a.cur.runs = true ∧ a.heldWait = false ∧ (testXs.onCore testXs.focus).asStops = none ∧ a.anyLive testXs.focus = true ∧ a.cur.haltReq = none ∧ a.seq.exited = false ∧ a.seq.bubble = 0 ∧
       a.seq.pend = [] ∧ a.g.storeQ = [] ∧ a.groupAt .xs 6 a.seq.pc.toNat = some [0x88000000] ∧
       (decodeWord 0x88000000).toOption = some (.fadd 0 0 0 0) ∧ b.groupTrap ws = none ∧ b.groupHolds ws = false ∧
       b.retiredMatch = false) ∧
    (let a := testAs.onSeq testAs.focus .as
     let b := a.modSeq fun q => { q with grpStart := q.pc }
     let ws := groupWords none [0x88000000]
     a.cur.runs = true ∧ a.cur.haltReq = none ∧ a.seq.exited = false ∧ a.seq.bubble = 0 ∧ a.seq.pend = [] ∧
       a.groupAt .as 6 a.seq.pc.toNat = some [0x88000000] ∧ b.interlocked (.fadd 0 0 0 0) = false ∧ b.groupTrap ws = none ∧
       b.groupHolds ws = false ∧ b.groupWait ws = none) ∧
    isEvent (.bootComplete) = true ∧ (Instr.fadd 0 0 0 0).isModifier = false ∧ endsGroup (.fadd 0 0 0 0) = false ∧
    ({ testXs with agenda := [.event .bootComplete] } : State).replay.mode = .off := by decide

theorem wit_WordsDecodeFromTheirEncodings :
    (∀ i ∈ [Instr.add 63 62 61 15, .modifier testModifier, .rel 0x1FF 63 63], i.isWord = true ∧ i.wellFormed = true) ∧
    (decodeWord 0xF5428000).toOption = some (.rowmask 5) := by decide

theorem wit_CommandsDecodeFromTheirEncodings : ∀ i ∈ [Instr.mma { testCmdHdr with mig := true } 1 2 3, .copy testHdr 5, .pageout testCmdHdr 7],
    (commandParts i).isSome = true ∧ i.wellFormed = true := by decide

/-! ## Commands -/

/-- A command, its fields those of the head of its queue. -/
def testCmd (i : Instr) (phase : CmdPhase) (units : Nat) : Cmd :=
  { instr := i, hdrPc := 0, recs := [], squashed := false, phase := phase, progress := 0, units := units, first := 0, total := units, waited := 0
    waitFrom := 0, waitKind := 0, waitObj := 0, added := false, migrated := false, posts := [], row := none, skip := 0, cycles := 0, left := 0 }

/-- A stream of `n` rows of `c` elements of an EW code, at a local offset. -/
def testRows (ew c n off : Nat) : Ag := Vector.ofFn fun k : Fin 16 =>
  if k = 0 then aliasAddr off else if k = 1 then BitVec.ofNat 64 (2 * 2 ^ 60 + ew * 2 ^ 56)
  else if k = 2 then BitVec.ofNat 64 (c * 2 ^ 40 + 1) else if k = 3 then BitVec.ofNat 64 (n * 2 ^ 40 + c) else 0

/-- An operand record with both its streams. -/
def testRecord (a : Ag) (opt : Nat) : OpRecord := { tag := 0, src := some a, dst := some a, opt := BitVec.ofNat 8 opt, pieces := [⟨aliasAddr 0x40000, 0x10000, sramKey 0 0x40000⟩], slots := [] }

/-- The core with one command in a ring's queue, an operand record 0, and one as record 1. -/
def testEngine (r : Ring) (cmd : Cmd) (a b : Ag) (opt : Nat) : State :=
  let s := testXs.modG fun g => g.modRing r fun q => { q with
    queue := [cmd], records := (q.records.set 0 (some (testRecord a opt))).set 1 (some (testRecord b opt)) }
  { s with ring := r, mem := writeCells s.mem (leCells (sramKey 0 0x40010) 1 1) }

/-- One unit of the command is to be done. -/
def testWorks (s : State) (i : Instr) (units : Nat) : Bool :=
  s.atWork = some (0, testCmd i .running units) && s.cur.runs && s.unitGoes (testCmd i .running units) && decide (0 < units)
    && !s.postHolds (testCmd i .running units)

theorem works_of_test (s : State) (i : Instr) (units : Nat) (h : testWorks s i units = true) : s.Works i 0 (testCmd i .running units) := by
  simp only [testWorks, Bool.and_eq_true, decide_eq_true_eq, Bool.not_eq_true'] at h
  exact ⟨h.1.1.1.1, h.1.1.1.2, h.1.1.2, rfl, rfl, h.1.2, rfl, h.2, rfl⟩

/-- An engine's turn, and its start checks after the XS's group. -/
theorem wit_AStepRunsTheDecodedInstruction_engine :
    (let s : State := { testEngine .me (testCmd (.mnop testHdr) .queued 0) testStream testStream 0 with agenda := [.engine 0 .me false] }
     let u : State := { s with agenda := [], focus := 0, ring := .me, mig := false }
     s.replay.mode = .off ∧ (s.coreAt 0).guest = none ∧ u.atWork = some (0, testCmd (.mnop testHdr) .queued 0)) ∧
    (let s := testEngine .me (testCmd (.mnop testHdr) .starting 0) testStream testStream 0
     s.cur.runs = true ∧ ({ s with ring := .me } : State).atWork = some (0, testCmd (.mnop testHdr) .starting 0)) := by decide

/-- Streams of the tests: two rows of two 32-bit elements, of bytes, and of 64-bit elements. -/
def test32 : Ag := testRows 4 2 2 0x40000
def test8 : Ag := testRows 2 2 2 0x40000
def test64 : Ag := testRows 5 260 1 0x40000

theorem wit_CommandsStartWhenTheyMay :
    (∀ i ∈ [Instr.mnop testHdr, .mma testHdr 0 0 1, .mmar testHdr 0 0 1 0, .mzero testHdr 0, .anchor testHdr 0, .resolve testHdr 0 0, .drain testHdr 0 0,
      .topk testHdr 0 0, .acccmp testHdr 0 0, .accspill testHdr 0 0, .accfill testHdr 0 0, .accmov testHdr 0 0, .accadd testHdr 0 0,
      .epcfg testHdr 0 0, .msig testHdr 0x80000000#32],
      let s := (testEngine .me (testCmd i .queued 0) test32 test32 0)
      (commandParts i).isSome = true ∧ isEvent i = false ∧ s.atWork = some (0, testCmd i .queued 0) ∧ s.mayStart 0 (testCmd i .queued 0) = true) ∧
    (∀ i ∈ [Instr.cnop testHdr, .copy testHdr 0, .gather testHdr 0 1, .scatter testHdr 0 1, .fill testHdr 0 0, .accw testHdr 0, .fetchop testHdr 0 1,
      .cas testHdr 0 1, .csig testHdr 0x205],
      let s := testEngine .ch0 (testCmd i .queued 0) test32 test32 0
      (commandParts i).isSome = true ∧ isEvent i = false ∧ s.atWork = some (0, testCmd i .queued 0) ∧ s.mayStart 0 (testCmd i .queued 0) = true) ∧
    ((testEngine .me (testCmd (.mnop { testHdr with amode := .ge, await := 3, thr := 1 }) .queued 0) test32 test32 0).mayStart 0
      (testCmd (.mnop { testHdr with amode := .ge, await := 3, thr := 1 }) .queued 0) = false) ∧
    ((testEngine .ch0 { testCmd (.cnop testHdr) .queued 0 with squashed := true } test32 test32 0).mayStart 0
      { testCmd (.cnop testHdr) .queued 0 with squashed := true } = true) := by decide

theorem wit_CommandsStartWhenTheyMay_starting :
    (∀ i ∈ [Instr.mnop testHdr, .mzero testHdr 0, .mma testHdr 0 0 1, .epcfg testHdr 0 0],
      let s := testEngine .me (testCmd i .starting 0) test32 test32 0
      s.atWork = some (0, testCmd i .starting 0) ∧ s.cur.runs = true) ∧
    (let e : Cmd := { testCmd (.mma testHdr 0 0 1) .starting 0 with migrated := true }
     (testEngine .me e test32 test32 0).atWork = some (0, e) ∧ (mmaParts (.mma testHdr 0 0 1)).isSome = true) ∧
    mmaParts (.mnop testHdr) = none ∧
    ((testEngine .me (testCmd (.mzero testHdr 0) .starting 0) test32 test32 0).commandFault (.mzero testHdr 0)).isSome = true ∧
    (testEngine .me (testCmd (.mnop testHdr) .starting 0) test32 test32 0).commandFault (.mnop testHdr) = none := by decide

theorem wit_BankCommandsAct :
    (∀ i ∈ [Instr.mzero testHdr 0x01804000, .anchor testHdr 0x01BFE000, .accmov testHdr 0x01814000 1, .accadd testHdr 0x01814000 0,
      .accadd testHdr 0x01814000 0x80000000, .epcfg testHdr 0 0x3F, .epcfg testHdr 1 0, .epcfg testHdr 2 0, .epcfg testHdr 3 0, .epcfg testHdr 4 0,
      .epcfg testHdr 5 0, .epcfg testHdr 6 0, .epcfg testHdr 7 64, .msig testHdr 0x80000005],
      testWorks (testEngine .me (testCmd i .running 1) test32 test32 0) i 1 = true) ∧
    testWorks (testEngine .ch1 (testCmd (.csig testHdr 0x205) .running 1) test32 test32 0) (.csig testHdr 0x205) 1 = true ∧
    (semWordName 0 0x80000005).core = 0 ∧ (semWordName 0 0x205).core ≠ 0 := by decide

/-- MMA of A and B in f32 into the tile at bank 3, and MMAR of the same. -/
def testMma : Instr := .mma testHdr 0x01900800 0 1
def testMmar : Instr := .mmar testHdr 0x01900800 0 1 0

theorem wit_ProductsAddIntoTheTile : ∀ i ∈ [testMma, testMmar],
    let s := testEngine .me (testCmd i .running 1) test32 test32 0
    (s.productOf i).map Prod.fst = some 0x01900800#32 ∧ (s.mmaIn 0x01900800 [0x01900800, 0, 1]).isSome = true ∧
      ((s.mmaIn 0x01900800 [0x01900800, 0, 1]).map fun x => s.mmaPoison x 2 (x.stepK 1 0)) = some none ∧
      ((s.mmaIn 0x01900800 [0x01900800, 0, 1]).map fun x => 1 - x.chunks) = some 0 ∧ testWorks s i 1 = true ∧
      (s.rec? [0x01900800, 0, 1] 1).isSome = true ∧ (s.rec? [0x01900800, 0, 1] 2).isSome = true ∧ tdType (fld 0x01900800 14 9) = some (.flt .f32) ∧
      tdType (fld 0x01900800 5 9) = some (.flt .f32) ∧ agCount test32 1 ≤ 48 := by decide

/-- The first pass of one that derives its anchor. -/
theorem wit_ProductsAddIntoTheTile_firstPass :
    let s := testEngine .me (testCmd testMma .running 2) test32 test32 0
    testWorks s testMma 2 = true ∧ ((s.mmaIn 0x01900800 [0x01900800, 0, 1]).map fun x => 2 - x.chunks) = some 1 := by decide

/-- A queue that is full. -/
def testFull : Queue := { entries := List.replicate 64 { val := 7, ready := true, born := 0, tag := some 0, fill := 0 }, lastPop := none }

/-- A TOPK that has a record to post. -/
def testPosting : Cmd := { testCmd (.topk testHdr 0x02000000 0) .running 2 with
  progress := 1, posts := List.replicate 2 { val := 1, ready := true, born := 0, tag := none, fill := 0 } }

theorem wit_DrainingCommandsAct :
    (∀ i ∈ [Instr.resolve testHdr 0x01820000 0x02000000, .acccmp testHdr 0x01810000 0, .drain testHdr 0x01800100 0, .topk testHdr 0x03000000 0],
      let s := testEngine .me (testCmd i .running 1) test32 test32 0
      testWorks s i 1 = true ∧ (s.dest 0).isSome = true) := by decide

/-- A candidate between two of a heap. -/
theorem wit_DrainingCommandsAct_heap :
    let c : Lane × Lane := (0x40000000#32, 7)
    let above : List (Lane × Lane) := [(0x40400000#32, 1)]
    let below : List (Lane × Lane) := [(0x3F800000#32, 2)]
    (∀ x ∈ above, ranksAbove c x = false) ∧ ∀ x ∈ below.head?, ranksAbove c x = true := by
  refine ⟨fun x hx => ?_, fun x hx => ?_⟩
  · obtain rfl : x = (0x40400000#32, 1) := by simpa using hx
    decide
  · obtain rfl : x = (0x3F800000#32, 2) := by simpa [eq_comm] using hx
    decide

theorem wit_DrainingCommandsAct_rows : tdType (fld 0x01800100 2 9) = some (.flt .f32) ∧
    0 < (testEngine .me (testCmd (.mnop testHdr) .queued 0) test32 test32 0).drainRows 0x01800100#32 ∧
    0 < (testEngine .me (testCmd (.mnop testHdr) .queued 0) test32 test32 0).drainRows 0x01800101#32 := by decide

theorem wit_DrainingCommandsAct_topk :
    (let s := testEngine .me testPosting test32 test32 0
     s.atWork = some (0, testPosting) ∧ s.cur.runs = true ∧ s.unitGoes testPosting = true ∧ s.postHolds testPosting = false ∧
       (testPosting.posts[testPosting.progress]?).isSome = true) ∧
    (let s := (testEngine .me testPosting test32 test32 0).modG fun g => { g with queues := g.queues.set 13 testFull }
     s.atWork = some (0, testPosting) ∧ s.postHolds testPosting = true) := by decide

/-- A DRAIN that reads an array of its epilogue, poisoned and not. -/
theorem wit_DrainingCommandsAct_epilogue :
    let s := (testEngine .me (testCmd (.drain testHdr 0x01800101 0) .running 1) test32 test32 0).modG fun g => { g with
      epi := { g.epi with ctl := 0x0A, biasAddr := 0x40000 } }
    s.dest 0 = some (testRecord test32 0, test32) ∧ s.g.epi.ctl.getLsbD 3 = true ∧ s.readPoison (epilogueReads s.g.epi true 0 1) = none ∧
      (({ s with poison := [sramKey 0 0x40000 / 8] } : State).readPoison (epilogueReads s.g.epi true 0 1)).isSome = true := by decide

theorem wit_SpilledBanksFillAgain :
    (∀ i ∈ [Instr.accspill testHdr 0x01800000 0, .accfill testHdr 0x01800000 0],
      let s := testEngine .me (testCmd i .running 1) test64 test64 0
      testWorks s i 1 = true ∧ s.dest 0 = some (testRecord test64 0, test64) ∧ s.source 0 = some (testRecord test64 0, test64) ∧
        s.readPoison ((List.range 260).map fun j => elemRead (testRecord test64 0) test64 j) = none ∧
        (imageStatus ((s.fillWords (testRecord test64 0) test64 0).getD 2 0) ((s.fillWords (testRecord test64 0) test64 0).getD 3 0)).isSome = true) ∧
    ((testBanks 3).g.bankAt 2).status ≠ .free ∧ -512 ≤ ((testBanks 3).g.bankAt 2).tile.anchor ∧ ((testBanks 3).g.bankAt 2).tile.anchor ≤ 511 := by decide

theorem wit_ChannelCommandsDeliver :
    (∀ i ∈ [Instr.copy testHdr 0, .gather testHdr 0 1, .scatter testHdr 0 1, .fill testHdr 0 5, .accw testHdr 0, .fetchop testHdr 0 1, .cas testHdr 0 1],
      let s := testEngine .ch0 (testCmd i .running 1) test32 test32 0
      testWorks s i 1 = true ∧ s.streams [0] = some (testRecord test32 0, test32, test32) ∧ (s.rec? [0] 0).bind OpRecord.dst = some test32 ∧
        s.returnStream [0, 1] = some (testRecord test32 0, test32) ∧ s.readPoison [elemRead (testRecord test32 0) test32 0] = none ∧
        s.unitClear (testCmd i .running 1) (s.readKeys [elemRead (testRecord test32 0) test32 0]) [] = true) ∧
    (let s := testEngine .ch0 (testCmd (.copy testHdr 0) .running 1) test8 test8 0
     agBits test8 = 8 ∧ (s.spot (testRecord test8 0) (agBase test8) (agPlace test8 1).1).isSome = true ∧ agScm test8 = 0) := by decide

/-- A ring of 16 words with its first published, and that word in the scratchpad. -/
def testRing (w : Nat) : State :=
  let s := testXs.modG fun g => { g with me := { g.me with base := 0x20000, pub := 1 } }
  { s with mem := writeCells s.mem (leCells (sramKey 0 0x20000) 4 w) }

theorem wit_CommandsAreFetchedAndComplete :
    (let u : State := { testRing 0 with focus := 0, ring := .me }
     u.cur.runs = true ∧ u.rq.queue.length < ringDepth .me ∧ fld (readLE u.mem (ringKey 0 u.rq u.rq.pc) 4) 23 3 + 1 ≤ (u.rq.pub - u.rq.pc).toNat ∧
       u.poisoned (ringKey 0 u.rq u.rq.pc) 4 = false ∧
       (decodeCommand (ringStep .me) (readLE u.mem (ringKey 0 u.rq u.rq.pc) 4) (u.ringArgs 0)).toOption = some (.mnop testHdr) ∧
       u.rq.operandRecs .me 0 (cmdArgs (.mnop testHdr)) = ([], none) ∧ badWord (.mnop testHdr) = none ∧ u.squashes testHdr = false) ∧
    (let u : State := { testRing 0xFC000000 with focus := 0, ring := .me }
     u.cur.runs = true ∧ fld (readLE u.mem (ringKey 0 u.rq u.rq.pc) 4) 23 3 + 1 ≤ (u.rq.pub - u.rq.pc).toNat ∧
       (decodeCommand (ringStep .me) (readLE u.mem (ringKey 0 u.rq u.rq.pc) 4) (u.ringArgs 0)).toOption = none) ∧
    (let c := testCmd (.mnop { testCmdHdr with popL := false, lin := false, linw := 0 }) .running 0
     let u := testEngine .me c test32 test32 0
     u.rq.queue = [c] ∧ u.cur.runs = true ∧ u.workDone c = true ∧ u.pushRoom (cmdHdr c.instr) = true ∧ u.replay.mode = .off ∧ c.waited = 0) := by decide
/-! ## What lands -/

/-- The machine with one message in flight. -/
def testNet (f : Flight) : State := { testXs with net := [f] }

/-- A write of two bytes to the scratchpad of core 1, and one to memory that the package does not have. -/
def testBytes : Flight := { testFlight with dst := some 1, cargo := .bytes [(sramKey 1 0x40000, 1), (sramKey 1 0x40001, 2)] }
def testLost : Flight := { testFlight with cargo := .bytes [(devKey (2 ^ 63), 1)] }

theorem wit_MessagesActWhereTheyArrive :
    ((testNet testBytes).net[0]? = some testBytes ∧ ((testNet testBytes).net.take 0).any testBytes.sameWay = false ∧
      missingKey [(sramKey 1 0x40000, 1), (sramKey 1 0x40001, 2)] = none ∧
      (∀ e ∈ [(sramKey 1 0x40000, (1 : Byte)), (sramKey 1 0x40001, 2)], (testNet testBytes).portRefuses 1 false 0 (e.1 % 4194304) = false) ∧
      testBytes.kv = none ∧ ((testNet testBytes).coreAt 0).ending = none ∧ (testNet testBytes).ownFlight 0 testBytes = true ∧
      [(sramKey 1 0x40000, (1 : Byte)), (sramKey 1 0x40001, 2)].Pairwise (fun a b => a.1 ≠ b.1)) ∧
    (missingKey [(devKey (2 ^ 63), 1)] = some (devKey (2 ^ 63)) ∧ (testNet testLost).net[0]? = some testLost) ∧
    (keyExists (devKey 0) = true ∧ testXs.replay.mode = .off ∧ testXs.poisoned (devKey 0) 4 = false ∧ testFlight.dst = none ∧
      testFlight.after ≤ (testXs.coreAt testFlight.src).cycle) ∧
    (testXs.homeFate 0 0 0 false = .acted ∧ testXs.homeFate 1 0 0 false = .discarded) ∧
    ((testXs.coreAt 0).g.run.isSome = true ∧ (testXs.coreAt 0).g.bank.inst = 0) ∧
    (((testXs.modSeq fun q => { q with remote := .sent 3 }).coreAt 0).g.seq .xs).remote = .sent 3 := by decide

/-- A spanning request for a core where the sender's own row group is staged. -/
theorem wit_MessagesActWhereTheyArrive_held :
    let s : State := { testNet { testFlight with cargo := .semrd ⟨1, 5, true⟩ .xs 3 } with
      insts := [{ id := 0, pd := 0, graph := 1, node := 0, lastNode := true, desc := { NodeDesc.blank with vregs := 64, banks := 512 }, nstages := 1, width := 1
                  groups := [{ core := 1, stage := 0, slot := 0, rowFirst := 0, rowCount := 1, phase := .staged, gone := false, refused := false, how := none
                               term := 0, dump := 0, reports := [] }]
                  rows := [], flags := 0, cancelled := false, formed := 0, rank := [] }] }
    s.homeFate 1 0 0 true = .held ∧ (s.coreAt 1).heldSems.length < 512 := by decide

/-- Core 0 with an ACQ of a semaphore of its own core, which it waits for as if it were remote. -/
def testAcq : State :=
  let s := (State.reset.place .xs [0b1_110_01000_000000001_000000_001101_00]).modSeq fun q => { testRegs q with remote := .sent 3 }
  s.modCore fun k => { k with cycle := 5 }

theorem wit_MessagesActWhereTheyArrive_sample :
    let u := testAcq.onSeq 0 .xs
    u.cur.runs = true ∧ u.seq.remote = .sent 3 ∧ u.waitingAcq = some (0, 13) ∧ testAcq.syncName 0 (u.seq.getX 13) = some ⟨0, 5, false⟩ ∧
      testAcq.homeFate 0 u.g.bank.inst u.g.bank.pd false = .acted := by decide

/-- Row 0's context 0 with its page 0 mapped to page 5 of the package, which lies at a level; the core in cycle 200 with a PGREF of it. -/
def testPgref (level : Level) (sram : Bool) : State :=
  let a : Word := if sram then 0x8008000000000000#64 else 0x8000000000000000#64
  let s := testXs.modCore fun k => { k with cycle := 200, g := { k.g with asReads := [.pgref 0 40 0 3 a none] } }
  { s with
    lan := { s.lan with ctxs := [(0, { Ctx.reset with st := .running, kvroot := 0x1000 })] }
    dir := [(5, { DirEntry.free with level := level })]
    mem := writeCells s.mem (leCells (devKey 0x1000) 8 0x2001 ++ leCells (devKey 0x2000) 8 5) }

/-- A read of the AS into queue 0, issued in cycle 0. -/
def testRead : State := testAs.modG fun g => { g with asReads := [.queue 0 0 0 0 0 (aliasAddr 0x40000) 0 32 false []] }

/-- A decision that is due. -/
def testDecision : State := testXs.modSeq fun q => { q with pend := [testPend 0 (.decide 0 0 1) 0] }

/-- The command that core 1 does for core 0, and core 1 at its end. -/
def testMoved : Cmd := { testCmd testMma .running 1 with migrated := true }
def testGuest : State := (testEngine .me testMoved test32 test32 0).setCoreAt 1 { testXs.coreAt 1 with
  guest := some { home := 0, hdrPc := 0, lead := 3, nbanks := 1, acc := [(0, 5), (1, 6)], tile := TileState.zero, flags := 0, progress := 1, left := 0 } }

theorem wit_CoreEventsLand :
    ((testXs.coreAt 0).runs = true ∧ (testXs.onSeq 0 .as).cur.haltReq = none ∧ (testXs.onSeq 0 .xs).mayLand = true ∧
      (testXs.onSeq 0 .xs).writeResults.2 = none) ∧
    (testDecision.onSeq 0 .xs).mayLand = true ∧
    ((testDecision.onSeq 0 .xs).seq.pend.filter (fun x => x.due ≤ (testDecision.onSeq 0 .xs).seq.ic && x.isDecide) = [testPend 0 (.decide 0 0 1) 0]) ∧
    (((testRead.coreAt 0).g.asReads.find? fun r => r.no = 0) = some (.queue 0 0 0 0 0 (aliasAddr 0x40000) 0 32 false []) ∧ (testRead.coreAt 0).runs = true ∧
      (testRead.coreAt 0).haltReq = none ∧ (testRead.coreAt 0).g.asReads.any (testRead.readBehind 0 (.queue 0 0 0 0 0 (aliasAddr 0x40000) 0 32 false [])) = false ∧
      0 + testRead.readBound 0 (.queue 0 0 0 0 0 (aliasAddr 0x40000) 0 32 false []) ≤ (testRead.coreAt 0).cycle + 1 ∧ testRead.readMissing 0 (.queue 0 0 0 0 0 (aliasAddr 0x40000) 0 32 false []) = none ∧
      (testRead.onSeq 0 .as).poisonRead 0 (.queue 0 0 0 0 0 (aliasAddr 0x40000) 0 32 false []) = none) ∧
    (∀ e ∈ [(Level.sram, true), (.hbm, false), (.hbm, true), (.pool, false)],
      let s := testPgref e.1 e.2
      s.pgrefPoison 0 (if e.2 then 0x8008000000000000#64 else 0x8000000000000000#64) = none ∧ (s.coreAt 0).runs = true ∧
      let a : Word := if e.2 then 0x8008000000000000#64 else 0x8000000000000000#64
      ((s.coreAt 0).g.asReads.find? fun r => r.no = 0) = some (.pgref 0 40 0 3 a none) ∧ (s.coreAt 0).g.run.isSome = true ∧
        (s.coreAt 0).ending = none ∧ 40 + s.fixedCount 0 (if s.pgrefHome 0 a = dieOf 0 then 40 else 160) ≤ (s.coreAt 0).cycle ∧ s.replay.mode = .off ∧ s.rowLive 0 0 = true ∧
        (s.leaf (s.ctxAt (ctxIndex (s.rowCtx 0 0))).kvroot (fld a.toNat 16 18)).1 = 5 ∧ (s.page 5).level = e.1 ∧ bit a.toNat 51 = e.2 ∧
        slotUse (s.coreAt 0).g ((s.coreAt 0).g.lastSlot + 1) = 0 ∧ ((s.coreAt 0).g.slot ((s.coreAt 0).g.lastSlot + 1)).held = false ∧
        (s.coreAt 0).g.slotAwaited ((s.coreAt 0).g.lastSlot + 1) = false) ∧
    ({ testPgref .hbm false with mem := [] } : State).rowLive 0 0 = false ∧
    (({ testPgref .hbm false with poison := [devKey 0x1000 / 8] } : State).pgrefPoison 0 0x8000000000000000#64).isSome = true ∧
    ((testXs.setCoreAt 0 { testXs.coreAt 0 with haltReq := some .preempt }).coreAt 0).haltReq.isSome = true ∧
    (let s := testTwoRows
     (s.rowLeaves 0 0 4).anyLive 0 = true) ∧
    ((testWindow.coreAt 0).g.win = some 0 ∧ (testWindow.coreAt 0).g.budget = 0) ∧
    (let s := testXs.modSeq fun q => { q with waited := 0x1000000 }
     let u := s.onSeq 0 .xs
     (s.coreAt 0).haltReq = none ∧ 0 < u.seq.waited ∧ u.g.waitMax ≤ u.seq.waited ∧ u.groupAt u.side 6 u.seq.pc.toNat = some [0x88000000]) ∧
    (let r : Release := { obj := ⟨1, 5, false⟩, upd := .add 1, issuer := .xs, before := testXs.beforeNow 0 1, covers := [] }
     let s := testXs.modG fun g => { g with releases := [r] }
     (s.coreAt 0).g.releases = [r] ∧ s.releaseReady 0 r = true ∧ r.obj.core ≠ 0) ∧
    (1 < (testXs.coreAt 0).g.desc.ntaps) ∧
    ((testGuest.coreAt 1).guest.map Guest.home = some 0 ∧ (0 : CoreId) ≠ 1 ∧ (testGuest.coreAt 0).runs = true ∧
      (testGuest.coreAt 1).guest.bind testGuest.guestCmd = some testMoved ∧ (testGuest.coreAt 1).guest.map (fun w => w.atBoundary testMoved) = some true ∧
      testMoved.units ≤ 1 ∧
      ((testGuest.coreAt 1).guest.map Guest.acc).getD [] = [(0, 5), (1, 6)] ∧ [(0, (5 : AccElem)), (1, 6)].Pairwise (fun a b => a.1 ≠ b.1)) := by decide

/-! ## Frames -/

theorem wit_WordsLeaveTheRestAsItWas :
    (∀ i ∈ [Instr.add 1 2 3 0, .ld 1 10 .w true 0, .vadd 1 (plainOp 2) (plainOp 3), .wrcr 0 4, .nop, .ctxsw], onlyResults i = true ∧ testXs.Acts i) ∧
    testXs.poison = [] ∧ testXs.replay.mode = .off ∧ testXs.seq.waited = 0 ∧ testAs.seq.waited = 0 ∧ (testBanks 3).Acts (.abfree 0 2) ∧
    (∀ i ∈ [Instr.rdcr 1 0x0E, .qpush 14 1, .st 1 12 .d 0, .tokpop .left, .rel 1 1 14, .loopi 3 1 1, .brp false 0 5], testXs.Acts i) ∧
    (∀ i ∈ [Instr.qpushb 2 true, .ldq 0 12 .w true 0, .cmdw .ch0 0, .cmdpub .ch0], testAs.Acts i) := by decide

theorem wit_EveryStepKeepsMemoryCanonical : testXs.mem.wf = true ∧ ∃ t, step testXs = .next t := ⟨by decide, _, rfl⟩
/-! ## Wicks and the Lantern -/

/-- A launch bank, and a row group of an instance on core 0 in a phase. -/
def testBank : LaunchBank := { LaunchBank.empty with valid := true, rowCount := 1, width := 1, nstages := 1 }
def testIgroup (c : CoreId) (ph : GroupPhase) : InstGroup :=
  { core := c, stage := 0, slot := 0, rowFirst := 0, rowCount := 1, phase := ph, gone := false, refused := false, how := none, term := 0, dump := 0, reports := [] }

/-- A row of context 0, and an instance of that row on cores in their phases. -/
def testIrow : InstRow := { ctx := 0, entry := 0, rank := [], aged := false, tag := 0, cq := 0, words := List.replicate 16 3, left := false }
def testInst (gs : List InstGroup) (last : Bool) : Inst :=
  { id := 0, pd := 0, graph := 1, node := 0, lastNode := last, desc := { NodeDesc.blank with vregs := 64, banks := 512 }, nstages := 1, width := 1
    groups := gs, rows := [testIrow], flags := 0, cancelled := false, formed := 0, rank := [] }

/-- The machine with a message at the head of wick 0's channel, down and up, and an instance. -/
def testDown (m : DownMsg) : State := { testXs with down := testXs.down.set 0 ((testXs.down[(0 : Fin 32)]).send m) }
def testUp (m : UpMsg) (i : Inst) : State :=
  { testXs with up := testXs.up.set 0 ((testXs.up[(0 : Fin 32)]).send m), insts := [i], lan := { testXs.lan with ctxs := [(0, { Ctx.reset with st := .running })] } }

/-- A shadow bank of core 0 or 1 filled. -/
def testShadow (c : CoreId) (b : LaunchBank) (s : State) : State := s.setCoreAt c { s.coreAt c with shadow := b }

/-- The row group halted, with a save pool; and saved, on core 1, with the shadow bank that resumes it. -/
def testHalted : State :=
  { testXs.setCoreAt 0 { testXs.coreAt 0 with halted := some .preempt } with savePool := Vector.replicate 4 (some 0x10000000) }
def testSaved : State :=
  { testShadow 1 { testBank with resume := true } State.reset with
    saved := [{ core := 1, slot := 0, addr := 0, kind := .preempt, inst := 0, g := testXs.g, evicted := 0, stopPending := none }] }

theorem wit_WicksMoveRowGroups :
    (let s := testDown (.stage 0 testBank)
     (s.down[(0 : Fin 32)]).sent = [.stage 0 testBank] ∧ (s.coreAt 0).shadow.valid = false ∧ ((testShadow 0 testBank s).coreAt 0).shadow.valid = true) ∧
    (let s := testDown (.resume 0 testBank)
     (s.down[(0 : Fin 32)]).sent = [.resume 0 testBank] ∧ (s.coreAt 0).shadow.valid = false ∧
       (testSaved.saved.find? fun v => v.core = 1 && v.inst = testBank.inst).map Saved.addr = some 0) ∧
    (let s := testShadow 0 testBank (testDown (.withdraw 0 0))
     (s.down[(0 : Fin 32)]).sent = [.withdraw 0 0] ∧ (s.coreAt 0).shadow.valid = true ∧ (s.coreAt 0).shadow.inst = 0) ∧
    (let s := testDown (.preempt [0, 1] 0)
     (s.down[(0 : Fin 32)]).sent = [.preempt [0, 1] 0] ∧ (s.coreAt 0).g.run.isSome = true ∧ (s.coreAt 0).haltReq = none) ∧
    (let s := testXs.setCoreAt 0 { testXs.coreAt 0 with haltReq := some .preempt }
     (s.coreAt 0).haltReq = some .preempt ∧ (s.coreAt 0).g.run.isSome = true ∧ (s.coreAt 0).ending = none ∧ (s.coreAt 0).halted = none ∧
       (s.coreAt 0).g.asReads = [] ∧ s.tracing 0 = none ∧ s.meHalts 0 = true) ∧
    ((testHalted.coreAt 0).halted = some .preempt ∧ testHalted.freeSlot 0 = some 0 ∧ testHalted.savePool[dieOf 0] = some 0x10000000 ∧
      (testHalted.coreAt 0).ending = none ∧ testHalted.stepsOpen 0 = []) ∧
    (let s : State := { testShadow 0 testBank State.reset with insts := [testInst [testIgroup 0 .staged] true] }
     (s.coreAt 0).shadow = testBank ∧ testBank.valid = true ∧ testBank.resume = false ∧ (s.coreAt 0).g.run = none ∧ (s.coreAt 0).guest = none ∧
       s.saved = [] ∧ (s.coreAt 0).heldSems = [] ∧ (s.bankDesc testBank).parts.getLsbD 0 = true ∧ (s.bankDesc testBank).me.pre = 0 ∧
       (s.inst testBank.inst).isSome = true ∧ (testInst [testIgroup 0 .staged] true).rows[testBank.rowFirst + 0]? = some testIrow ∧
       testIrow.words[15]? = some 3 ∧ ∀ r ∈ (testInst [testIgroup 0 .staged] true).rows, r.words.length = 16) ∧
    ((testSaved.coreAt 1).shadow.valid = true ∧ (testSaved.coreAt 1).shadow.resume = true ∧ (testSaved.coreAt 1).g.run = none ∧
      (testSaved.coreAt 1).guest = none ∧ (testSaved.saved.filter fun x => x.core = 1).length = 1 ∧
      (testSaved.saved.all fun v => v.evicted = 0 && v.stopPending.isNone && (testSaved.savedPoison v).isNone) = true ∧ (testSaved.coreAt 1).heldSems = []) ∧
    (let s := testXs.modG fun g => { g with as_ := { g.as_ with exited := true }, xs := { g.xs with exited := true } }
     s.mayRetire 0 = true ∧ s.tracing 0 = none) := by decide

/-- A saved row group whose frame has an uncorrectable error in its state sections. -/
theorem wit_WicksMoveRowGroups_poisoned :
    let s : State := { testSaved with mem := writeCells [] (leCells (devKey 0x14) 4 0x1000), poison := [devKey 0x40 / 8] }
    (s.saved.all fun v => v.evicted = 0 && (s.savedPoison v).isSome) = true ∧ s.saved.length = 1 := by decide

/-- Changing one core leaves the others; so the test states hold the reset contents on every core but core 0. -/
theorem test_modCore_other (d : CoreId) (s : State) (f : Core → Core) (h : s.focus ≠ d) : (s.modCore f).coreAt d = s.coreAt d := by
  unfold State.modCore
  exact coreAt_setCoreAt_ne s s.focus d _ h

theorem test_place_other (d : CoreId) (hd : (0 : CoreId) ≠ d) : (State.reset.place .xs [0x88000000]).coreAt d = Core.reset := by
  have hv : (0 : CoreId).val ≠ d.val := fun e => hd (Fin.ext e)
  unfold State.place State.onCore State.setCoreAt State.coreAt
  simp only [Fin.getElem_fin]
  rw [Vector.getElem_set_ne _ _ hv]
  unfold State.reset
  simp

theorem test_xs_other (d : CoreId) (hd : (0 : CoreId) ≠ d) : testXs.coreAt d = Core.reset := by
  unfold testXs State.modSeq State.modG
  have hp : (State.reset.place .xs [0x88000000]).focus = 0 := rfl
  rw [test_modCore_other, test_modCore_other, test_modCore_other, test_place_other d hd]
  · rw [hp]; exact hd
  · rw [modCore_focus, hp]; exact hd
  · rw [modCore_focus, modCore_focus, hp]; exact hd

/-- No core works for another. -/
theorem wit_WicksMoveRowGroups_guests (d : CoreId) (w : Guest) (hw : (testHalted.coreAt d).guest = some w) : w.home ≠ 0 := by
  have h : (testHalted.coreAt d).guest = none := by
    by_cases hd : d = 0
    · subst hd; decide
    · have e : testHalted.coreAt d = testXs.coreAt d := by
        have hv : (0 : CoreId).val ≠ d.val := fun e => hd (Fin.ext e).symm
        unfold testHalted State.setCoreAt State.coreAt
        simp only [Fin.getElem_fin]
        exact Vector.getElem_set_ne _ _ hv
      rw [e, test_xs_other d (Ne.symm hd)]
      decide
  rw [h] at hw
  cases hw

/-- What ENDED reports of the row. -/
def testReport : RowReport :=
  { ctx := 0, live := true, accept := 4, lineage := 5, rlen := 1, pos := 6, rng := ⟨1, 2, 3, 4⟩, count := 7, cut := none, marks := [] }

/-- Two row groups: that on core 0 in a phase, and one on core 1 that has not ended. -/
def testPair (ph : GroupPhase) : Inst := testInst [testIgroup 0 ph, testIgroup 1 .staged] true

/-- A reply at the head of Tender 0's channel, context 0 in a state. -/
def testReply (m : TenderReply) (st : CtxState) (r : ParkReason) : State :=
  { State.reset with
    tenderReplies := State.reset.tenderReplies.set 0 { queue := [(4, m)], held := [] }
    lan := { Lantern.reset with ctxs := [(0, { Ctx.reset with st := st, reason := r, gen := 1 })] } }

theorem wit_LanternActsOnWickReports :
    ((testUp (.started 0 0) (testPair .staged)).up[(0 : Fin 32)]).sent = [.started 0 0] ∧ (testUp (.started 0 0) (testPair .staged)).NoneSaved ∧
    (testUp (.started 0 0) (testPair .staged)).NoRecords := by decide

theorem wit_LanternActsOnWickReports_wdone :
    ∀ b ∈ [true, false], let s := testUp (.wdone 0 0 b) (testPair .withdrawn)
    (s.up[(0 : Fin 32)]).sent = [.wdone 0 0 b] ∧ s.NoneSaved ∧ s.NoRecords ∧ s.inst 0 = some (testPair .withdrawn) ∧
      ((testPair .withdrawn).groups.find? fun g => g.core = 0) = some (testIgroup 0 .withdrawn) ∧
      ∃ o ∈ (testPair .withdrawn).groups, o.core ≠ 0 ∧ o.phase ≠ .ended := by decide

theorem wit_LanternActsOnWickReports_ended :
    ∀ how ∈ [EndKind.retired, .yielded, .terminated, .notPlaced],
    let s := testUp (.ended 0 0 how 0x0D00000000000000#64 0xFFFF 0 [testReport]) (testPair .running)
    (s.up[(0 : Fin 32)]).sent = [.ended 0 0 how 0x0D00000000000000#64 0xFFFF 0 [testReport]] ∧ s.NoneSaved ∧ s.NoRecords ∧ s.inst 0 = some (testPair .running) ∧
      (∃ o ∈ (testPair .running).groups, o.core ≠ 0 ∧ o.phase = .staged) ∧ (testPair .running).rowOf testReport.ctx = some 0 := by decide

theorem wit_LanternActsOnWickReports_endedLast :
    ∀ last ∈ [true, false], let i := testInst [testIgroup 0 .running] last
    i.groups = [testIgroup 0 .running] ∧ (testIgroup 0 .running).stage + 1 = i.nstages ∧ i.rows = [testIrow] ∧ testIrow.left = false ∧
      i.cancelled = false ∧ i.lastNode = last ∧ testReport.live = true ∧ testReport.cut = none ∧ testReport.marks = [] := by decide

theorem wit_LanternActsOnWickReports_rowEvent :
    ∀ what ∈ [RowHappening.drop 0 false, .trap 0x0C 1 2 3 4, .trap 0x0B 0 0 0 0, .trap 0x06 0 0 0 0],
    let s := testUp (.rowEvent 0 0 0 what) (testPair .running)
    (s.up[(0 : Fin 32)]).sent = [.rowEvent 0 0 0 what] ∧ s.replay.mode = .off ∧ s.inst 0 = some (testPair .running) ∧
      (testPair .running).rowOf 0 = some 0 ∧ (testPair .running).rows[0]? = some testIrow ∧ testIrow.ctx = 0 ∧ testIrow.left = false := by decide

theorem wit_LanternActsOnWickReports_saved :
    let s := testUp (.saved 0 0) (testPair .preempting)
    (s.up[(0 : Fin 32)]).sent = [.saved 0 0] ∧ s.NoneSaved ∧ (s.coreAt 0).g.run.isSome = true := by decide

theorem wit_LanternActsOnWickReports_savedLast :
    let i := testInst [testIgroup 0 .preempting] true
    let s : State := { State.reset with up := State.reset.up.set 0 ((State.reset.up[(0 : Fin 32)]).send (.saved 0 0)), insts := [i], mgmt := { Mgmt.reset with phase := .run } }
    s.NoneSaved ∧ s.insts = [i] ∧ i.groups = [testIgroup 0 .preempting] ∧ (s.coreAt 0).g.run = none ∧ (s.coreAt 0).shadow.valid = false ∧
     s.mgmt.phase = .run ∧ s.lan.ctxs = [] := by decide

/-- A reply behind an older one about the same context. -/
def testYounger (m : TenderReply) : State :=
  let s := testReply m .parked .page
  { s with tenderReplies := s.tenderReplies.set 1 { queue := [(3, .resident 131072)], held := [] } }

theorem wit_LanternActsOnPageReplies_younger : ∀ m ∈ [TenderReply.resident 131072, .swappedOut 131072, .swappedIn 131072],
    ((testYounger m).tenderReplies[(0 : Fin 4)]).queue = [(4, m)] ∧ oldestOf TenderReply.ctx (testYounger m).tenderReplies 4 m = false := by decide

theorem wit_LanternActsOnPageReplies :
    ∀ e ∈ [(TenderReply.resident 131072, CtxState.parked, ParkReason.page), (.swappedOut 131072, .parked, .host), (.swappedIn 131072, .swapped, .none)],
    let s := testReply e.1 e.2.1 e.2.2
    (s.tenderReplies[(0 : Fin 4)]).queue = [(4, e.1)] ∧ oldestOf TenderReply.ctx s.tenderReplies 4 e.1 = true ∧ s.names (BitVec.ofNat 32 131072) = true ∧ (s.ctxAt (131072 % 131072)).st = e.2.1 := by decide
/-! ## The host's queues and contexts -/

/-- A submission queue of 16 records at host address 0x1000 with one posted, its mirror at 0x8000 and its refusal log at 0x9000; and an
enabled completion queue of the same protection domain. -/
def testSq : SqDesc :=
  { SqDesc.reset with base := 0x1000, log2n := 4, rlBase := 0x9000, rlLog2n := 4, mirror := 0x8000, en := true, tail := 1, vec := 3, pd := 0 }
def testCq : CqDesc := { CqDesc.reset with base := 0x20000, log2n := 4, en := true, phase := true, cn := 2 }

/-- The package running, with those queues, and a record of TYPE `ty` for one context whose element is at device address 0x2000; the
context in a state. -/
def testHost (ty : Nat) (elem : Nat) (x : Ctx) : State :=
  { State.reset with
    mgmt := { Mgmt.reset with phase := .run }
    front := { Front.reset with sqs := [(0, testSq)], cqs := [(0, testCq)] }
    lan := { Lantern.reset with ctxs := [(5, x)], graphs := [{ pd := 0, addr := 0x4000000000000000#64, id := 9, nodes := [NodeDesc.blank], used := 0 }] }
    mem := writeCells (writeCells (writeCells [] (leCells (hostKey 0x1000) 8 (ty * 2 ^ 56 + 1 * 2 ^ 32 + 7)))
      (leCells (hostKey 0x1008) 16 ((if ty = 1 then 0x4000000000000000 else 0) + 0x2000 * 2 ^ 64))) (leCells (devKey 0x2000) 8 elem) }

/-- Context 5 in a state, named once. -/
def testCtx (st : CtxState) (r : ParkReason) : Ctx := { Ctx.reset with st := st, reason := r, gen := 1, graphId := 9 }

/-- Its handle with RLEN 1 and with RLEN 0. -/
def testElem (rlen : Nat) : Nat := rlen * 2 ^ 32 + 131072 + 5

theorem wit_QueuesAndRecordsAct :
    ∀ d ∈ [SqDesc.reset, { SqDesc.reset with rlLog2n := 4 }, testSq], let s : State := { State.reset with front := { Front.reset with sqs := [(0, d)] } }
    s.TakesInputs ∧ s.sqAt 0 = d ∧ (s.cqAt 0).due = [] ∧ (s.cqAt 0).held = [] := by decide

theorem wit_QueuesAndRecordsAct_descriptor :
    (testSq.en = true ∧ SqDesc.reset.en = false ∧ SqDesc.reset.rlLog2n.toNat < 4) ∧
    (let v : Word := 0x1040000000000003#64
     v.getLsbD 54 = true ∧ 4 ≤ (v.extractLsb' 56 5).toNat ∧ (v.extractLsb' 56 5).toNat ≤ 16) ∧
    (let v : Word := 0x0480010100000000#64
     v.getLsbD 55 = true ∧ ¬((v.extractLsb' 56 5).toNat < 4 ∨ 16 < (v.extractLsb' 56 5).toNat ∨ v.extractLsb' 40 8 = 0 ∨ v.extractLsb' 32 8 = 0 ∨
       64 < (v.extractLsb' 32 8).toNat)) := by decide

theorem wit_QueuesAndRecordsAct_contexts :
    ∀ x ∈ [Ctx.reset, testCtx .parked .host, testCtx .faulted .none, testCtx .running .none], (testHost 1 0 x).TakesInputs ∧ (testHost 1 0 x).ctxAt 5 = x := by
  decide

theorem wit_QueuesAndRecordsAct_refused :
    let s := testHost 3 0 Ctx.reset
    s.mgmt.phase = .run ∧ s.nextQueue = some 0 ∧ (s.headRec 0).type ≠ 2 ∧ s.checkRec 0 (s.headRec 0) = some 1 ∧
      hostKey (testSq.rlBase.toNat + 16 * testSq.rlTail.toNat) ≥ testSq.key (testSq.mirror.toNat + 8) + 8 := by decide

theorem wit_QueuesAndRecordsAct_launch :
    ∀ x ∈ [testCtx .free .none, testCtx .parked .host, testCtx .parked .budget, testCtx .faulted .none, testCtx .swapped .host],
    let s := testHost 1 (testElem 1) x
    let r := s.headRec 0
    s.mgmt.phase = .run ∧ s.nextQueue = some 0 ∧ r.type = 1 ∧ s.checkRec 0 r = none ∧ r.nctx = 1 ∧
      (s.lan.graphs.find? fun g => g.pd = testSq.pd && g.addr = r.graph).map GraphEntry.id = some 9 ∧
      s.checkLaunch testSq.pd 9 (s.listElem 0 testSq.pd r.list 0) = none ∧ s.ctxAt (ctxIndex (s.listElem 0 testSq.pd r.list 0).ctx) = x := by decide

theorem wit_QueuesAndRecordsAct_release :
    ∀ x ∈ [testCtx .parked .host, testCtx .running .none], let s := testHost 2 (testElem 0) x
    let r := s.headRec 0
    s.mgmt.phase = .run ∧ s.nextQueue = some 0 ∧ r.type = 2 ∧ s.checkRec 0 r = none ∧ r.nctx = 1 ∧
      s.names (s.listElem 0 testSq.pd r.list 0).ctx = true ∧ x.releasable = (x.st != .running) := by decide

theorem wit_QueuesAndRecordsAct_complete :
    let s := testHost 1 0 Ctx.reset
    (s.cqAt 0).due = [] ∧ (s.cqAt 0).held = [] ∧ (s.cqAt 0).canWrite = true ∧
      s.awaited { parked := false, words := Vector.replicate 4 1, after := (0, []) } = false ∧ s.mgmt.phase ≠ .fatal := by decide

/-! ## Formation -/

/-- The package running, with one row READY at node 0 of a graph, and the shadow bank of core 0 alone empty. -/
def testReady : State :=
  let x := { testCtx .ready .none with row := ⟨1, 0, 0, 7, 0⟩ }
  { testHost 1 0 x with
    cores := (Vector.replicate 512 { Core.reset with shadow := { LaunchBank.empty with valid := true } }).set 0 Core.reset
    lan := { Lantern.reset with
      ctxs := [(5, x)], graphs := [{ pd := 0, addr := 0x4000000000000000#64, id := 9, nodes := [{ NodeDesc.blank with dlpol := 1, vregs := 64 }], used := 0 }] } }

theorem wit_LanternFormsBatches :
    (State.reset.mgmt.phase ≠ .run ∧ State.reset.NoneSaved ∧ State.reset.NoRecords ∧ State.reset.agedRows = [] ∧
      State.reset.pickKey [] = none) ∧
    (testReady.mgmt.phase = .run ∧ testReady.replay.mode = .off ∧ testReady.NoneSaved ∧ testReady.NoRecords ∧ testReady.agedRows = []) := by decide

theorem test_ready_shadow (c : CoreId) : (testReady.coreAt c).shadow.valid = !(c == 0) := by
  by_cases h : c = 0
  · subst h; decide
  · have hv : (0 : Nat) ≠ c.val := fun e => h (Fin.ext e).symm
    have e : testReady.coreAt c = { Core.reset with shadow := { LaunchBank.empty with valid := true } } := by
      unfold testReady State.coreAt
      simp only [Fin.getElem_fin]
      rw [Vector.getElem_set_ne _ _ hv]
      simp
    rw [e]
    simp [h]

theorem test_eligible : testReady.eligible [] testReady.keptFor = [0] := by
  have h : testReady.eligible [] testReady.keptFor = (List.ofFn (n := 512) id).filter fun c => c == 0 := by
    unfold State.eligible
    apply List.filter_congr
    intro c _
    rw [test_ready_shadow]
    have hc : testReady.claimed c = false := rfl
    have hk : testReady.keptFor = [] := rfl
    have hs : testReady.params.staging = [] := rfl
    simp [hc, hk, hs]
  rw [h]
  decide

theorem wit_LanternFormsBatches_formed :
    let d := { NodeDesc.blank with dlpol := 1, vregs := 64 }
    testReady.pickKey (testReady.eligible [] testReady.keptFor) = some ⟨0, 9, 0⟩ ∧ testReady.keyNode ⟨0, 9, 0⟩ = some (d, true) ∧
      testReady.insts.length < 2 ^ 24 ∧ (testReady.rowsOf ⟨0, 9, 0⟩ d).take 1024 ≠ [] ∧
      testReady.spanOk (testReady.eligible [] testReady.keptFor) [0] (min d.cps ((testReady.rowsOf ⟨0, 9, 0⟩ d).take 1024).length) d.stages = true := by
  rw [test_eligible]
  decide

theorem wit_LanternFormsBatches_words :
    rowDeadline { NodeDesc.blank with dlpol := 1 } (testReady.ctxAt 5) < 2 ^ 64 ∧ (testReady.ctxAt 5).row.rlen < 2 ^ 16 ∧
      (testReady.ctxAt 5).row.pos < 2 ^ 32 ∧ testReady.NoneSaved := by decide

theorem wit_LanternFormsBatches_interrupt :
    let d : CqDesc := { testCq with fresh := 1, first := 0, ct := 1 }
    let s : State := { State.reset with now := 2000, front := { Front.reset with cqs := [(0, d)] } }
    s.cqAt 0 = d ∧ 0 < d.fresh ∧ d.first + d.ct.toNat * 1000 ≤ s.now := by decide

theorem wit_LanternFormsBatches_idle : State.reset.pickKey (State.reset.eligible [] State.reset.keptFor) = none := rfl
/-! ## The ports and the driver -/

/-- A device write under way to page 1, what a flip keeps of it, and pending flips of port 0. -/
def testWriteFlight : Flight :=
  { src := 0, path := .xst, dst := none, inst := 0, pd := 0, global := false, no := 0, lo := 0, len := 1, addrs := [], kv := none, after := 0, opRec := none, stepNo := 0
    cargo := .bytes [(devKey 65536, 1)] }
def testWait : FlipWait := { src := 0, inst := 0, path := .xst, no := 0, lo := 0, len := 1 }
def testFlip (start : Option Nat) (waits : List FlipWait) (done : Option Bool) : Flip :=
  { page := 1, toHost := true, start := start, waits := waits, done := done }
def testFlips (l : List Flip) (net : List Flight) (now : Nat) : State :=
  { State.reset with front := { Front.reset with flips := Front.reset.flips.set 0 l, hostBias := [7] }, net := net, now := now }

theorem wit_PortsAndDriverAct :
    State.reset.TakesInputs ∧ State.reset.front.moorBusy = false ∧
    (let s : State := { State.reset with front := { Front.reset with moorBusy := true } }
     s.TakesInputs ∧ s.front.moorBusy = true) ∧
    ({ State.reset with mgmt := { Mgmt.reset with phase := .bootfail } } : State).mgmt.phase = .bootfail ∧ ∀ off ∈ [1, 0x200000, 0x207FF8, 0x38, 0x40, 0x100, 0x108, 0x18, 0x28, 0x48, 0x50, 0x10, 0x20, 0x30, 0x110, 0x58, 0xF8, 0x118, 0x208000, 0x3FFFF8],
      off % 8 ≠ 0 ∨ (0x200000 ≤ off ∧ off < 0x208000) ∨ off ∈ [0x38, 0x40, 0x100, 0x108, 0x110, 0x18, 0x28, 0x48, 0x50, 0x10, 0x20, 0x30] ∨ (0x58 ≤ off ∧ off < 0x100) ∨
        (0x118 ≤ off ∧ off < 0x100000) ∨ (0x208000 ≤ off ∧ off < 0x400000) := by decide

theorem wit_PortsAndDriverAct_bias :
    (16 ≤ (testFlips (List.replicate 16 (testFlip none [] none)) [] 0).front.flips[(0 : Fin 4)].length) ∧
    (∀ page ∈ [1, 7], let s := testFlips [testFlip none [] (some true)] [testWriteFlight] 0
      s.TakesInputs ∧ s.front.flips[(0 : Fin 4)].length < 16 ∧ (∀ x ∈ s.front.flips[(0 : Fin 4)], x.done.isSome = true) ∧
        s.inHostBias page = (page == 7) ∧ testWriteFlight.writesPage 1 = true) := by decide

theorem wit_PortsAndDriverAct_flips :
    (let s := testFlips [testFlip none [] (some false), testFlip (some 0) [] none] [] 1000000
     s.front.flips[(0 : Fin 4)] = [testFlip none [] (some false)] ++ [testFlip (some 0) [] none] ∧ 0 + 1000000 ≤ s.now) ∧
    (let s := testFlips [testFlip (some 0) [testWait] none] [testWriteFlight] 999999
     s.front.flips[(0 : Fin 4)] = [] ++ [testFlip (some 0) [testWait] none] ∧ s.now < 0 + 1000000) ∧
    (testFlips [testFlip (some 0) [] none] [] 1000001).now > 0 + 1000000 ∧
    (testFlips [testFlip none [] (some true)] [] 0).front.flips[(0 : Fin 4)] = testFlip none [] (some true) :: [] ∧
    ∀ x, (testFlips [testFlip none [] none] [] 0).front.flips[(0 : Fin 4)].head? = some x → x.done = none := by
  refine ⟨by decide, by decide, by decide, by decide, fun x h => ?_⟩
  have e : (testFlips [testFlip none [] none] [] 0).front.flips[(0 : Fin 4)].head? = some (testFlip none [] none) := by decide
  rw [e] at h
  cases h
  rfl

theorem wit_PortsAndDriverAct_waits :
    (testFlips [testFlip (some 0) [testWait] none] [testWriteFlight] 999999).writeOpen 1 testWait = true ∧
    (testFlips [testFlip (some 0) [testWait] none] [] 1000000).writeOpen 1 testWait = false := by decide

/-- A row group whose tap-state table holds steering entry 1. -/
def testTapped : State :=
  { (testXs.modG fun g => { g with tapTable := [{ row := 0, site := 0, probes := [], steer := some (1, true, 0), coef := 0, probeSet := 0, coefs := 0 }] }) with
    front := { Front.reset with tapsync := some (true, 1) }, debugPds := [0] }

theorem wit_PortsAndDriverAct_tapsync :
    State.reset.front.hsync = none ∧ testTapped.front.tapsync = some (true, 1) ∧ snapshotHolds (testTapped.coreAt 0).g true 1 = true := by decide

theorem wit_PortsAndDriverAct_tapsync_free :
    let s : State := { State.reset with front := { Front.reset with tapsync := some (true, 1) } }
    (∀ c, snapshotHolds (s.coreAt c).g true 1 = false) ∧ ∀ v ∈ s.saved, snapshotHolds v.g true 1 = false := by
  have h : snapshotHolds (Core.reset).g true 1 = false := by decide
  refine ⟨fun c => ?_, fun v hv => by cases hv⟩
  have e : State.reset.coreAt c = Core.reset := by
    unfold State.reset State.coreAt
    simp
  exact (congrArg (fun k : Core => snapshotHolds k.g true 1) e).trans h

theorem wit_PortsAndDriverAct_debug :
    (testTapped.TakesInputs ∧ testTapped.debugAt 0 = true ∧ (testTapped.coreAt 0).runs = true ∧ (testTapped.coreAt 0).dbg.scope = false) ∧
    (let s := testTapped.modDebug 0 fun d => { d with cycen := true, matchVal := 4 }
     s.debugAt 0 = true ∧ (s.coreAt 0).runs = true ∧ (s.coreAt 0).dbg.cycen = true ∧
       BitVec.ofNat 64 (s.coreAt 0).cycle = (s.coreAt 0).dbg.matchVal + 1) ∧
    (let s := testTapped.modDebug 0 fun d => { d with reten := true, stopReq := true }
     s.debugAt 0 = true ∧ (s.coreAt 0).runs = true ∧ (s.coreAt 0).dbg.reten = true ∧ (s.coreAt 0).dbg.stopReq = true ∧ (s.coreAt 0).dbg.stopped = false ∧
       BitVec.ofNat 64 (s.coreAt 0).g.retired = (s.coreAt 0).dbg.matchVal) ∧
    (let s := testXs.modDebug 0 fun d => { d with stopReq := true }
     (s.coreAt 0).dbg.stopReq = true ∧ s.debugAt 0 = false) ∧
    (let s := testTapped.modDebug 0 fun d => { d with stopReq := true, stopped := true }
     (s.coreAt 0).dbg.stopReq = true ∧ (s.coreAt 0).dbg.stopped = true) := by decide

/-- A stop beside a halt, and accesses that are served and refused. -/
theorem wit_PortsAndDriverAct_refused :
    (let s : State := { testTapped.setCoreAt 0 { testTapped.coreAt 0 with haltReq := some .preempt } with debugPds := [0] }
     s.TakesInputs ∧ s.debugAt 0 = true ∧ (s.coreAt 0).runs = true ∧ (s.coreAt 0).dbg.scope = false ∧ (s.coreAt 0).haltReq = some .preempt ∧
       (s.coreAt 0).stopHalt = false) ∧
    ((testTapped.coreAt 0).haltReq = none ∧ (testTapped.coreAt 0).stopHalt = false) ∧
    (let s := (testTapped.modDebug 0 fun d => { d with stopReq := true }).modCore fun k => { k with stopHalt := true }
     (s.coreAt 0).dbg.stopReq = true ∧ (s.coreAt 0).stopHalt = true) ∧
    (∀ e ∈ [(4, 0), (9, 5), (5, 0)], fabricServed 8 (.combine e.1 e.2 false 1) = true) ∧
    (∀ q ∈ [FabricReq.combine 11 0 false 1, .combine 4 7 false 1, .cas 3 0 0], fabricServed 8 q = false) ∧
    fabricServed 9 (.cas 4 0 0) = false ∧ barBytes 1 ≤ 0x7FFFFFFFFFFFFFFF / 8 * 8 ∧ 0x1000000 % 8 = 0 := by decide

theorem wit_PortsAndDriverAct_memory :
    State.reset.replay.mode = .off ∧ (0#64).toNat + 1 ≤ Config.hbmBytes ∧ (0x10FFFFFFFFFF#64).toNat + 1 ≤ Config.hbmBytes + Config.poolBytes ∧
      Config.hbmBytes + Config.poolBytes < (0x110000000000#64).toNat + 1 ∧ State.reset.poisoned (devKey 0) 1 = false ∧
      ({ State.reset with poison := [devKey 0 / 8] } : State).poisoned (devKey 0) 1 = true ∧
      (0xFFFFFFFFFF#64).toNat + 1 ≤ Config.hbmBytes ∧ Config.hbmBytes < (0x10000000000#64).toNat + fabricSize (.read 1) ∧ (0#64).toNat + combineWidth 9 / 8 ≤ Config.hbmBytes := by decide

/-! ## Management -/

/-- The mailbox data of a request: 64-bit words from offset 0 on. -/
def testBox (ws : List Nat) : State :=
  { State.reset with
    mgmt := { Mgmt.reset with
      phase := .run, data := ((List.range (8 * ws.length)).map fun k => (k, BitVec.ofNat 8 (ws.getD (k / 8) 0 / 256 ^ (k % 8)))).filter fun e => e.2 != 0 } }

theorem wit_ManagementCommandsAct :
    (16 ≤ (16#16).toNat ∧ (3840#16).toNat ≤ 3840 ∧ ¬(16 ≤ (15#16).toNat) ∧ 3840 < (3841#16).toNat) ∧
    (let s := testBox [1567, 1]
     1 ≤ s.mbLE 8 8 ∧ s.mbLE 8 8 ≤ 480 ∧ s.mbLE 0 8 + s.mbLE 8 8 ≤ 1568) ∧
    (let s := testBox [1567, 2]
     1568 < s.mbLE 0 8 + s.mbLE 8 8) ∧
    (let s := testBox [67108864, 0]
     67108864 < s.mbLE 0 8 + ((9#16).toNat - 8) ∧ s.mbLE 0 8 + ((8#16).toNat - 8) ≤ 67108864) ∧
    State.reset.mgmt.busy = none ∧ ({ Mgmt.reset with busy := some 1 } : Mgmt).busy ≠ none ∧ State.reset.mgmt.errors.length ≤ 64 ∧ (testBox [8]).mgmt.newImage.Pairwise (fun a b => a.1 ≠ b.1) ∧
    (∀ d : Fin 4, State.reset.params.nmin ≤ 48 ∧ State.reset.mgmt.phase ≠ .fatal ∧ State.reset.nextRates[d] = none) ∧
    State.reset.mgmt.phase = .boot ∧ (testBox []).mgmt.phase ≠ .boot := by decide

/-- The export of the swapped context 5 to pool address 0x1000, and the import of an image there to context 6. -/
def testExport : State :=
  let s := testBox [131072 + 5, 0x1000]
  { s with lan := { Lantern.reset with ctxs := [(5, { Ctx.reset with st := .swapped, reason := .host, gen := 1 })] } }
def testImport : State :=
  let s := testBox [6, 3, 0x1000]
  { s with
    params := { Params.reset with tables := Vector.replicate 4 (0x10000, 4), pool := Vector.replicate 4 (0x100000, 4) }
    mem := writeCells [] (leCells (poolKey 0x1000) 8 (0x59464358 * 2 ^ 32 + 1 * 2 ^ 16 + 1)) }

theorem wit_ManagementCommandsAct_export :
    let s := testExport
    let h : BitVec 32 := BitVec.ofNat 32 (s.mbLE 0 8)
    let e := s.mbLE 8 8
    s.names h = true ∧ e % 4096 = 0 ∧ (s.ctxAt (ctxIndex h)).st = .swapped ∧ (s.ctxAt (ctxIndex h)).kvroot = 0 ∧ e + 5120 ≤ Config.poolBytes ∧
      s.params.npc < 2 ^ 16 ∧ State.reset.names 131072 = false ∧ State.reset.names 0 = true ∧ (State.reset.ctxAt 0).st ≠ .swapped := by decide

theorem wit_ManagementCommandsAct_import :
    let s := testImport
    let i := s.mbLE 0 8
    let e := s.mbLE 16 8
    let w : Nat → Nat := fun k => readLE s.mem (poolKey (e + 8 * k)) 8
    i < 131072 ∧ s.mbLE 8 8 < 4096 ∧ fld (w 0) 32 32 = 0x59464358 ∧ fld (w 0) 16 16 = 1 ∧ fld (w 0) 0 16 = s.params.npc ∧ (s.ctxAt i).st = .free ∧
      e + 5120 ≤ Config.poolBytes ∧ w 1 = 0 ∧ s.tender.tables = [] ∧ 2 ≤ (s.params.tables[(0 : Fin 4)]).2 ∧
      (s.saveRoom 0 0 fun _ => true).isSome = true := by decide

/-! ## The Tenders -/

/-- A page in a directory entry at a level, at an address. -/
def testPage (l : Level) (a : Word) : DirEntry := { DirEntry.free with level := l, refs := 1, owner := 131077, loc := a }

/-- Context 5 with a page table at 0x100000 whose leaf table is at 0x200000, whose page 1 is GPN 0x10 with VLEN 1,024; HBM frames from
0x1000000 and pool frames from 0 on each die, and messages to the Tender of a die. -/
def testTender (x : Ctx) (e : DirEntry) (d : Fin 4) (l : List (Nat × TenderMsg)) : State :=
  { testHost 1 0 { x with gen := 1, kvroot := 0x100000, shd := 3 } with
    tenderQ := State.reset.tenderQ.set d { queue := l, held := [] }
    dir := [(16, e)]
    params := { Params.reset with hbm := Vector.replicate 4 (0x1000000, 4), pool := Vector.replicate 4 (0, 4), staging := [137] }
    mem := writeCells (writeCells [] (leCells (devKey 0x100000) 8 0x200001)) (leCells (devKey 0x200008) 8 (1024 * 2 ^ 32 + 16)) }

theorem wit_TendersMoveAndSharePages :
    let s := testTender (testCtx .parked .page) (testPage .pool 0) 1 [(4, .need 131077 0 false)]
    let x := s.ctxAt (131077 % 131072)
    (s.tenderQ[(1 : Fin 4)]).queue = (4, .need 131077 0 false) :: [] ∧ oldestOf TenderMsg.ctx s.tenderQ 4 (.need 131077 0 false) = true ∧
      s.dropUnderWay (BitVec.ofNat 32 131077) = false ∧ s.frameQueue 1 s.tender.wants = false ∧ s.names (BitVec.ofNat 32 131077) = true ∧ x.st ≠ .free ∧ (s.leaf x.kvroot 0).1 = 0 ∧
      s.leafAddr x.kvroot 0 = some 0x200000 ∧ homeDie 1 = 1 ∧ (s.page 1).level = .free ∧ s.freeFrame 1 .hbm (0 % 2 ^ 32) = some 0x1000000 ∧
      devKey 0x200000 + 8 ≤ frameKey .hbm 0x1000000 ∧ devKey (x.kvroot.toNat + 8 * (0 / 512 % 512)) + 8 ≤ devKey 0x200000 := by decide

theorem wit_TendersMoveAndSharePages_mapped :
    ∀ e ∈ [(Level.hbm, false, Level.hbm), (.hbm, true, .sram), (.pool, false, .hbm)],
    let s := testTender (testCtx .parked .page) (testPage e.1 0x30000) 1 [(4, .need 131077 1 e.2.1)]
    (s.tenderQ[(1 : Fin 4)]).queue = [(4, .need 131077 1 e.2.1)] ∧ oldestOf TenderMsg.ctx s.tenderQ 4 (.need 131077 1 e.2.1) = true ∧
      s.dropUnderWay (BitVec.ofNat 32 131077) = false ∧ s.frameQueue (homeDie 16) s.tender.wants = false ∧ s.names (BitVec.ofNat 32 131077) = true ∧ (s.ctxAt (131077 % 131072)).st ≠ .free ∧
      (s.leaf (s.ctxAt (131077 % 131072)).kvroot 1).1 = 16 ∧ (s.page 16).level = e.1 ∧ (s.page 16).pins = 0 ∧
      (s.freeFrame (homeDie 16) e.2.2 0).isSome = true := by decide

/-- A move of page 16 from HBM to the pool. -/
def testMove (copied : Bool) : Move := { gpn := 16, source := .hbm, src := 0x1000000, dest := .pool, dst := 0x10000, copied := copied }

theorem wit_TendersMoveAndSharePages_moves :
    ∀ c ∈ [true, false],
    let s : State := { testTender (testCtx .parked .page) (testPage .moving 0x1000000) 1 [] with tender := { Tender.reset with moves := [testMove c] } }
    s.MemOk ∧ (s.tender.moves.find? fun m => m.gpn = (16#64).toNat && !m.copied && m.dest.above m.source == false) = (if c then none else some (testMove c)) ∧
      (s.tender.moves.find? fun m => m.gpn = (16#28).toNat && m.copied) = (if c then some (testMove c) else none) ∧
      (∀ w ∈ s.tender.wants, w.gpn ≠ (16#28).toNat) ∧ s.tender.swaps = [] := by decide

/-- The Lantern asks for context 5, whose save area lies in the pool. -/
def testSwapIn : State :=
  { testHost 1 0 (testCtx .swapped .host) with
    tenderQ := State.reset.tenderQ.set 1 { queue := [(4, .swapIn 131077)], held := [] }
    tender := { Tender.reset with saves := [{ ctx := 5, frame := 0x2000, stays := false }] } }

theorem wit_TendersMoveAndSharePages_messages :
    (testTender (testCtx .parked .page) DirEntry.free 1 [(4, .hint 131077 9)]).tenderQ[(1 : Fin 4)].queue = [(4, .hint 131077 9)] ∧
    (testTender (testCtx .parked .page) DirEntry.free 1 [(4, .released 131077)]).tenderQ[(1 : Fin 4)].queue = [(4, .released 131077)] ∧
    oldestOf TenderMsg.ctx (testTender (testCtx .parked .page) DirEntry.free 1 [(4, .released 131077)]).tenderQ 4 (.released 131077) = true ∧
    (let s := testSwapIn
     (s.tenderQ[(1 : Fin 4)]).queue = [(4, .swapIn 131077)] ∧ oldestOf TenderMsg.ctx s.tenderQ 4 (.swapIn 131077) = true ∧
       s.saveArea (131077 % 131072) = some { ctx := 5, frame := 0x2000, stays := false } ∧ s.saveStays (131077 % 131072) = false ∧
       s.needAt (ctxDie 131077) = false ∧ s.MemOk ∧ s.names (BitVec.ofNat 32 131077) = true ∧ s.swapOf (BitVec.ofNat 32 131077) = none ∧
       (s.ctxAt (131077 % 131072)).kvroot = 0) := by decide

/-- Context 5 in a state, without pages, at a time, to be woken at another. -/
def testSwap (st : CtxState) (now : Nat) (wake : Word) : State :=
  { testHost 1 0 { testCtx st .host with wake := wake } with now := now }

theorem wit_TendersMoveAndSharePages_swaps :
    (∀ e ∈ [(CtxState.parked, 10000000000, (0#64 : Word)), (.parked, 0, 10000000000#64), (.parked, 0, 0#64), (.swapped, 0, 5000000#64), (.swapped, 0, 5000001#64)],
      let s := testSwap e.1 e.2.1 e.2.2
      let x := s.ctxAt 5
      s.swapOf (handleOf 5 x) = none ∧ x.st = e.1 ∧ x.kvroot = 0 ∧ x.reason ≠ .page ∧ x.wake = e.2.2 ∧ s.now = e.2.1) ∧
    (∀ e ∈ [(10000000000, (0#64 : Word), true), (0, 10000000000#64, true), (0, 0#64, false), (1, 10000000000#64, false)],
      (if e.2.1 = 0 then 0 + Params.reset.hswap ≤ e.1 else e.1 + Params.reset.hswap ≤ e.2.1.toNat) ↔ e.2.2 = true) ∧
    (5000000#64).toNat ≤ 0 + Params.reset.hnear ∧ 0 + Params.reset.hnear < (5000001#64).toNat := by decide

/-- Context 5 parked with its page 1 in HBM, no wake time and pool frames, or none. -/
def testSwapPage (frames : Nat) : State :=
  let s := testTender (testCtx .parked .host) { testPage .hbm 0x1000000 with refs := 1 } 1 []
  { s with now := 10000000000, params := { s.params with pool := Vector.replicate 4 (0x10000, frames) } }

theorem wit_TendersMoveAndSharePages_saves :
    ((testSwapPage 0).saveRoom 131077 0 fun d => !(testSwapPage 0).needAt d) = none ∧
    ((testSwapPage 4).saveRoom 131077 0 fun d => !(testSwapPage 4).needAt d).isSome = true ∧ (testSwapPage 4).saveStays 5 = false ∧
    (testSwapPage 4).needAt (ctxDie 131077) = false ∧ ((testSwapPage 4).saveOut 5 0).isSome = true ∧
    ((testSwapPage 4).saveOut 5 0).map (fun u => u.mappedPages (testSwapPage 4).lan.ctxs[0].2.kvroot) = some [(1, 16, 1024)] ∧
    ((testSwapPage 4).saveOut 5 0).map (fun u => (u.freeFrame (homeDie 16) .pool 0).isSome) = some true ∧
    ((testSwapPage 4).page 16).level = .hbm ∧ ((testSwapPage 4).page 16).pins = 0 ∧ ((testSwapPage 4).page 16).refs = 1 ∧
    (testSwapPage 4).needFirst 16 = false := by decide

/-- The Mooring command for chunk 0 of context 5, and a leaf whose key is 16 token ids of zero. -/
def testMoor (op : Nat) (shd : BitVec 12) (n : Nat) (leaf : List MoorLeaf) (page : Nat) (st : CtxState) : State :=
  let s := testTender (testCtx st .host) { testPage .hbm 0x1000000 with refs := 1 } 1 []
  { s with
    lan := { s.lan with ctxs := [(5, { s.ctxAt 5 with shd := shd })] }
    front := { s.front with moorCmd := BitVec.ofNat 64 (op * 2 ^ 56 + 131077), moorRange := BitVec.ofNat 64 n }
    tender := { Tender.reset with leaves := leaf }
    mem := writeCells (writeCells [] (leCells (devKey 0x100000) 8 0x200001)) (leCells (devKey 0x200000) 8 page) }
def testLeaf : MoorLeaf := { id := 1, pd := 0, shd := 3, parent := 0, key := List.replicate 16 0, gpns := [16], lastUse := 0 }

theorem wit_TendersMoveAndSharePages_mooring :
    ∀ op ∈ [1, 2], ∀ e ∈ [((3#12 : BitVec 12), 1, CtxState.parked), (0, 1, .parked), (3, 0, .parked), (3, 4097, .parked), (3, 1, .running)],
    let s := testMoor op e.1 e.2.1 [] 0 e.2.2
    let h : BitVec 32 := s.front.moorCmd.extractLsb' 0 32
    let x := s.ctxAt (ctxIndex h)
    s.TakesInputs ∧ s.front.moorCmd.extractLsb' 56 8 = BitVec.ofNat 8 op ∧ s.names h = true ∧ x.st = e.2.2 ∧ x.reason = .host ∧ x.kvroot ≠ 0 ∧ x.shd = e.1 ∧
      (s.front.moorRange.extractLsb' 32 32).toNat = x.mchunks.toNat ∧ (s.front.moorRange.extractLsb' 0 32).toNat = e.2.1 ∧ s.params.npc = 1 ∧
      s.childOf x.pd x.shd x.mleaf.toNat (s.moorKey 0) = none ∧ (s.leaf x.kvroot x.mchunks.toNat).1 = 0 := by decide

theorem wit_TendersMoveAndSharePages_attach :
    let s := testMoor 1 3 1 [testLeaf] 0 .parked
    let x := s.ctxAt 5
    s.childOf x.pd x.shd x.mleaf.toNat (s.moorKey 0) = some testLeaf ∧ testLeaf.gpns = [16] ∧ (s.leaf x.kvroot x.mchunks.toNat).1 = 0 ∧
      s.leafAddr x.kvroot x.mchunks.toNat = some 0x200000 ∧ x.kvroot.toNat + 8 * (x.mchunks.toNat / 512 % 512) + 8 ≤ 0x200000 := by decide

theorem wit_TendersMoveAndSharePages_publish :
    let s := testMoor 2 3 1 [] (1024 * 2 ^ 32 + 16) .parked
    let x := s.ctxAt 5
    s.leaf x.kvroot x.mchunks.toNat = (16, 1024) ∧ s.childOf x.pd x.shd x.mleaf.toNat (s.moorKey 0) = none ∧ s.tender.leaves.length < 1048576 := by decide
end

section

namespace Sys2Proof.Machine

/-! ## Row fields and row traps (R13, R22, R318, R348) -/

@[simp] theorem rowLeaves_coreAt (s : State) (c d : CoreId) (row v : Nat) : (s.rowLeaves c row v).coreAt d = s.coreAt d := rfl

@[simp] theorem rowLeaves_up (s : State) (c : CoreId) (row v : Nat) : (s.rowLeaves c row v).up = s.up := rfl

/-- RFLAGS of a row that leaves with TRAPPED: LIVE is 0 and TRAPPED is 1. -/
theorem rowLeaves_flags (s : State) (c : CoreId) (row : Nat) :
    (s.rowLeaves c row 8).rowField c row 6 2 % 2 = 0 ∧ (s.rowLeaves c row 8).rowField c row 6 2 / 8 % 2 = 1 := by
  have e : (s.rowLeaves c row 8).rowField c row 6 2
      = (s.rowField c row 6 2 / 2 * 2 + (if s.rowField c row 6 2 / 8 % 2 = 1 then 0 else 8)) % 256 ^ 2 := readLE_writeCells_le ..
  rw [e]
  split <;> omega

/-- A row that leaves changes its RFLAGS and no other byte. -/
theorem rowLeaves_readByte (s : State) (c : CoreId) (row v key : Nat) (h : key < s.rowKey c row 6 ∨ s.rowKey c row 6 + 2 ≤ key) :
    readByte (s.rowLeaves c row v).mem key = readByte s.mem key :=
  readByte_writeCells_le _ _ _ _ _ h

/-- The row group with a row that has trapped: Q15 has its notice, and the row does not trap again (R318, R348). -/
def Group.trapRow (g : Group) (row : Nat) (notice : QEntry) : Group :=
  { g.modQueue 15 (fun q => q.push notice) with trappedRows := row :: g.trappedRows }

@[simp] theorem trapRow_entries (g : Group) (row : Nat) (e : QEntry) :
    ((g.trapRow row e).queue 15).entries = (g.queue 15).entries ++ [e] := by
  simp [Group.trapRow, Group.modQueue, Group.queue, Queue.push]

/-- What a row trap does before the row group is asked for a LIVE row. -/
def State.rowTrapped (s : State) (c : CoreId) (row cause probe site tok : Nat) (score : Lane) : State :=
  ((s.rowLeaves c row 8).modGAt c fun g =>
      g.trapRow row (QEntry.now (noticeWord cause probe site row tok) (s.coreAt c).cycle)).toLantern c
    (.rowEvent c (s.coreAt c).g.bank.inst (s.rowCtx c row)
      (.trap (BitVec.ofNat 8 cause) (BitVec.ofNat 8 probe) (BitVec.ofNat 3 site) (s.rowPos c row + tok) score))

@[simp] theorem rowTrapped_mem (s : State) (c : CoreId) (row cause probe site tok : Nat) (score : Lane) :
    (s.rowTrapped c row cause probe site tok score).mem = (s.rowLeaves c row 8).mem := rfl

theorem rowTrapped_coreAt (s : State) (c : CoreId) (row cause probe site tok : Nat) (score : Lane) :
    (s.rowTrapped c row cause probe site tok score).coreAt c = { s.coreAt c with
      g := (s.coreAt c).g.trapRow row (QEntry.now (noticeWord cause probe site row tok) (s.coreAt c).cycle) } :=
  coreAt_setCoreAt_self ..

/-- The row records of a core are read at places that a row trap leaves where they are. -/
theorem rowTrapped_rowField (s : State) (c : CoreId) (row cause probe site tok : Nat) (score : Lane) (r off n : Nat) :
    (s.rowTrapped c row cause probe site tok score).rowField c r off n = (s.rowLeaves c row 8).rowField c r off n := by
  simp only [State.rowField, State.rowKey, rowTrapped_mem, rowTrapped_coreAt]
  rfl

theorem rowTrapped_anyLive (s : State) (c : CoreId) (row cause probe site tok : Nat) (score : Lane) :
    (s.rowTrapped c row cause probe site tok score).anyLive c = (s.rowLeaves c row 8).anyLive c := by
  have hl : (s.rowTrapped c row cause probe site tok score).rowLive c = (s.rowLeaves c row 8).rowLive c := by
    funext r
    simp only [State.rowLive, rowTrapped_rowField]
  simp only [State.anyLive, hl, rowTrapped_coreAt]
  rfl

theorem noLive_of_anyLive {s : State} {c : CoreId} (h : s.anyLive c = true) : s.noLive c = s := by
  simp [State.noLive, h]

/-- A row that is not LIVE, or that has trapped, does not trap (R13, R318). -/
theorem rowTrap_of_dead {s : State} {c : CoreId} {row : Nat} (h : s.rowLive c row = false ∨ row ∈ (s.coreAt c).g.trappedRows)
    (cause probe site tok : Nat) (score : Lane) : s.rowTrap c row cause probe site tok score = s := by
  rcases h with h | h <;> simp [State.rowTrap, h]

/-- A LIVE row that has not trapped traps, and the row group ends if it was the last LIVE one (R318, R348, R361). -/
theorem rowTrap_of_live {s : State} {c : CoreId} {row : Nat} (hl : s.rowLive c row = true) (ht : row ∉ (s.coreAt c).g.trappedRows)
    (cause probe site tok : Nat) (score : Lane) :
    s.rowTrap c row cause probe site tok score = (s.rowTrapped c row cause probe site tok score).noLive c := by
  have hc : (!s.rowLive c row || (s.coreAt c).g.trappedRows.contains row) = false := by simp [hl, ht]
  unfold State.rowTrap
  rw [hc]
  rfl

/-- Settles O33: a row that is LIVE traps by `State.rowTrapped`, and no end of the row group follows while another row is LIVE. -/
theorem rowTrapsRemoveOneRow : Obligations.RowTrapsRemoveOneRow := by
  unfold Obligations.RowTrapsRemoveOneRow
  refine ⟨fun s c row cause probe site tok score h => rowTrap_of_dead h .., fun s c row cause probe site tok score hl ht ha => ?_⟩
  have hdone : s.rowTrap c row cause probe site tok score = s.rowTrapped c row cause probe site tok score := by
    rw [rowTrap_of_live hl ht, noLive_of_anyLive (by rw [rowTrapped_anyLive]; exact ha)]
  obtain ⟨hlive, htrapped⟩ := rowLeaves_flags s c row
  rw [hdone]
  refine ⟨?_, ?_, ?_, ?_, ?_, fun key hk => rowLeaves_readByte s c row 8 key hk⟩
  · rw [rowTrapped_coreAt]; rfl
  · rw [rowTrapped_coreAt]; exact trapRow_entries ..
  · exact Vector.getElem_set_self ..
  · simp [State.rowLive, rowTrapped_rowField, hlive]
  · rw [rowTrapped_rowField]; exact htrapped

end Sys2Proof.Machine

end

section

namespace Sys2Proof.Machine

/-! ## Light List entries, and the pool (R10, R53, R55) -/

theorem ctxAt_congr {s t : State} (h : t.lan = s.lan) (i : Nat) : t.ctxAt i = s.ctxAt i := by rw [State.ctxAt, h, State.ctxAt]

@[simp] theorem ctxAt_setCtx (s : State) (i j : Nat) (x : Ctx) : (s.setCtx i x).ctxAt j = if j = i then x else s.ctxAt j :=
  Tab.get_set ..

@[simp] theorem ctxAt_modCtx (s : State) (i j : Nat) (f : Ctx → Ctx) :
    (s.modCtx i f).ctxAt j = if j = i then f (s.ctxAt i) else s.ctxAt j := ctxAt_setCtx ..

@[simp] theorem ctxAt_toState (s : State) (i j : Nat) (st : CtxState) (r : ParkReason) :
    (s.toState i st r).ctxAt j = if j = i then { s.ctxAt i with st := st, reason := r, since := s.now } else s.ctxAt j :=
  ctxAt_modCtx ..

@[simp] theorem ctxAt_raise (s : State) (ready : List (Nat × Ctx)) (pd : BitVec 12) (c : Fin 8) (j : Nat) :
    (Lantern.raise s ready pd c).ctxAt j = s.ctxAt j := rfl

@[simp] theorem ctxAt_normalise (s : State) (j : Nat) : s.normalise.ctxAt j = s.ctxAt j := rfl

/-- A row that enters the pool makes its context READY, with the entry time given, and changes no other context. -/
theorem ctxAt_poolRow (s : State) (i entry j : Nat) :
    (s.poolRow i entry).ctxAt j =
      if j = i then { s.ctxAt i with st := .ready, reason := .none, since := s.now, entry := entry, aged := false } else s.ctxAt j := by
  have hnow : (Lantern.raise s s.readyRows (s.ctxAt i).pd (s.ctxAt i).prio).now = s.now := rfl
  unfold State.poolRow
  by_cases h : j = i <;> simp [h, hnow]

/-! ## The Tenders' replies (R11 to R13, R227) -/

@[simp] theorem ctxAt_popReply (s : State) (d : Fin 4) (j : Nat) : (s.popReply d).ctxAt j = s.ctxAt j := rfl

/-- The head reply of a Tender is acted on where it is the oldest about its context (R227). -/
theorem headReply_of_head {s : State} {d : Fin 4} {no : Nat} {m : TenderReply} {rest : List (Nat × TenderReply)}
    (h : (s.tenderReplies[d]).queue = (no, m) :: rest) :
    s.headReply d = if oldestOf TenderReply.ctx s.tenderReplies no m then some m else none := by
  unfold State.headReply
  rw [h]

/-- A save area given up leaves every context and reply alone. -/
theorem dropSave_keeps (s : State) (i : Nat) : (s.dropSave i).lan = s.lan ∧ (s.dropSave i).tenderReplies = s.tenderReplies := by
  unfold State.dropSave
  split <;> exact ⟨rfl, rfl⟩

theorem ctxAt_dropSave (s : State) (i j : Nat) : (s.dropSave i).ctxAt j = s.ctxAt j := ctxAt_congr (dropSave_keeps s i).1 j

/-- RESIDENT (R11 to R13). -/
theorem resident_acts {s : State} {d : Fin 4} {h : Nat} (hm : s.headReply d = some (.resident h)) :
    exec (.resident d) s = .next
      (if s.names (BitVec.ofNat 32 h) = true ∧ (s.ctxAt (h % 131072)).st = .parked ∧ (s.ctxAt (h % 131072)).reason = .page then
        (s.popReply d).poolRow (h % 131072) s.now else s.popReply d) := by
  have hn : (s.popReply d).names = s.names := rfl
  have hw : (s.popReply d).now = s.now := rfl
  change execResident d s = _
  simp [execResident, hm, hn, hw, and_assoc]

/-- SWAPPEDOUT (R11). -/
theorem swappedout_acts {s : State} {d : Fin 4} {h : Nat} (hm : s.headReply d = some (.swappedOut h)) :
    exec (.swappedout d) s = .next
      (if s.names (BitVec.ofNat 32 h) = true ∧ (s.ctxAt (h % 131072)).st = .parked ∧ (s.ctxAt (h % 131072)).reason ≠ .page then
        (s.popReply d).toState (h % 131072) .swapped (s.ctxAt (h % 131072)).reason
      else if s.names (BitVec.ofNat 32 h) = true then (s.popReply d).dropSave (h % 131072) else s.popReply d) := by
  have hn : (s.popReply d).names = s.names := rfl
  change execSwappedout d s = _
  by_cases hname : s.names (BitVec.ofNat 32 h) = true <;> simp [execSwappedout, hm, hn, hname, Ctx.swappable]

/-- SWAPPEDIN (R11). -/
theorem swappedin_acts {s : State} {d : Fin 4} {h : Nat} (hm : s.headReply d = some (.swappedIn h)) :
    exec (.swappedin d) s = .next
      (if s.names (BitVec.ofNat 32 h) = true ∧ (s.ctxAt (h % 131072)).st = .swapped then
        (s.popReply d).toState (h % 131072) .parked (s.ctxAt (h % 131072)).reason else s.popReply d) := by
  have hn : (s.popReply d).names = s.names := rfl
  change execSwappedin d s = _
  simp [execSwappedin, hm, hn]

/-- Settles O55: each reply is acted on as its `_acts` lemma says where it is the oldest about its context, and waits otherwise. -/
theorem lanternActsOnPageReplies : Obligations.LanternActsOnPageReplies := by
  unfold Obligations.LanternActsOnPageReplies
  refine ⟨fun s d no h rest hq => ⟨fun ho => ?_, fun ho => ?_⟩, fun s d no h rest hq => ⟨fun ho => ?_, fun ho => ?_⟩,
    fun s d no h rest hq => ⟨fun ho => ?_, fun ho => ?_⟩⟩
  all_goals have hm := headReply_of_head hq; rw [ho] at hm
  · change execResident d s = _
    simp [execResident, hm]
  · refine ⟨_, resident_acts hm, ?_, ?_⟩ <;> split
    · rfl
    · rfl
    · rw [ctxAt_poolRow, if_pos rfl]; rfl
    · rfl
  · change execSwappedout d s = _
    simp [execSwappedout, hm]
  · refine ⟨_, swappedout_acts hm, ?_, ?_⟩ <;> split
    · rfl
    · split
      · exact (dropSave_keeps ..).2
      · rfl
    · rw [ctxAt_toState, if_pos rfl]; rfl
    · split
      · rw [ctxAt_dropSave]; rfl
      · rfl
  · change execSwappedin d s = _
    simp [execSwappedin, hm]
  · refine ⟨_, swappedin_acts hm, ?_, ?_⟩ <;> split
    · rfl
    · rfl
    · rw [ctxAt_toState, if_pos rfl]; rfl
    · rfl

end Sys2Proof.Machine

end

section

namespace Sys2Proof.Machine

/-! ## Held accesses and the end of a row group that was not placed (R63, R289) -/

/-- A row group of a span of two stages of one core each, as it stands on its core. -/
def spanGroup (c : CoreId) (ph : GroupPhase) : InstGroup :=
  { core := c, stage := c.val, slot := 0, rowFirst := 0, rowCount := 1, phase := ph, refused := false, gone := false, how := none, term := 0
    dump := 0xFFFF, reports := [] }

/-- An instance whose row group on core 0 has been asked back while that on core 1 is staged. -/
def withdrawnInst : Inst :=
  { id := 0, pd := 0, graph := 0, node := 0, lastNode := true, desc := NodeDesc.blank, nstages := 2, width := 1
    groups := [spanGroup 0 .withdrawn, spanGroup 1 .staged], rows := [], flags := 0, cancelled := true, formed := 0, rank := [] }

/-- The Lantern has WDONE with CLEARED from core 0 for that instance, while core 0 holds an update that core 1 sent to a semaphore of the
row group that is not placed (R289). -/
def heldAtWithdrawn : State :=
  { State.reset with
    cores := State.reset.cores.set 0 { Core.reset with heldSems := [{ num := 0, inst := 0, src := 1, act := .update (.add 1), issuer := .xs }] }
    up := State.reset.up.set 0 { permits := 15, sent := [.wdone 0 0 true], held := [] }
    insts := [withdrawnInst] }

/-- The Lantern's step on it discards the held access (R289). -/
theorem wdone_heldAtWithdrawn {t : State} (h : exec (.wdone 0) heldAtWithdrawn = .next t) : (t.coreAt 0).heldSems = [] := by
  cases h
  decide

/-- Refutes O54: WDONE with CLEARED (and ENDED likewise) also discards what the core holds for the instance's semaphores (R289), so more
than the wick's channel and the instances changes. The instance is `withdrawnInst`, and the held access that of `heldAtWithdrawn`. -/
theorem not_lanternActsOnWickReports : ¬ Obligations.LanternActsOnWickReports := by
  unfold Obligations.LanternActsOnWickReports
  rintro ⟨-, -, hwdone, -⟩
  obtain ⟨t, hexec, hframe, -⟩ := hwdone heldAtWithdrawn 0 0 0 [] withdrawnInst (spanGroup 0 .withdrawn) rfl (by decide) (by decide) rfl rfl
    rfl ⟨spanGroup 1 .staged, by decide, by decide, by decide⟩
  have hcores : t.coreAt 0 = heldAtWithdrawn.coreAt 0 := by rw [hframe]; rfl
  have hheld : (heldAtWithdrawn.coreAt 0).heldSems ≠ [] := by decide
  exact hheld (hcores ▸ wdone_heldAtWithdrawn hexec)

end Sys2Proof.Machine

end

section

namespace Sys2Proof.Machine

/-! ## The Lantern at rest (R52, R66, R379) -/

/-- A table reads as its default or as one of its entries. -/
theorem Tab.get_of_forall {α : Type} {P : α → Prop} {d : α} {t : Tab α} (hd : P d) (ht : ∀ e ∈ t, P e.2) (i : Nat) : P (Tab.get d t i) := by
  induction t with
  | nil => exact hd
  | cons e rest ih =>
    unfold Tab.get
    split
    · exact ht e (List.mem_cons_self ..)
    · exact ih fun x hx => ht x (List.mem_cons_of_mem _ hx)

/-- A state that every turn of a loop leaves alone is what the loop leaves. -/
theorem foldl_of_fixed {α β : Type} {f : α → β → α} {a : α} (hf : ∀ b, f a b = a) (l : List β) : l.foldl f a = a := by
  induction l with
  | nil => rfl
  | cons b l ih => rw [List.foldl_cons, hf, ih]

/-- A queue without a record due or held has nothing to drain (R379). -/
theorem drain_of_empty {s : State} {q : Nat} (hd : (s.cqAt q).due = []) (hh : (s.cqAt q).held = []) : s.drain q = s := by
  unfold State.drain
  split
  · rfl
  · rw [hd, hh]; rfl

theorem drainAll_of_noRecords {s : State} (h : s.NoRecords) : s.drainAll = s :=
  foldl_of_fixed (fun q =>
    have ⟨hd, hh⟩ := Tab.get_of_forall (P := fun d : CqDesc => d.due = [] ∧ d.held = []) (d := CqDesc.reset) ⟨rfl, rfl⟩ h q
    drain_of_empty hd hh) _

theorem savedGroups_of_noneSaved {s : State} (h : s.NoneSaved) : s.savedGroups = [] := by
  have hnil : ∀ i ∈ s.insts, i.groups.filter (fun g => decide (g.phase = .saved)) = [] := fun i hi =>
    List.filter_eq_nil_iff.mpr fun g hg => by simpa using h i hi g hg
  have hl : (s.insts.flatMap fun (i : Inst) => (i.groups.filter fun (g : InstGroup) => g.phase = .saved).map fun g =>
      ((if s.blocksAged i then 0 else 1) :: i.rank, i, g.core)) = [] :=
    List.flatMap_eq_nil_iff.mpr fun i hi => by rw [hnil i hi]; rfl
  unfold State.savedGroups
  rw [hl]
  rfl

theorem resumeSaved_of_noneSaved {s : State} (h : s.NoneSaved) : s.resumeSaved = s := by
  unfold State.resumeSaved
  rw [savedGroups_of_noneSaved h]
  split <;> rfl

end Sys2Proof.Machine

end

section

namespace Sys2Proof.Machine

/-! ## Sorting by rank (R58) -/

theorem mem_insertRank {α : Type} (e x : List Nat × α) (l : List (List Nat × α)) : x ∈ insertRank e l ↔ x = e ∨ x ∈ l := by
  induction l with
  | nil => simp [insertRank]
  | cons a l ih =>
    unfold insertRank
    split
    · simp
    · rw [List.mem_cons, ih, List.mem_cons, or_left_comm]

theorem mem_sortRank {α : Type} (x : List Nat × α) (l : List (List Nat × α)) : x ∈ sortRank l ↔ x ∈ l := by
  have h : ∀ acc : List (List Nat × α), x ∈ l.foldl (fun acc e => insertRank e acc) acc ↔ x ∈ acc ∨ x ∈ l := by
    induction l with
    | nil => simp
    | cons e l ih =>
      intro acc
      rw [List.foldl_cons, ih, mem_insertRank, List.mem_cons, or_assoc, or_left_comm]
  exact (h []).trans (by simp only [List.not_mem_nil, false_or])

/-! ## The choice of a key (R54, R55, R57) -/

theorem mem_formable {s : State} {el : List CoreId} {e : RowKey × NodeDesc} (h : e ∈ s.formable el) :
    ∃ last, s.keyNode e.1 = some (e.2, last) ∧ s.keyFree e.2 = true := by
  obtain ⟨k, -, hk⟩ := List.mem_filterMap.mp h
  cases hn : s.keyNode k with
  | none => simp [hn] at hk
  | some n =>
    simp only [hn, Bool.and_eq_true, Option.ite_none_right_eq_some, Option.some.injEq] at hk
    obtain ⟨⟨⟨-, hfree⟩, -⟩, rfl⟩ := hk
    exact ⟨n.2, hn, hfree⟩

/-- The key that a turn serves is a formable one. -/
theorem pickKey_formable {s : State} {el : List CoreId} {k : RowKey} (h : s.pickKey el = some k) : ∃ d, (k, d) ∈ s.formable el := by
  unfold State.pickKey at h
  simp only [] at h
  split at h
  · cases h
  · rename_i pd _ _
    obtain ⟨e, he, rfl⟩ := Option.map_eq_some_iff.mp h
    have hmem := (mem_sortRank ..).mp (List.mem_of_mem_head? he)
    obtain ⟨r, hr, rfl⟩ := List.mem_map.mp hmem
    have hrow : r ∈ ((s.formable el).filter fun (e : RowKey × NodeDesc) => e.1.pd = pd).flatMap fun e =>
        (s.rowsOf e.1 e.2).map fun r => (r, e.1) := by
      split at hr
      · exact hr
      · exact (List.mem_filter.mp (List.mem_filter.mp hr).1).1
    obtain ⟨f, hf, hrf⟩ := List.mem_flatMap.mp hrow
    obtain ⟨x, -, rfl⟩ := List.mem_map.mp hrf
    exact ⟨f.2, (List.mem_filter.mp hf).1⟩

/-! ## Forming a batch (R59 to R62) -/

theorem rowDeadline_of_dlpol {d : NodeDesc} (h : d.dlpol = 1) (x : Ctx) : rowDeadline d x = 0 := by
  unfold rowDeadline
  rw [h]
  rfl

/-- Under DLPOL 1 no row is late: a turn takes as many as it may, in order. -/
theorem examine_of_dlpol (s : State) {d : NodeDesc} (h : d.dlpol = 1) (l : List (List Nat × Nat × Ctx)) (n : Nat) :
    s.examine d l n = (l.take n, []) := by
  induction l generalizing n with
  | nil => simp [State.examine]
  | cons e l ih =>
    cases n with
    | zero => simp [State.examine]
    | succ n => simp [State.examine, rowDeadline_of_dlpol h, ih]

theorem replayFor_of_off {s : State} (h : s.replay.mode = .off) (pd : BitVec 12) : s.replayFor pd = .off := by
  unfold State.replayFor
  split
  · exact h
  · rfl

/-- With fewer than 2^24 instances some id of the next ones is free, and the Lantern takes such a one (R62). -/
theorem freshInst_free {s : State} (h : s.insts.length < 2 ^ 24) : ∀ j ∈ s.insts, j.id ≠ s.freshInst := by
  have hex : ∃ n ∈ (List.range (s.insts.length + 1)).map (fun k => s.lan.nextInst + BitVec.ofNat 24 k),
      (!s.insts.any fun (i : Inst) => i.id = n) = true := by
    refine Classical.byContradiction fun hno => ?_
    have hsub : (List.range (s.insts.length + 1)).map (fun k => s.lan.nextInst + BitVec.ofNat 24 k) ⊆ s.insts.map Inst.id := by
      intro n hn
      refine Classical.byContradiction fun hmem => hno ⟨n, hn, ?_⟩
      simp only [Bool.not_eq_true', List.any_eq_false, decide_eq_true_eq]
      exact fun i hi e => hmem (e ▸ List.mem_map_of_mem hi)
    have hnodup : ((List.range (s.insts.length + 1)).map fun k => s.lan.nextInst + BitVec.ofNat 24 k).Nodup := by
      refine List.pairwise_map.mpr (List.Pairwise.imp_of_mem (fun {a b} ha hb hne hab => hne ?_) List.nodup_range)
      have hlt := List.mem_range.mp ha
      have hlt' := List.mem_range.mp hb
      have := congrArg BitVec.toNat ((BitVec.add_right_inj _).mp hab)
      simp only [BitVec.toNat_ofNat] at this
      omega
    have hle := hnodup.length_le_of_subset hsub
    simp only [List.length_map, List.length_range] at hle
    omega
  obtain ⟨n, hn⟩ := List.find?_isSome.mpr hex |> Option.isSome_iff_exists.mp
  have hfree := List.find?_some hn
  intro j hj e
  have hid : s.freshInst = n := by
    unfold State.freshInst
    rw [hn]
    rfl
  rw [hid] at e
  simp only [Bool.not_eq_true', List.any_eq_false, decide_eq_true_eq] at hfree
  exact hfree j hj e

/-- The row groups of a batch stand on the cores of its span, stage by stage. -/
theorem groupsOn_core (cores : List CoreId) (w n b : Nat) : (groupsOn cores w n b).map InstGroup.core = cores.take (n * w) := by
  induction n with
  | zero => simp [groupsOn]
  | succ n ih =>
    have hstep : groupsOn cores w (n + 1) b = groupsOn cores w n b ++ ((List.range w).zip (stageCores cores w n)).map fun e =>
        let j := e.1
        { core := e.2, stage := n, slot := j, rowFirst := j * (b / w) + min j (b % w), rowCount := b / w + (if j < b % w then 1 else 0)
          phase := .staged, refused := false, gone := false, how := none, term := 0, dump := 0xFFFF, reports := [] } := by
      simp [groupsOn, List.range_succ, List.flatMap_append]
    have hlen : (stageCores cores w n).length ≤ (List.range w).length := by
      rw [List.length_range]
      exact List.length_take_le ..
    rw [hstep, List.map_append, ih, List.map_map]
    have hsnd : ((List.range w).zip (stageCores cores w n)).map Prod.snd = stageCores cores w n := List.map_snd_zip hlen
    rw [Nat.succ_mul, List.take_add]
    exact congrArg _ hsnd

theorem groupsOn_staged (cores : List CoreId) (w n b : Nat) (g : InstGroup) (h : g ∈ groupsOn cores w n b) : g.phase = .staged := by
  obtain ⟨k, -, hg⟩ := List.mem_flatMap.mp h
  obtain ⟨e, -, rfl⟩ := List.mem_map.mp hg
  rfl

end Sys2Proof.Machine

end

section

namespace Sys2Proof.Machine

/-! ## The state after a formation turn (R23, R55, R61, R62) -/

/-- The contexts of a batch's rows become RUNNING. -/
def State.runRows (s : State) (rows : List (List Nat × Nat × Ctx)) : State :=
  rows.foldl (fun s e => s.toState e.2.1 .running .none) s

theorem runRows_rest (rows : List (List Nat × Nat × Ctx)) (s : State) : ∃ l, s.runRows rows = { s with lan := l } := by
  induction rows generalizing s with
  | nil => exact ⟨s.lan, rfl⟩
  | cons e rows ih => exact ih (s.toState e.2.1 .running .none)

theorem ctxAt_runRows_other (rows : List (List Nat × Nat × Ctx)) (n : Nat) (h : ∀ e ∈ rows, e.2.1 ≠ n) (s : State) :
    (s.runRows rows).ctxAt n = s.ctxAt n := by
  induction rows generalizing s with
  | nil => rfl
  | cons e rows ih =>
    have hne : n ≠ e.2.1 := (h e (List.mem_cons_self ..)).symm
    exact (ih (fun x hx => h x (List.mem_cons_of_mem _ hx)) _).trans (by rw [ctxAt_toState, if_neg hne])

theorem ctxAt_runRows_st (rows : List (List Nat × Nat × Ctx)) (n : Nat) (s : State)
    (h : (s.ctxAt n).st = .running ∨ ∃ e ∈ rows, e.2.1 = n) : ((s.runRows rows).ctxAt n).st = .running := by
  induction rows generalizing s with
  | nil => simpa [State.runRows] using h
  | cons e rows ih =>
    refine ih (s.toState e.2.1 .running .none) ?_
    rw [ctxAt_toState]
    by_cases hn : n = e.2.1
    · exact .inl (by rw [if_pos hn])
    · rw [if_neg hn]
      refine h.imp_right fun ⟨x, hx, hxn⟩ => ⟨x, ?_, hxn⟩
      exact (List.mem_cons.mp hx).resolve_left fun e' => hn (e' ▸ hxn.symm)

/-- A message put on a link is on it, sent or held, with those put before it (R48). -/
theorem mem_send {α : Type} (l : Link α) (m x : α) : x ∈ (l.send m).sent ++ (l.send m).held ↔ x = m ∨ x ∈ l.sent ++ l.held := by
  unfold Link.send
  split
  · simp only [List.mem_append, List.mem_singleton]
    rw [← or_assoc, or_comm]
  · simp only [List.mem_append, List.mem_singleton]
    rw [or_comm (a := x ∈ l.sent), or_assoc]

/-- A message is under way to the wick of a core. -/
def State.toldWick (s : State) (c : CoreId) (m : DownMsg) : Prop := m ∈ (s.down[clusterOf c]).sent ++ (s.down[clusterOf c]).held

theorem toldWick_toWick (s : State) (c d : CoreId) (m x : DownMsg) :
    (s.toWick c m).toldWick d x ↔ (clusterOf d = clusterOf c ∧ x = m) ∨ s.toldWick d x := by
  unfold State.toldWick State.toWick
  by_cases h : clusterOf d = clusterOf c
  · simp only [h, Fin.getElem_fin, Vector.getElem_set_self, mem_send, true_and]
  · have hv : (clusterOf c).val ≠ (clusterOf d).val := fun e => h (Fin.ext e.symm)
    simp only [h, Fin.getElem_fin, Vector.getElem_set_ne _ _ hv, false_and, false_or]

/-- A STAGE for each row group of an instance. -/
def State.stageAll (s : State) (i : Inst) (gs : List InstGroup) : State :=
  gs.foldl (fun s g => s.toWick g.core (.stage g.core (i.bankOf g false))) s

theorem stageAll_rest (i : Inst) (gs : List InstGroup) (s : State) : ∃ d, s.stageAll i gs = { s with down := d } := by
  induction gs generalizing s with
  | nil => exact ⟨s.down, rfl⟩
  | cons g gs ih => exact ih (s.toWick g.core (.stage g.core (i.bankOf g false)))

theorem toldWick_stageAll (i : Inst) (gs : List InstGroup) (d : CoreId) (x : DownMsg) (s : State)
    (h : s.toldWick d x ∨ ∃ g ∈ gs, g.core = d ∧ x = .stage g.core (i.bankOf g false)) : (s.stageAll i gs).toldWick d x := by
  induction gs generalizing s with
  | nil => simpa [State.stageAll] using h
  | cons g gs ih =>
    refine ih (s.toWick g.core (.stage g.core (i.bankOf g false))) ?_
    rw [toldWick_toWick]
    rcases h with h | ⟨g', hg', hd, hx⟩
    · exact .inl (.inr h)
    · rcases List.mem_cons.mp hg' with rfl | hg'
      · exact .inl (.inl ⟨by rw [hd], hx⟩)
      · exact .inr ⟨g', hg', hd, hx⟩

/-- The instance that a turn forms of rows of a key on cores, none of them late (R61, R62). -/
def State.batchOf (s : State) (k : RowKey) (d : NodeDesc) (last : Bool) (cores : List CoreId) (rows : List (List Nat × Nat × Ctx)) : Inst :=
  { id := s.freshInst, pd := k.pd, graph := k.graph, node := k.node, lastNode := last, desc := d, nstages := d.stages
    width := min d.cps rows.length, groups := groupsOn cores (min d.cps rows.length) d.stages rows.length
    rows := rows.map fun e =>
      { ctx := handleOf e.2.1 e.2.2, entry := e.2.2.entry, rank := e.1, aged := s.isAged e.2.2, tag := e.2.2.row.tag
        cq := e.2.2.row.cq, words := rowWords d last e.2.1 e.2.2, left := false }
    flags := 0, cancelled := false, formed := s.now, rank := ((rows.head?.map Prod.fst).getD []) ++ [s.now] }

/-- The state with a batch formed of rows as an instance (R23, R55, R57, R61). -/
def State.formBatch (s : State) (i : Inst) (rows : List (List Nat × Nat × Ctx)) : State :=
  let u := ((s.releaseOutcome .place).advance i.pd (rows.map fun e => e.2.2)).runRows rows
  ({ u with insts := u.insts ++ [i], lan := { u.lan with nextInst := i.id + 1 } } : State).stageAll i i.groups

theorem releaseOutcome_rest (s : State) (h : HeldOutcome) :
    ∃ r : Replay, s.releaseOutcome h = { s with replay := r } ∧ r.mode = s.replay.mode := by
  unfold State.releaseOutcome
  split
  · exact ⟨s.replay, rfl, rfl⟩
  · exact ⟨_, rfl, rfl⟩

/-- A batch formed changes the instances, the Lantern, the channels to the wicks and what a replay holds, and nothing else. -/
theorem formBatch_rest (s : State) (i : Inst) (rows : List (List Nat × Nat × Ctx)) :
    ∃ l d, ∃ r : Replay, s.formBatch i rows = { s with insts := s.insts ++ [i], lan := l, down := d, replay := r } ∧
      r.mode = s.replay.mode := by
  obtain ⟨r, hr, hmode⟩ := releaseOutcome_rest s .place
  obtain ⟨l, hl⟩ := runRows_rest rows ((s.releaseOutcome .place).advance i.pd (rows.map fun e => e.2.2))
  unfold State.formBatch
  rw [hl, hr]
  obtain ⟨d, hd⟩ := stageAll_rest i i.groups { s with insts := s.insts ++ [i], lan := { l with nextInst := i.id + 1 }, replay := r }
  exact ⟨_, d, r, hd, hmode⟩

/-- The contexts after a batch has been formed are those that its rows' becoming RUNNING leaves. -/
theorem ctxAt_formBatch (s : State) (i : Inst) (rows : List (List Nat × Nat × Ctx)) (n : Nat) :
    (s.formBatch i rows).ctxAt n = (((s.releaseOutcome .place).advance i.pd (rows.map fun e => e.2.2)).runRows rows).ctxAt n := by
  unfold State.formBatch
  obtain ⟨d, hd⟩ := stageAll_rest i i.groups _
  rw [hd]
  rfl

theorem ctxAt_advance (s : State) (h : HeldOutcome) (pd : BitVec 12) (l : List Ctx) (n : Nat) :
    ((s.releaseOutcome h).advance pd l).ctxAt n = s.ctxAt n := by
  obtain ⟨r, hr, -⟩ := releaseOutcome_rest s h
  rw [hr]
  rfl

theorem outcome_of_off {s : State} (h : s.replay.mode = .off) (d : Fin 4) (pd : BitVec 12) (e : LogEntry) (mine : LogEntry → Bool) :
    s.outcome d pd e mine = s := by
  unfold State.outcome
  rw [replayFor_of_off h]

/-- A turn for a key none of whose rows is late forms a batch of its first rows (R54, R59 to R61). -/
theorem formKey_onTime {s : State} {k : RowKey} {d : NodeDesc} {last : Bool} {el cores : List CoreId} (hoff : s.replay.mode = .off)
    (hk : s.keyNode k = some (d, last)) (hdl : d.dlpol = 1) (hne : (s.rowsOf k d).take 1024 ≠ [])
    (hspan : s.spanOk el cores (min d.cps ((s.rowsOf k d).take 1024).length) d.stages = true) :
    s.formKey k el cores =
      (s.formBatch (s.batchOf k d last cores ((s.rowsOf k d).take 1024)) ((s.rowsOf k d).take 1024)).normalise := by
  have hw : s.judgedWidth k d = min d.cps ((s.rowsOf k d).take 1024).length := by simp [State.judgedWidth]
  unfold State.formKey
  simp only [hk, examine_of_dlpol s hdl, hw]
  generalize (s.rowsOf k d).take 1024 = rows at hne hspan
  cases rows with
  | nil => exact absurd rfl hne
  | cons top rest =>
    have hmode : (s.formBatch (s.batchOf k d last cores (top :: rest)) (top :: rest)).replay.mode = .off := by
      obtain ⟨l, w, r, hrest, hm⟩ := formBatch_rest s (s.batchOf k d last cores (top :: rest)) (top :: rest)
      rw [hrest]
      exact hm.trans hoff
    simp only [placedCores, State.choiceOk, hspan, if_true, State.placedId, replayFor_of_off hoff]
    exact congrArg State.normalise (outcome_of_off hmode ..)

end Sys2Proof.Machine

end

section

namespace Sys2Proof.Machine

/-- A turn without an aged row serves the key that the virtual times choose (R55, R57). -/
theorem turn_of_pickKey {s : State} {k : RowKey} (ha : s.agedRows = []) (hp : s.pickKey (s.eligible [] s.keptFor) = some k)
    (cores : List CoreId) : s.turn cores = s.formKey k (s.eligible [] s.keptFor) cores := by
  unfold State.turn
  simp only [ha, List.find?_nil, hp]

theorem batchOf_staged (s : State) (k : RowKey) (d : NodeDesc) (last : Bool) (cores : List CoreId) (rows : List (List Nat × Nat × Ctx)) :
    ∀ g ∈ (s.batchOf k d last cores rows).groups, g.phase = .staged :=
  fun g hg => groupsOn_staged _ _ _ _ g hg

theorem formBatch_insts_mem (s : State) (i : Inst) (rows : List (List Nat × Nat × Ctx)) :
    (s.formBatch i rows).normalise.insts = s.insts ++ [i] ∧ (s.formBatch i rows).normalise.mem = s.mem := by
  obtain ⟨l, d, r, hrest, -⟩ := formBatch_rest s i rows
  rw [hrest]
  exact ⟨rfl, rfl⟩

theorem noneSaved_formBatch {s : State} (h : s.NoneSaved) {i : Inst} (hi : ∀ g ∈ i.groups, g.phase = .staged)
    (rows : List (List Nat × Nat × Ctx)) : (s.formBatch i rows).normalise.NoneSaved := by
  intro j hj g hg
  rw [(formBatch_insts_mem s i rows).1] at hj
  rcases List.mem_append.mp hj with hj | hj
  · exact h j hj g hg
  · rw [List.mem_singleton.mp hj] at hg
    rw [hi g hg]
    decide

theorem noRecords_formBatch {s : State} (h : s.NoRecords) (i : Inst) (rows : List (List Nat × Nat × Ctx)) :
    (s.formBatch i rows).normalise.NoRecords := by
  obtain ⟨l, d, r, hrest, -⟩ := formBatch_rest s i rows
  have hfront : (s.formBatch i rows).normalise.front = s.front := by
    rw [hrest]
    rfl
  intro e he
  exact h e (hfront ▸ he)

/-- FORMATION_TURN without an aged row, under DLPOL 1, on cores that R60 allows: the batch is formed, and nothing else follows. -/
theorem formationTurn_forms {s : State} {cores : List CoreId} {k : RowKey} {d : NodeDesc} {last : Bool} (hphase : s.mgmt.phase = .run)
    (hoff : s.replay.mode = .off) (hsaved : s.NoneSaved) (hrec : s.NoRecords) (ha : s.agedRows = [])
    (hp : s.pickKey (s.eligible [] s.keptFor) = some k) (hk : s.keyNode k = some (d, last)) (hdl : d.dlpol = 1)
    (hne : (s.rowsOf k d).take 1024 ≠ [])
    (hspan : s.spanOk (s.eligible [] s.keptFor) cores (min d.cps ((s.rowsOf k d).take 1024).length) d.stages = true) :
    exec (.formationTurn cores) s =
      .next (s.formBatch (s.batchOf k d last cores ((s.rowsOf k d).take 1024)) ((s.rowsOf k d).take 1024)).normalise := by
  have hturn := (turn_of_pickKey ha hp cores).trans (formKey_onTime hoff hk hdl hne hspan)
  have hrec' := noRecords_formBatch hrec (s.batchOf k d last cores ((s.rowsOf k d).take 1024)) ((s.rowsOf k d).take 1024)
  have hsaved' := noneSaved_formBatch hsaved (batchOf_staged s k d last cores ((s.rowsOf k d).take 1024)) ((s.rowsOf k d).take 1024)
  change execFormationTurn cores s = _
  unfold execFormationTurn
  rw [if_pos hphase, hturn, drainAll_of_noRecords hrec', resumeSaved_of_noneSaved hsaved']

theorem spanOk_length {s : State} {el cores : List CoreId} {w n : Nat} (h : s.spanOk el cores w n = true) : cores.length = w * n := by
  simp only [State.spanOk, Bool.and_eq_true, beq_iff_eq] at h
  exact h.1.1.1.1.1.1.1.1

/-- A STAGE of the batch is under way to each of its cores (R61). -/
theorem toldWick_formBatch (s : State) (i : Inst) (rows : List (List Nat × Nat × Ctx)) (g : InstGroup) (h : g ∈ i.groups) :
    (s.formBatch i rows).normalise.toldWick g.core (.stage g.core (i.bankOf g false)) :=
  toldWick_stageAll i i.groups g.core _ _ (.inr ⟨g, h, rfl, rfl⟩)

/-! ## The words of a row record (R22, R23) -/

theorem extractLsb'_ofNat {n : Nat} (h : n < 2 ^ 64) (lo len : Nat) :
    ((BitVec.ofNat 64 n).extractLsb' lo len).toNat = n / 2 ^ lo % 2 ^ len := by
  rw [BitVec.extractLsb'_toNat, BitVec.toNat_ofNat, Nat.mod_eq_of_lt h, Nat.shiftRight_eq_div_pow]

/-- The fields of a word of three parts of 16, 16 and 32 bits. -/
theorem fields_of_parts {f r h : Nat} (hf : f < 2 ^ 16) (hr : r < 2 ^ 16) (hh : h < 2 ^ 32) :
    f * 2 ^ 48 + r * 2 ^ 32 + h < 2 ^ 64 ∧ (f * 2 ^ 48 + r * 2 ^ 32 + h) / 2 ^ 0 % 2 ^ 32 = h ∧
      (f * 2 ^ 48 + r * 2 ^ 32 + h) / 2 ^ 32 % 2 ^ 16 = r ∧ (f * 2 ^ 48 + r * 2 ^ 32 + h) / 2 ^ 48 = f := by
  omega

/-- The fields of a word of two parts of 32 bits. -/
theorem fields_of_halves {a p : Nat} (ha : a < 2 ^ 32) (hp : p < 2 ^ 32) :
    a * 2 ^ 32 + p < 2 ^ 64 ∧ (a * 2 ^ 32 + p) / 2 ^ 0 % 2 ^ 32 = p ∧ (a * 2 ^ 32 + p) / 2 ^ 32 % 2 ^ 32 = a := by
  omega

/-- RFLAGS of a row record as formation fills it: LIVE is set (R22, R23). -/
def formFlags (x : Ctx) (last : Bool) : Nat := 1 + (if x.accepted.toNat < x.row.lineage then 2 else 0) + (if last then 16 else 0)

theorem formFlags_live (x : Ctx) (last : Bool) : formFlags x last < 2 ^ 16 ∧ formFlags x last % 2 = 1 := by
  unfold formFlags
  split <;> split <;> omega

/-- Word 0 of a row record: CTX, RLEN and LIVE (R22). -/
theorem rowWord0_fields (x : Ctx) (last : Bool) (h : BitVec 32) (hlen : x.row.rlen < 2 ^ 16) :
    (BitVec.ofNat 64 (formFlags x last * 2 ^ 48 + x.row.rlen * 2 ^ 32 + h.toNat)).extractLsb' 0 32 = h ∧
    ((BitVec.ofNat 64 (formFlags x last * 2 ^ 48 + x.row.rlen * 2 ^ 32 + h.toNat)).extractLsb' 32 16).toNat = x.row.rlen ∧
    (BitVec.ofNat 64 (formFlags x last * 2 ^ 48 + x.row.rlen * 2 ^ 32 + h.toNat)).getLsbD 48 = true := by
  obtain ⟨hf, hlive⟩ := formFlags_live x last
  obtain ⟨hlt, hctx, hrlen, hflags⟩ := fields_of_parts hf hlen h.isLt
  refine ⟨BitVec.eq_of_toNat_eq ?_, ?_, ?_⟩
  · rw [extractLsb'_ofNat hlt, hctx]
  · rw [extractLsb'_ofNat hlt, hrlen]
  · rw [BitVec.getLsbD_ofNat, Nat.testBit_eq_decide_div_mod_eq, hflags, hlive]
    rfl

/-- Word 1 of a row record: POS and ACCEPT (R22). -/
theorem rowWord1_fields (x : Ctx) (hpos : x.row.pos < 2 ^ 32) :
    ((BitVec.ofNat 64 (x.accepted.toNat * 2 ^ 32 + x.row.pos)).extractLsb' 0 32).toNat = x.row.pos ∧
    (BitVec.ofNat 64 (x.accepted.toNat * 2 ^ 32 + x.row.pos)).extractLsb' 32 32 = x.accepted := by
  obtain ⟨hlt, hp, hacc⟩ := fields_of_halves x.accepted.isLt hpos
  refine ⟨?_, BitVec.eq_of_toNat_eq ?_⟩
  · rw [extractLsb'_ofNat hlt, hp]
  · rw [extractLsb'_ofNat hlt, hacc]

/-! ## Ageing and coalescing (R56, R380) -/

theorem isAged_iff (s : State) (x : Ctx) : s.isAged x = true ↔
    s.share x.prio ≠ 0 ∧ s.weight x.pd ≠ 0 ∧ (x.aged = true ∨ x.entry + s.params.ageMax ≤ s.now) := by
  simp [State.isAged, and_assoc]

theorem rowAged_acts {s : State} (h : s.NoneSaved) (i : Fin 131072) : exec (.rowAged i) s = .next
    (if (s.ctxAt i.val).st = .ready ∧ s.isAged (s.ctxAt i.val) = true then s.setCtx i.val { s.ctxAt i.val with aged := true } else s) := by
  have hset : ((s.modCtx i.val fun x => { x with aged := true }).resumeSaved) = s.modCtx i.val fun x => { x with aged := true } :=
    resumeSaved_of_noneSaved h
  change execRowAged i s = _
  simp only [execRowAged, hset, Bool.and_eq_true, decide_eq_true_eq]
  rfl

theorem cqAt_setCq (s : State) (p q : Nat) (d : CqDesc) : (s.setCq p d).cqAt q = if q = p then d else s.cqAt q := Tab.get_set ..

theorem cqInterrupt_acts (s : State) (q : Nat) : (s.cqInterrupt q).mem = s.mem ∧
    (s.cqInterrupt q).msix = s.msix ++ [(q / 1024, (s.cqAt q).vec.toNat)] ∧ (s.cqInterrupt q).cqAt q = { s.cqAt q with fresh := 0 } :=
  ⟨rfl, rfl, (cqAt_setCq ..).trans (if_pos rfl)⟩

theorem cqCoalesceTimeout_acts (s : State) (q : Fin 4096) : exec (.cqCoalesceTimeout q) s = .next
    (if 0 < (s.cqAt q.val).fresh ∧ (s.cqAt q.val).first + (s.cqAt q.val).ct.toNat * 1000 ≤ s.now then s.cqInterrupt q.val else s) := by
  change execCqCoalesceTimeout q s = _
  simp [execCqCoalesceTimeout]

/-! ## Formation of a batch, assembled (R53 to R62) -/

/-- Where a batch may form, no instance conflicts with its node (R52, R54). -/
theorem pickKey_conflictFree {s : State} {el : List CoreId} {k : RowKey} {d : NodeDesc} {last : Bool} (hp : s.pickKey el = some k)
    (hk : s.keyNode k = some (d, last)) : ∀ j ∈ s.insts, j.conflicts d = false := by
  obtain ⟨d', hmem⟩ := pickKey_formable hp
  obtain ⟨last', hk', hfree⟩ := mem_formable hmem
  obtain ⟨rfl, -⟩ := Prod.mk.inj (Option.some.inj (hk.symm.trans hk'))
  simpa [State.keyFree] using hfree

/-- The cores of a batch are those chosen. -/
theorem batchOf_cores {s : State} {k : RowKey} {d : NodeDesc} {last : Bool} {el cores : List CoreId} {rows : List (List Nat × Nat × Ctx)}
    (hspan : s.spanOk el cores (min d.cps rows.length) d.stages = true) :
    (s.batchOf k d last cores rows).groups.map InstGroup.core = cores := by
  refine (groupsOn_core ..).trans (List.take_of_length_le (Nat.le_of_eq ?_))
  rw [spanOk_length hspan, Nat.mul_comm]

theorem ctxAt_formBatch_running (s : State) (i : Inst) (rows : List (List Nat × Nat × Ctx)) (e : List Nat × Nat × Ctx) (h : e ∈ rows) :
    ((s.formBatch i rows).normalise.ctxAt e.2.1).st = .running := by
  rw [ctxAt_normalise, ctxAt_formBatch]
  exact ctxAt_runRows_st _ _ _ (.inr ⟨e, h, rfl⟩)

theorem ctxAt_formBatch_other (s : State) (i : Inst) (rows : List (List Nat × Nat × Ctx)) (n : Nat) (h : ∀ e ∈ rows, e.2.1 ≠ n) :
    (s.formBatch i rows).normalise.ctxAt n = s.ctxAt n := by
  rw [ctxAt_normalise, ctxAt_formBatch, ctxAt_runRows_other _ _ h, ctxAt_advance]

/-- Settles O57: the batch of a turn is `State.batchOf`, and the state after it that of `State.formBatch`. -/
theorem lanternFormsBatches : Obligations.LanternFormsBatches := by
  unfold Obligations.LanternFormsBatches
  refine ⟨?stopped, ?forms, ?idle, ?words, ?aged, ?interrupt⟩
  case stopped =>
    intro s cores h
    change execFormationTurn cores s = _
    rw [execFormationTurn, if_neg h]
  case forms =>
    intro s cores k d last hphase hoff hsaved hrec ha hp hk hdl hids rows w hne hspan
    have hcores : (s.batchOf k d last cores rows).groups.map InstGroup.core = cores := batchOf_cores hspan
    obtain ⟨hinsts, hmem⟩ := formBatch_insts_mem s (s.batchOf k d last cores rows) rows
    refine ⟨_, s.batchOf k d last cores rows, formationTurn_forms hphase hoff hsaved hrec ha hp hk hdl hne hspan, hinsts,
      freshInst_free hids, rfl, rfl, rfl, rfl, rfl, rfl, rfl, rfl, ?_, hcores, batchOf_staged s k d last cores rows,
      ctxAt_formBatch_running s _ rows, ctxAt_formBatch_other s _ rows, ?_, hmem, pickKey_conflictFree hp hk⟩
    · exact List.map_map ..
    · intro c hc
      obtain ⟨g, hg, rfl⟩ := List.mem_map.mp (hcores ▸ hc)
      exact ⟨_, toldWick_formBatch s _ rows g hg, rfl, rfl⟩
  case idle =>
    intro s cores hsaved hrec ha hp
    have hturn : s.turn cores = s := by
      unfold State.turn
      simp only [ha, List.find?_nil, hp]
    change execFormationTurn cores s = _
    rw [execFormationTurn, hturn, drainAll_of_noRecords hrec, resumeSaved_of_noneSaved hsaved, ite_self]
  case words =>
    intro d i x last hdl hlen hpos
    obtain ⟨hctx, hrlen, hlive⟩ := rowWord0_fields x last (handleOf i x) hlen
    obtain ⟨hp, hacc⟩ := rowWord1_fields x hpos
    exact ⟨rfl, congrArg some hctx, congrArg some hrlen, congrArg some hlive, congrArg some hp, congrArg some hacc, rfl, rfl,
      congrArg some (BitVec.toNat_ofNat .. |>.trans (Nat.mod_eq_of_lt hdl))⟩
  case aged =>
    intro s i h
    rw [rowAged_acts h]
    simp only [isAged_iff]
  case interrupt =>
    intro s q
    obtain ⟨hmem, hmsix, hcq⟩ := cqInterrupt_acts s q.val
    refine ⟨_, cqCoalesceTimeout_acts s q, ?_, fun hfresh hdue => ?_, fun hno => ?_⟩
    · split
      · exact hmem
      · rfl
    · rw [if_pos ⟨hfresh, hdue⟩]
      exact ⟨hmsix, hcq⟩
    · rw [if_neg (by omega)]

end Sys2Proof.Machine

end

section

namespace Sys2Proof.Machine

/-! ## Fields of words -/

theorem ofNat_fld {w : Nat} (v : BitVec w) (lo n : Nat) : BitVec.ofNat n (fld v.toNat lo n) = v.extractLsb' lo n := by
  apply BitVec.eq_of_toNat_eq
  rw [BitVec.extractLsb'_toNat, BitVec.toNat_ofNat, Nat.shiftRight_eq_div_pow, fld, Nat.mod_mod]

theorem ofNat_toNat_low {w : Nat} (v : BitVec w) (n : Nat) : BitVec.ofNat n v.toNat = v.extractLsb' 0 n := by
  apply BitVec.eq_of_toNat_eq
  rw [BitVec.extractLsb'_toNat, BitVec.toNat_ofNat, Nat.shiftRight_zero]

theorem bit_toNat {w : Nat} (v : BitVec w) (k : Nat) : bit v.toNat k = v.getLsbD k := by
  rw [BitVec.getLsbD, Nat.testBit_eq_decide_div_mod_eq, bit, fld, Nat.pow_one]
  rfl

theorem fld_eq_toNat {w : Nat} (v : BitVec w) (lo n : Nat) : fld v.toNat lo n = (v.extractLsb' lo n).toNat := by
  rw [BitVec.extractLsb'_toNat, Nat.shiftRight_eq_div_pow, fld]

/-! ## Host inputs (R395, R396, R398) -/

/-- A host input that the package takes acts, and leaves no record of itself. -/
theorem hostInput_of_takes {s : State} (h : s.TakesInputs) (port : Fin 4) (i : HostIn) (f : State → State) : s.hostInput port i f = f s := by
  obtain ⟨hphase, hoff⟩ := h
  simp [State.hostInput, State.inputRefused, State.logInput, hphase, hoff]

/-! ## Submission queues (R31, R32, R35, R36) -/

theorem sqAt_setSq (s : State) (p q : Nat) (d : SqDesc) : (s.setSq p d).sqAt q = if q = p then d else s.sqAt q := Tab.get_set ..

/-- The test of R35 before the room in the ring: the model's, and that of `rungDesc`. -/
theorem ring_skips_iff (d : SqDesc) (v : Word) :
    (!d.en || ((v.extractLsb' 48 16 : BitVec 16) - d.lastSeq).toNat = 0 || 32768 ≤ ((v.extractLsb' 48 16 : BitVec 16) - d.lastSeq).toNat
        || fld v.toNat 16 32 != 0 || 2 ^ d.log2n.toNat ≤ (v.extractLsb' 0 16 : BitVec 16).toNat) = true ↔
      ¬(d.en = true ∧ v.extractLsb' 16 32 = 0 ∧ 1 ≤ ((v.extractLsb' 48 16 : BitVec 16) - d.lastSeq).toNat ∧
        ((v.extractLsb' 48 16 : BitVec 16) - d.lastSeq).toNat < 32768 ∧ (v.extractLsb' 0 16 : BitVec 16).toNat < 2 ^ d.log2n.toNat) := by
  have hmid : fld v.toNat 16 32 = 0 ↔ v.extractLsb' 16 32 = 0 := by rw [fld_eq_toNat, ← BitVec.toNat_inj]; rfl
  simp only [Bool.or_eq_true, Bool.not_eq_true', decide_eq_true_eq, bne_iff_ne, ne_eq, hmid]
  cases d.en
  · simp
  · simp only [Bool.true_eq_false, false_or, true_and]
    by_cases hm : v.extractLsb' 16 32 = 0
    · simp only [hm, not_true_eq_false, or_false, true_and]
      omega
    · simp only [hm, not_false_eq_true, or_true, true_or, false_and]

/-- R35's rule for a doorbell value. -/
theorem ring_eq_rungDesc (d : SqDesc) (v : Word) : d.ring v = rungDesc d v := by
  have hseq : BitVec.ofNat 16 (v.toNat / 2 ^ 48) = v.extractLsb' 48 16 := by
    apply BitVec.eq_of_toNat_eq
    rw [BitVec.extractLsb'_toNat, BitVec.toNat_ofNat, Nat.shiftRight_eq_div_pow]
  have htail : v.toNat % 2 ^ 16 = (v.extractLsb' 0 16).toNat := by rw [← fld_eq_toNat, fld, Nat.pow_zero, Nat.div_one]
  have hback : BitVec.ofNat 16 (v.extractLsb' 0 16).toNat = v.extractLsb' 0 16 := BitVec.ofNat_toNat .. |>.trans (BitVec.setWidth_eq _)
  unfold SqDesc.ring rungDesc
  simp only [hseq, htail, hback]
  have hused : (d.tail.toNat + 2 ^ d.log2n.toNat - d.head.toNat) % 2 ^ d.log2n.toNat < 2 ^ d.log2n.toNat := Nat.mod_lt _ (Nat.two_pow_pos _)
  split
  case isTrue h => rw [if_neg ((ring_skips_iff d v).mp h)]
  case isFalse h =>
    rw [if_pos (Decidable.not_not.mp (mt (ring_skips_iff d v).mpr h))]
    split
    case isTrue hfull => rw [if_neg (by omega)]
    case isFalse hroom => rw [if_pos (by omega)]

/-- A doorbell value rung twice is one rung once: SEQ has not advanced the second time, or OVERRUN is set already. -/
theorem rungDesc_idem (d : SqDesc) (v : Word) : rungDesc (rungDesc d v) v = rungDesc d v := by
  by_cases hgo : d.en = true ∧ v.extractLsb' 16 32 = 0 ∧ 1 ≤ ((v.extractLsb' 48 16 : BitVec 16) - d.lastSeq).toNat ∧
      ((v.extractLsb' 48 16 : BitVec 16) - d.lastSeq).toNat < 32768 ∧ (v.extractLsb' 0 16 : BitVec 16).toNat < 2 ^ d.log2n.toNat
  · by_cases hroom : (d.tail.toNat + 2 ^ d.log2n.toNat - d.head.toNat) % 2 ^ d.log2n.toNat +
        ((v.extractLsb' 0 16 : BitVec 16).toNat + 2 ^ d.log2n.toNat - d.tail.toNat) % 2 ^ d.log2n.toNat ≤ 2 ^ d.log2n.toNat - 1
    · have h : rungDesc d v = { d with lastSeq := v.extractLsb' 48 16, tail := v.extractLsb' 0 16 } := by
        simp only [rungDesc, if_pos hgo, if_pos hroom]
      rw [h]
      simp [rungDesc]
    · have h : rungDesc d v = { d with overrun := true } := by simp only [rungDesc, if_pos hgo, if_neg hroom]
      rw [h]
      simp only [rungDesc, if_pos hgo, if_neg hroom]
  · have h : rungDesc d v = d := by simp only [rungDesc, if_neg hgo]
    rw [h, h]

/-- A doorbell leaves EN and the place of the mirror as they are. -/
theorem rungDesc_keeps (d : SqDesc) (v : Word) :
    (rungDesc d v).en = d.en ∧ (rungDesc d v).key (rungDesc d v).mirror.toNat = d.key d.mirror.toNat := by
  unfold rungDesc
  simp only []
  split
  · split <;> exact ⟨rfl, rfl⟩
  · exact ⟨rfl, rfl⟩

/-- A submission queue after a reconcile pass: rung with mirror word 0 (R36). -/
def State.reconciled (s : State) (d : SqDesc) : SqDesc := if d.en = true then rungDesc d (s.word (d.key d.mirror.toNat)) else d

theorem reconciled_idem (s : State) (d : SqDesc) : s.reconciled (s.reconciled d) = s.reconciled d := by
  by_cases he : d.en = true
  · have h : s.reconciled d = rungDesc d (s.word (d.key d.mirror.toNat)) := if_pos he
    obtain ⟨hen, hkey⟩ := rungDesc_keeps d (s.word (d.key d.mirror.toNat))
    rw [h, State.reconciled, if_pos (hen.trans he), hkey, rungDesc_idem]
  · have h : s.reconciled d = d := if_neg he
    rw [h, h]

/-- One queue of a reconcile pass: its descriptor alone changes (R36). -/
theorem reconcile_acts {s : State} (h : s.TakesInputs) (q : Nat) :
    (∃ f, s.reconcile q = { s with front := f }) ∧
      ∀ p, (s.reconcile q).sqAt p = if p = q then s.reconciled (s.sqAt p) else s.sqAt p := by
  have hset : s.reconcile q = s ∧ s.reconciled (s.sqAt q) = s.sqAt q ∨ s.reconcile q = s.setSq q (s.reconciled (s.sqAt q)) := by
    unfold State.reconcile State.reconciled
    simp only [ring_eq_rungDesc, hostInput_of_takes h]
    cases he : (s.sqAt q).en
    · simp
    · simp only [Bool.not_true, Bool.false_eq_true, if_false, if_true]
      split
      case isTrue e => exact .inl ⟨rfl, e⟩
      case isFalse => exact .inr rfl
  rcases hset with ⟨e, hsame⟩ | e <;> rw [e]
  · refine ⟨⟨s.front, rfl⟩, fun p => ?_⟩
    split
    case isTrue hp => rw [hp, hsame]
    case isFalse => rfl
  · refine ⟨⟨_, rfl⟩, fun p => ?_⟩
    rw [sqAt_setSq]
    split
    case isTrue hp => rw [hp]
    case isFalse => rfl

theorem reconcile_fold (l : List Nat) (s : State) (h : s.TakesInputs) :
    (∃ f, l.foldl State.reconcile s = { s with front := f }) ∧
      ∀ p, (l.foldl State.reconcile s).sqAt p = if p ∈ l then s.reconciled (s.sqAt p) else s.sqAt p := by
  induction l generalizing s with
  | nil => exact ⟨⟨s.front, rfl⟩, fun p => rfl⟩
  | cons q l ih =>
    obtain ⟨⟨f, hf⟩, hq⟩ := reconcile_acts h q
    have hword : (s.reconcile q).reconciled = s.reconciled := by rw [hf]; rfl
    obtain ⟨⟨f', hf'⟩, hl⟩ := ih (s.reconcile q) (by rw [hf]; exact h)
    refine ⟨⟨f', hf'.trans (by rw [hf])⟩, fun p => (hl p).trans ?_⟩
    rw [hq, hword]
    by_cases hp : p = q <;> by_cases hm : p ∈ l <;> simp [hp, hm, reconciled_idem]

theorem Tab.get_of_not_mem {α : Type} {d : α} {t : Tab α} {i : Nat} (h : i ∉ t.map Prod.fst) : Tab.get d t i = d := by
  induction t with
  | nil => rfl
  | cons e rest ih =>
    rw [List.map_cons, List.mem_cons, not_or] at h
    unfold Tab.get
    rw [if_neg h.1]
    exact ih h.2

/-- RECONCILE_PASS (R36): every queue is rung with its mirror word 0. -/
theorem reconcilePass_acts {s : State} (h : s.TakesInputs) :
    ∃ f, exec .reconcilePass s = .next { s with front := f } ∧ ∀ q, ({ s with front := f } : State).sqAt q = s.reconciled (s.sqAt q) := by
  obtain ⟨⟨f, hf⟩, hq⟩ := reconcile_fold (s.front.sqs.map Prod.fst) s h
  refine ⟨f, congrArg Host.Outcome.next hf, fun q => ?_⟩
  rw [← hf, hq]
  split
  case isTrue => rfl
  case isFalse hno =>
    have hreset : s.sqAt q = SqDesc.reset := Tab.get_of_not_mem hno
    rw [hreset]
    rfl

end Sys2Proof.Machine

end

section

namespace Sys2Proof.Machine

/-! ## Words of a submission queue's descriptor (R31, R32) -/

theorem sqWrite_base (d : SqDesc) (v : Word) : d.write 0 v = if d.en = true then d else { d with base := v } := rfl
theorem sqWrite_rlBase (d : SqDesc) (v : Word) : d.write 2 v = if d.en = true then d else { d with rlBase := v } := rfl
theorem sqWrite_mirror (d : SqDesc) (v : Word) : d.write 6 v = if d.en = true then d else { d with mirror := v } := rfl
theorem sqWrite_pointers (d : SqDesc) (v : Word) : d.write 4 v = d := rfl

theorem sqWrite_rlLog2n (d : SqDesc) (v : Word) : d.write 3 v = if d.en = true then d else { d with rlLog2n := v.extractLsb' 0 5 } := by
  rw [← ofNat_toNat_low]
  rfl

theorem sqWrite_flags (d : SqDesc) (v : Word) :
    d.write 5 v = { d with overrun := d.overrun && !v.getLsbD 17, malform := d.malform && !v.getLsbD 16 } := by
  simp only [SqDesc.write, bit_toNat]

theorem sqWrite_rlHead (d : SqDesc) (v : Word) :
    d.write 7 v = if (v.extractLsb' 0 16).toNat < 2 ^ d.rlLog2n.toNat then { d with rlHead := v.extractLsb' 0 16 } else d := by
  have h : v.toNat % 2 ^ 16 = (v.extractLsb' 0 16).toNat := by rw [← fld_eq_toNat, fld, Nat.pow_zero, Nat.div_one]
  simp only [SqDesc.write, h, ofNat_toNat_low]

theorem sqWrite_control_enabled {d : SqDesc} (h : d.en = true) (v : Word) :
    d.write 1 v = { d with en := v.getLsbD 54, vec := v.extractLsb' 0 11 } := by
  simp only [SqDesc.write, h, if_true, bit_toNat, ofNat_toNat_low]

/-- Are the sizes of a queue and of its refusal log, as an enabling write would leave them, in range (R31). -/
def SqDesc.sizesOk (d : SqDesc) (v : Word) : Prop :=
  4 ≤ (v.extractLsb' 56 5).toNat ∧ (v.extractLsb' 56 5).toNat ≤ 16 ∧ 4 ≤ d.rlLog2n.toNat ∧ d.rlLog2n.toNat ≤ 16

/-- A descriptor with the fields of its control word stored, EN apart (R31). -/
def SqDesc.stored (d : SqDesc) (v : Word) : SqDesc :=
  { d with log2n := v.extractLsb' 56 5, loc := v.getLsbD 55, pd := v.extractLsb' 32 12, vec := v.extractLsb' 0 11 }

/-- The test of an enabling write: the model's, and `SqDesc.sizesOk`. -/
theorem sqControl_ok_iff (d : SqDesc) (v : Word) :
    (decide (4 ≤ (v.extractLsb' 56 5).toNat) && decide ((v.extractLsb' 56 5).toNat ≤ 16) && decide (4 ≤ d.rlLog2n.toNat)
      && decide (d.rlLog2n.toNat ≤ 16)) = true ↔ d.sizesOk v := by
  simp only [SqDesc.sizesOk, Bool.and_eq_true, decide_eq_true_eq, and_assoc]

theorem sqWrite_control_ok {d : SqDesc} {v : Word} (h : d.en = false) (he : v.getLsbD 54 = true) (hok : d.sizesOk v) :
    d.write 1 v = { d.stored v with en := true, lastSeq := 0, tail := 0, head := 0, rlHead := 0, rlTail := 0 } := by
  simp only [SqDesc.write, SqDesc.stored, h, he, bit_toNat, ofNat_fld, ofNat_toNat_low, (sqControl_ok_iff d v).mpr hok, Bool.false_eq_true,
    if_false, if_true, Bool.not_true]

theorem sqWrite_control_bad {d : SqDesc} {v : Word} (h : d.en = false) (he : v.getLsbD 54 = true) (hbad : ¬d.sizesOk v) :
    d.write 1 v = { d.stored v with malform := true } := by
  have hno := Bool.eq_false_iff.mpr (mt (sqControl_ok_iff d v).mp hbad)
  simp only [SqDesc.write, SqDesc.stored, h, he, bit_toNat, ofNat_fld, ofNat_toNat_low, hno, Bool.false_eq_true, if_false, Bool.not_true]

theorem sqAt_writeSq (s : State) (q k : Nat) (v : Word) (p : Nat) :
    (s.writeSq q k v).sqAt p = if p = q then (s.sqAt q).write k v else s.sqAt p := by
  unfold State.writeSq
  simp only []
  split <;> split <;> exact sqAt_setSq ..

/-- Setting EN of a queue that is not empty writes mirror word 1 (R32). -/
theorem writeSq_mirror {s : State} {q k : Nat} {v : Word} (hen : (s.sqAt q).en = false) (hset : ((s.sqAt q).write k v).en = true)
    (hfull : (s.sqAt q).head ≠ (s.sqAt q).tail) :
    readLE (s.writeSq q k v).mem (((s.sqAt q).write k v).key (((s.sqAt q).write k v).mirror.toNat + 8)) 8 = 0 := by
  have hc : (!(s.sqAt q).en && ((s.sqAt q).write k v).en && (s.sqAt q).head != (s.sqAt q).tail) = true := by simp [hen, hset, hfull]
  unfold State.writeSq
  simp only [hc, if_true]
  exact readLE_writeCells_le ..

theorem sqDescriptorWrite_acts {s : State} (h : s.TakesInputs) (q : Fin 4096) (k : Fin 8) (v : Word) :
    exec (.sqDescriptorWrite q k v) s = .next (s.writeSq q.val k.val v) :=
  congrArg Host.Outcome.next (hostInput_of_takes h ..)

/-! ## Words of a completion queue's descriptor (R377, R379) -/

theorem cqWrite_base (d : CqDesc) (v : Word) : d.write 0 v = if d.en = true then d else { d with base := v } := rfl

theorem cqWrite_flags (d : CqDesc) (v : Word) : d.write 2 v = { d with malform := d.malform && !v.getLsbD 18 } := by
  simp only [CqDesc.write, bit_toNat]

theorem cqWrite_pd (d : CqDesc) (v : Word) : d.write 3 v = if d.en = true then d else { d with pd := v.extractLsb' 32 12 } := by
  simp only [CqDesc.write, ofNat_fld]

theorem cqWrite_control_enabled {d : CqDesc} (h : d.en = true) (v : Word) : d.write 1 v = { d with en := v.getLsbD 55 } := by
  simp only [CqDesc.write, h, if_true, bit_toNat]

/-- Is the size of a completion queue, or one of its interrupt limits, out of range (R377, R380). -/
def cqControlBad (v : Word) : Prop :=
  (v.extractLsb' 56 5).toNat < 4 ∨ 16 < (v.extractLsb' 56 5).toNat ∨ v.extractLsb' 40 8 = 0 ∨ v.extractLsb' 32 8 = 0 ∨
    64 < (v.extractLsb' 32 8).toNat

/-- A completion queue's descriptor with the fields of its control word stored, EN apart (R377). -/
def CqDesc.stored (d : CqDesc) (v : Word) : CqDesc :=
  { d with log2n := v.extractLsb' 56 5, pnote := v.getLsbD 54, cn := v.extractLsb' 40 8, ct := v.extractLsb' 32 8, vec := v.extractLsb' 0 11 }

/-- The test of an enabling write: the model's, and `cqControlBad`. -/
theorem cqControl_ok_iff (v : Word) :
    (decide (4 ≤ (v.extractLsb' 56 5).toNat) && decide ((v.extractLsb' 56 5).toNat ≤ 16) && v.extractLsb' 40 8 != 0 && v.extractLsb' 32 8 != 0
      && decide ((v.extractLsb' 32 8).toNat ≤ 64)) = true ↔ ¬cqControlBad v := by
  simp only [cqControlBad, Bool.and_eq_true, decide_eq_true_eq, bne_iff_ne, not_or, Nat.not_lt, and_assoc]

theorem cqWrite_control_ok {d : CqDesc} {v : Word} (h : d.en = false) (he : v.getLsbD 55 = true) (hok : ¬cqControlBad v) :
    d.write 1 v = { d.stored v with en := true, tail := 0, head := 0, phase := true } := by
  simp only [CqDesc.write, CqDesc.stored, h, he, bit_toNat, ofNat_fld, ofNat_toNat_low, (cqControl_ok_iff v).mpr hok, Bool.false_eq_true,
    if_false, if_true, Bool.not_true]

theorem cqWrite_control_bad {d : CqDesc} {v : Word} (h : d.en = false) (he : v.getLsbD 55 = true) (hbad : cqControlBad v) :
    d.write 1 v = { d.stored v with malform := true } := by
  have hno := Bool.eq_false_iff.mpr (mt (cqControl_ok_iff v).mp (fun hno => hno hbad))
  simp only [CqDesc.write, CqDesc.stored, h, he, bit_toNat, ofNat_fld, ofNat_toNat_low, hno, Bool.false_eq_true, if_false, Bool.not_true]

/-- A written word of a completion queue's descriptor makes no record due or held. -/
theorem cqWrite_records (d : CqDesc) (k : Nat) (v : Word) : (d.write k v).due = d.due ∧ (d.write k v).held = d.held := by
  unfold CqDesc.write
  split
  · split <;> exact ⟨rfl, rfl⟩
  · split
    · exact ⟨rfl, rfl⟩
    · simp only []
      split
      · exact ⟨rfl, rfl⟩
      · split <;> exact ⟨rfl, rfl⟩
  · exact ⟨rfl, rfl⟩
  · split <;> exact ⟨rfl, rfl⟩
  · exact ⟨rfl, rfl⟩

/-- A completion queue without records takes a changed descriptor as it is. -/
theorem setCq_drain {s : State} {q : Nat} {d : CqDesc} (hd : d.due = []) (hh : d.held = []) : (s.setCq q d).drain q = s.setCq q d := by
  have hq : (s.setCq q d).cqAt q = d := (cqAt_setCq ..).trans (if_pos rfl)
  exact drain_of_empty (by rw [hq, hd]) (by rw [hq, hh])

theorem cqDescriptorWrite_acts {s : State} (h : s.TakesInputs) (q : Fin 4096) (k : Fin 8) (v : Word) (hd : (s.cqAt q.val).due = [])
    (hh : (s.cqAt q.val).held = []) :
    exec (.cqDescriptorWrite q k v) s = .next (s.setCq q.val ((s.cqAt q.val).write k.val v)) := by
  obtain ⟨hdue, hheld⟩ := cqWrite_records (s.cqAt q.val) k.val v
  change execCqDescriptorWrite q k v s = _
  rw [execCqDescriptorWrite, hostInput_of_takes h, State.writeCq, setCq_drain (hdue.trans hd) (hheld.trans hh)]

theorem cqHeadDoorbell_acts {s : State} (h : s.TakesInputs) (q : Fin 4096) (v : Word) (hd : (s.cqAt q.val).due = [])
    (hh : (s.cqAt q.val).held = []) :
    exec (.cqHeadDoorbell q v) s = .next
      (if v.toNat < 2 ^ 16 ∧ v.toNat < 2 ^ (s.cqAt q.val).log2n.toNat then
        s.setCq q.val { s.cqAt q.val with head := v.extractLsb' 0 16 } else s) := by
  change execCqHeadDoorbell q v s = _
  rw [execCqHeadDoorbell, hostInput_of_takes h, State.cqHead]
  simp only [Bool.and_eq_true, decide_eq_true_eq, ofNat_toNat_low]
  rw [setCq_drain (d := { s.cqAt q.val with head := v.extractLsb' 0 16 }) hd hh]

end Sys2Proof.Machine

end

section

namespace Sys2Proof.Machine

/-! ## Host writes to the Light List (R7, R8) -/

/-- The words of an entry that hold no writable field (R8). -/
theorem ctxWritable_iff {k : Nat} (hk : k < 64) : ctxWritable k = true ↔ ¬(k = 0 ∨ k = 5 ∨ k = 6 ∨ (17 ≤ k ∧ k ≤ 31)) := by
  simp only [ctxWritable, Bool.or_eq_true, Bool.and_eq_true, decide_eq_true_eq]
  omega

theorem hostWrites_iff (x : Ctx) : x.hostWrites = true ↔ x.st = .free ∨ x.st = .faulted ∨ (x.st = .parked ∧ x.reason = .host) := by
  unfold Ctx.hostWrites
  split <;> simp_all

theorem ctxWrite_hostArea {k : Nat} (h : 32 ≤ k) (x : Ctx) (v : Word) :
    x.write k v = { x with hostArea := Tab.set 0 x.hostArea (k - 32) v } := by
  unfold Ctx.write
  split
  case h_15 => exact if_pos h
  all_goals omega

theorem ctxWord_hostArea {j : Nat} (h : 32 ≤ j) (x : Ctx) (i : Nat) : x.word i j = (Tab.get 0 x.hostArea (j - 32)).toNat := by
  unfold Ctx.word
  split
  case h_22 => exact if_pos h
  all_goals omega

/-- The words below the host's area do not depend on it. -/
theorem ctxWord_low {j : Nat} (h : j < 32) (x : Ctx) (t : Tab Word) (i : Nat) : ({ x with hostArea := t } : Ctx).word i j = x.word i j := by
  unfold Ctx.word
  split
  case h_22 => rw [if_neg (by omega), if_neg (by omega)]
  all_goals rfl

/-- A write of one word of an entry changes no other word (R7, R8). -/
theorem ctxWord_write_other (x : Ctx) (k : Nat) (v : Word) (i j : Nat) (hj : j ≠ k) : (x.write k v).word i j = x.word i j := by
  by_cases hk : 32 ≤ k
  · rw [ctxWrite_hostArea hk]
    by_cases hlow : j < 32
    · exact ctxWord_low hlow ..
    · rw [ctxWord_hostArea (by omega), ctxWord_hostArea (by omega), Tab.get_set, if_neg (by omega)]
  · unfold Ctx.write
    split
    case h_15 => rw [if_neg hk]
    all_goals
      unfold Ctx.word
      split <;> simp_all

/-- A word with one field for the whole of it reads back as written (R8). -/
theorem ctxWord_write_same (x : Ctx) {k : Nat} (v : Word) (i : Nat)
    (hk : k = 2 ∨ k = 3 ∨ k = 4 ∨ k = 8 ∨ (11 ≤ k ∧ k ≤ 16) ∨ 32 ≤ k) : (x.write k v).word i k = v.toNat := by
  rcases hk with rfl | rfl | rfl | rfl | ⟨hlo, hhi⟩ | hk
  · rfl
  · rfl
  · rfl
  · rfl
  · have hcases : k = 11 ∨ k = 12 ∨ k = 13 ∨ k = 14 ∨ k = 15 ∨ k = 16 := by omega
    rcases hcases with rfl | rfl | rfl | rfl | rfl | rfl <;> rfl
  · rw [ctxWrite_hostArea hk, ctxWord_hostArea hk, Tab.get_set, if_pos rfl]

theorem ctxWrite_gen (x : Ctx) (k : Nat) (v : Word) : (x.write k v).gen = x.gen := by
  unfold Ctx.write
  split
  case h_15 => split <;> rfl
  all_goals rfl

/-- Word 1 holds PRIO, SHD and PD. -/
theorem ctxWrite_domain (x : Ctx) (v : Word) :
    (x.write 1 v).prio.val = (v.extractLsb' 32 3).toNat ∧ (x.write 1 v).shd = v.extractLsb' 16 12 ∧ (x.write 1 v).pd = v.extractLsb' 0 12 := by
  refine ⟨?_, ofNat_fld v 16 12, ofNat_toNat_low v 12⟩
  rw [← fld_eq_toNat]
  exact Nat.mod_eq_of_lt (Nat.mod_lt _ (by decide))

theorem ctxWrite_accepted (x : Ctx) (v : Word) : (x.write 7 v).accepted = v.extractLsb' 0 32 ∧ (x.write 7 v).lineage = x.lineage :=
  ⟨ofNat_toNat_low v 32, rfl⟩

theorem ctxWrite_nflags (x : Ctx) (v : Word) : (x.write 9 v).nflags = x.nflags &&& ~~~(v.extractLsb' 0 8) :=
  congrArg (fun f => x.nflags &&& ~~~f) (ofNat_toNat_low v 8)

theorem ctxWrite_sets (x : Ctx) (v : Word) : (x.write 10 v).probeSet = v.extractLsb' 8 8 ∧ (x.write 10 v).steerEn = v.getLsbD 7 ∧
    (x.write 10 v).steerSet = v.extractLsb' 0 6 :=
  ⟨ofNat_fld v 8 8, bit_toNat v 7, ofNat_toNat_low v 6⟩

/-- The state with a word of a context written where its state allows it, and the HINT of a new WAKE (R7, R227). -/
theorem lightWrite_acts {s : State} {i k : Nat} (hk : ctxWritable k = true) (hx : (s.ctxAt i).hostWrites = true) (v : Word) :
    (∀ j, (s.lightWrite i k v).ctxAt j = if j = i then (s.ctxAt i).write k v else s.ctxAt j) ∧
    (k = 3 → (s.lightWrite i k v).tenderQ[ctxDie (handleOf i (s.ctxAt i)).toNat] =
      (s.tenderQ[ctxDie (handleOf i (s.ctxAt i)).toNat]).put s.wakeNo (.hint (handleOf i (s.ctxAt i)).toNat v)) ∧
    (k ≠ 3 → (s.lightWrite i k v).tenderQ = s.tenderQ) := by
  have hw : s.lightWrite i k v = if k = 3 then (s.setCtx i ((s.ctxAt i).write k v)).hintWake i v else s.setCtx i ((s.ctxAt i).write k v) := by
    simp [State.lightWrite, hk, hx]
  have hh : handleOf i ((s.setCtx i ((s.ctxAt i).write k v)).ctxAt i) = handleOf i (s.ctxAt i) := by
    rw [ctxAt_setCtx, if_pos rfl, handleOf, ctxWrite_gen, handleOf]
  rw [hw]
  by_cases h3 : k = 3
  · rw [if_pos h3]
    refine ⟨fun j => ctxAt_setCtx .., fun _ => ?_, fun hne => absurd h3 hne⟩
    unfold State.hintWake
    rw [hh]
    exact Vector.getElem_set_self ..
  · rw [if_neg h3]
    exact ⟨fun j => ctxAt_setCtx .., fun e => absurd e h3, fun _ => rfl⟩

theorem lightWrite_of_readOnly {s : State} {i k : Nat} (hk : ctxWritable k = false) (v : Word) : s.lightWrite i k v = s := by
  simp [State.lightWrite, hk]

theorem lightWrite_discards {s : State} {i k : Nat} (hk : ctxWritable k = true) (hx : (s.ctxAt i).hostWrites = false) (v : Word) :
    s.lightWrite i k v = { s with mgmt := { s.mgmt with lightDiscards := s.mgmt.lightDiscards + 1 } } := by
  simp [State.lightWrite, hk, hx]

theorem lightListWrite_acts {s : State} (h : s.TakesInputs) (i : Fin 131072) (k : Fin 64) (v : Word) :
    exec (.lightListWrite i k v) s = .next (s.lightWrite i.val k.val v) :=
  congrArg Host.Outcome.next (hostInput_of_takes h ..)

end Sys2Proof.Machine

end

section

namespace Sys2Proof.Machine

/-! ## Little-endian writes in parts -/

theorem leCells_add (key a b w : Nat) : leCells key (a + b) w = leCells key a w ++ leCells (key + a) b (w / 256 ^ a) := by
  induction a generalizing key w with
  | zero => simp [leCells]
  | succ a ih =>
    rw [Nat.succ_add, leCells, ih, leCells, List.cons_append, Nat.div_div_eq_div_mul, ← Nat.pow_succ', Nat.add_assoc key 1 a,
      Nat.add_comm 1 a]

/-- A write elsewhere leaves a little-endian number as it was. -/
theorem readLE_writeCells_apart (m : Memory) {key n key' n' : Nat} (w : Nat) (h : key + n ≤ key' ∨ key' + n' ≤ key) :
    readLE (writeCells m (leCells key' n' w)) key n = readLE m key n :=
  readLE_congr n m _ key fun j h1 h2 => readByte_writeCells_le m key' n' w j (by omega)

/-- A part of a little-endian write reads back as that part of the number. -/
theorem readLE_writeCells_part (m : Memory) (key w a b c : Nat) :
    readLE (writeCells m (leCells key (a + (b + c)) w)) (key + a) b = w / 256 ^ a % 256 ^ b := by
  rw [leCells_add key a (b + c), leCells_add (key + a) b c, writeCells_append, writeCells_append,
    readLE_writeCells_apart _ _ (Or.inl (Nat.le_refl _)), readLE_writeCells_le]

/-! ## Records refused and passed (R32, R37, R40) -/

/-- HEAD passes a record: mirror word 1 is written, and only the front end and the words that might be read late change besides. -/
theorem passRec_acts (s : State) (q : Nat) :
    (∃ st fr p f, s.passRec q = { s with
      mem := writeCells s.mem (leCells ((s.sqAt q).key ((s.sqAt q).mirror.toNat + 8)) 8
        (((s.sqAt q).head.toNat + 1) % 2 ^ (s.sqAt q).log2n.toNat)), poison := p, stale := st, fresh := fr, front := f }) ∧
    (s.passRec q).front.served = q ∧
    (s.passRec q).sqAt q = { s.sqAt q with head := BitVec.ofNat 16 (((s.sqAt q).head.toNat + 1) % 2 ^ (s.sqAt q).log2n.toNat) } := by
  unfold State.passRec
  simp only []
  generalize leCells (SqDesc.key _ _) 8 _ = cells
  split
  · exact ⟨⟨_, _, _, _, rfl⟩, trivial, (sqAt_setSq ..).trans (if_pos rfl)⟩
  · exact ⟨⟨_, _, _, _, rfl⟩, trivial, (sqAt_setSq ..).trans (if_pos rfl)⟩

/-- What the pass of a record leaves alone. -/
theorem passRec_frame (s : State) (q : Nat) : (s.passRec q).lan = s.lan ∧ (s.passRec q).tenderQ = s.tenderQ ∧
    (s.passRec q).insts = s.insts ∧ (s.passRec q).msix = s.msix := by
  obtain ⟨⟨st, fr, p, f, h⟩, -, -⟩ := passRec_acts s q
  rw [h]
  exact ⟨rfl, rfl, rfl, rfl⟩

theorem passRec_mem (s : State) (q : Nat) : (s.passRec q).mem = writeCells s.mem
    (leCells ((s.sqAt q).key ((s.sqAt q).mirror.toNat + 8)) 8 (((s.sqAt q).head.toNat + 1) % 2 ^ (s.sqAt q).log2n.toNat)) := by
  obtain ⟨⟨st, fr, p, f, h⟩, -, -⟩ := passRec_acts s q
  rw [h]

/-- Mirror word 1 reads as the new HEAD once a record has been passed (R32). -/
theorem passRec_mirror (s : State) (q : Nat) :
    readLE (s.passRec q).mem ((s.sqAt q).key ((s.sqAt q).mirror.toNat + 8)) 8 =
      ((s.sqAt q).head.toNat + 1) % 2 ^ (s.sqAt q).log2n.toNat := by
  have hlog : (s.sqAt q).log2n.toNat ≤ 31 := Nat.le_of_lt_succ (s.sqAt q).log2n.isLt
  have hlt : ((s.sqAt q).head.toNat + 1) % 2 ^ (s.sqAt q).log2n.toNat < 256 ^ 8 :=
    Nat.lt_of_lt_of_le (Nat.mod_lt _ (Nat.two_pow_pos _)) (Nat.le_trans (Nat.pow_le_pow_right (by decide) hlog) (by decide))
  rw [passRec_mem, readLE_writeCells_le, Nat.mod_eq_of_lt hlt]

/-- Is a queue's refusal log full (R40). -/
def SqDesc.rlFull (d : SqDesc) : Prop := (d.rlTail.toNat + 1) % 2 ^ d.rlLog2n.toNat = d.rlHead.toNat

/-- A refusal signals the queue's vector and changes no context, message or instance (R40). -/
theorem refuse_acts (s : State) (q code elem tag ctx idx : Nat) :
    (∃ m p f, s.refuse q code elem tag ctx idx = { s with
      mem := m, poison := p, front := f, msix := s.msix ++ [(q / 1024, (s.sqAt q).vec.toNat)] }) ∧
    ((s.sqAt q).rlFull → (s.refuse q code elem tag ctx idx).sqAt q = { s.sqAt q with rlLost := (s.sqAt q).rlLost + 1 }) ∧
    (¬(s.sqAt q).rlFull →
      (s.refuse q code elem tag ctx idx).sqAt q =
        { s.sqAt q with rlTail := BitVec.ofNat 16 (((s.sqAt q).rlTail.toNat + 1) % 2 ^ (s.sqAt q).rlLog2n.toNat) } ∧
      (s.refuse q code elem tag ctx idx).mem = writeCells s.mem
        (leCells (hostKey ((s.sqAt q).rlBase.toNat + 16 * (s.sqAt q).rlTail.toNat)) 16
          (code * 2 ^ 56 + elem * 2 ^ 32 + tag + (ctx * 2 ^ 32 + idx) * 2 ^ 64))) := by
  unfold State.refuse SqDesc.rlFull
  simp only []
  generalize leCells (hostKey _) 16 _ = cells
  split
  case isTrue h => exact ⟨⟨_, _, _, rfl⟩, fun _ => (sqAt_setSq ..).trans (if_pos rfl), fun hno => absurd h hno⟩
  case isFalse h => exact ⟨⟨_, _, _, rfl⟩, fun hf => absurd hf h, fun _ => ⟨(sqAt_setSq ..).trans (if_pos rfl), rfl⟩⟩

/-- A refusal leaves HEAD, the ring's size and the place of the mirror as they are. -/
theorem refuse_ring (s : State) (q code elem tag ctx idx : Nat) :
    ((s.refuse q code elem tag ctx idx).sqAt q).head = (s.sqAt q).head ∧
    ((s.refuse q code elem tag ctx idx).sqAt q).log2n = (s.sqAt q).log2n ∧
    ((s.refuse q code elem tag ctx idx).sqAt q).key = (s.sqAt q).key ∧
    ((s.refuse q code elem tag ctx idx).sqAt q).mirror = (s.sqAt q).mirror := by
  obtain ⟨-, hfull, hroom⟩ := refuse_acts s q code elem tag ctx idx
  by_cases h : (s.sqAt q).rlFull
  · rw [hfull h]; exact ⟨rfl, rfl, rfl, rfl⟩
  · rw [(hroom h).1]; exact ⟨rfl, rfl, rfl, rfl⟩

/-- The record of a refusal in the log, word by word (R40). -/
theorem refusal_words (m : Memory) {key code tag idx : Nat} (hc : code ≤ 2) (ht : tag < 2 ^ 32) (hi : idx < 2 ^ 16) :
    let m' := writeCells m (leCells key 16 (code * 2 ^ 56 + 0xFFFF * 2 ^ 32 + tag + (0 * 2 ^ 32 + idx) * 2 ^ 64))
    readLE m' key 8 = (code * 2 ^ 56 + 0xFFFF * 2 ^ 32 + tag) % 2 ^ 64 ∧ readLE m' (key + 8) 8 = idx := by
  refine ⟨(readLE_writeCells_part m key _ 0 8 8).trans ?_, (readLE_writeCells_part m key _ 8 8 0).trans ?_⟩ <;> omega

/-- A write apart from it leaves the record of a refusal as it was. -/
theorem refusal_survives (m : Memory) {key code tag idx key' : Nat} (hc : code ≤ 2) (ht : tag < 2 ^ 32) (hi : idx < 2 ^ 16)
    (h : key + 16 ≤ key' ∨ key' + 8 ≤ key) (w : Nat) :
    let m' := writeCells (writeCells m (leCells key 16 (code * 2 ^ 56 + 0xFFFF * 2 ^ 32 + tag + (0 * 2 ^ 32 + idx) * 2 ^ 64))) (leCells key' 8 w)
    readLE m' key 8 = (code * 2 ^ 56 + 0xFFFF * 2 ^ 32 + tag) % 2 ^ 64 ∧ readLE m' (key + 8) 8 = idx := by
  obtain ⟨hlow, hhigh⟩ := refusal_words m (key := key) hc ht hi
  have hbelow : key + 8 ≤ key' ∨ key' + 8 ≤ key := by omega
  have habove : key + 8 + 8 ≤ key' ∨ key' + 8 ≤ key + 8 := by omega
  exact ⟨(readLE_writeCells_apart _ w hbelow).trans hlow, (readLE_writeCells_apart _ w habove).trans hhigh⟩

/-- The codes of a whole record's refusal before its graph is read (R39, R40). -/
theorem checkRec_code {s : State} {q : Nat} {r : SubRec} {code : Nat} (h : s.checkRec q r = some code) : code ≤ 2 := by
  unfold State.checkRec at h
  simp only [] at h
  split at h
  · obtain rfl := Option.some.inj h
    decide
  · obtain ⟨-, e⟩ := Option.ite_none_right_eq_some.mp h
    obtain rfl := Option.some.inj e
    decide

theorem headRec_tag (s : State) (q : Nat) : (s.headRec q).tag < 2 ^ 32 := Nat.mod_lt _ (Nat.two_pow_pos _)

/-! ## Records taken (R37, R39) -/

theorem launch_takes {s : State} {q : Nat} (hp : s.mgmt.phase = .run) (hq : s.nextQueue = some q) (ht : (s.headRec q).type ≠ 2) :
    exec .launch s = .next (s.takeRec q (s.headRec q)) := by
  change execLaunch s = _
  simp [execLaunch, State.takeNext, hp, hq, ht]

theorem release_takes {s : State} {q : Nat} (hp : s.mgmt.phase = .run) (hq : s.nextQueue = some q) (ht : (s.headRec q).type = 2) :
    exec .release s = .next (s.takeRec q (s.headRec q)) := by
  change execRelease s = _
  simp [execRelease, State.takeNext, hp, hq, ht]

theorem takeRec_refuses {s : State} {q code : Nat} {r : SubRec} (h : s.checkRec q r = some code) :
    s.takeRec q r = (s.refuse q code 0xFFFF r.tag 0 (s.sqAt q).head.toNat).passRec q := by
  unfold State.takeRec
  rw [h]

theorem elems_one {s : State} {q : Nat} {r : SubRec} (h : r.nctx = 1) :
    s.elems q r = [(0, s.listElem q (s.sqAt q).pd r.list 0)] := by
  simp [State.elems, h]

/-- A record that passes its own checks, and is a RELEASE. -/
theorem takeRec_of_release {s : State} {q : Nat} {r : SubRec} (ht : r.type = 2) (hc : s.checkRec q r = none) :
    s.takeRec q r = ((s.elems q r).foldl (fun u e => u.releaseElem q r (s.sqAt q).head.toNat e.1 e.2) s).passRec q := by
  unfold State.takeRec
  rw [hc]
  exact if_pos ht

theorem takeRec_of_launch {s u : State} {q : Nat} {r : SubRec} {g : GraphEntry} (ht : r.type ≠ 2) (hc : s.checkRec q r = none)
    (hg : s.useGraph (s.sqAt q).pd r.graph = .ok (u, g)) :
    s.takeRec q r = ((s.elems q r).foldl (fun u e => u.launchElem q r g.id (s.sqAt q).head.toNat e.1 e.2) u).passRec q := by
  unfold State.takeRec
  rw [hc]
  simp only []
  rw [if_neg ht, hg]

/-- A RELEASE of one context (R39). -/
theorem takeRec_releases {s : State} {q : Nat} {r : SubRec} (ht : r.type = 2) (hc : s.checkRec q r = none) (hn : r.nctx = 1) :
    s.takeRec q r = (s.releaseElem q r (s.sqAt q).head.toNat 0 (s.listElem q (s.sqAt q).pd r.list 0)).passRec q := by
  rw [takeRec_of_release ht hc, elems_one hn, List.foldl_cons, List.foldl_nil]

theorem useGraph_of_find {s : State} {pd : BitVec 12} {a : Word} {g : GraphEntry}
    (hg : (s.lan.graphs.find? fun g => g.pd = pd && g.addr = a) = some g) : s.useGraph pd a = .ok (s.nameGraph pd a, g) := by
  unfold State.useGraph
  rw [hg]

/-- A LAUNCH of one context under a graph of the table (R38, R39). -/
theorem takeRec_launches {s : State} {q : Nat} {r : SubRec} {g : GraphEntry} (ht : r.type ≠ 2) (hc : s.checkRec q r = none) (hn : r.nctx = 1)
    (hg : (s.lan.graphs.find? fun g => g.pd = (s.sqAt q).pd && g.addr = r.graph) = some g) :
    s.takeRec q r = ((s.nameGraph (s.sqAt q).pd r.graph).launchElem q r g.id (s.sqAt q).head.toNat 0
      (s.listElem q (s.sqAt q).pd r.list 0)).passRec q := by
  rw [takeRec_of_launch ht hc (useGraph_of_find hg), elems_one hn, List.foldl_cons, List.foldl_nil]

end Sys2Proof.Machine

end

section

namespace Sys2Proof.Machine

/-! ## A refused record (R39, R40) -/

/-- The refusal of a whole record, and HEAD past it (R32, R40). -/
theorem refused_passes (s : State) (q code elem tag ctx idx : Nat) :
    let t := (s.refuse q code elem tag ctx idx).passRec q
    t.lan = s.lan ∧ t.tenderQ = s.tenderQ ∧ t.front.served = q ∧ t.msix = s.msix ++ [(q / 1024, (s.sqAt q).vec.toNat)] ∧
      (t.sqAt q).head = BitVec.ofNat 16 (((s.sqAt q).head.toNat + 1) % 2 ^ (s.sqAt q).log2n.toNat) := by
  obtain ⟨⟨m, p, f, hu⟩, -, -⟩ := refuse_acts s q code elem tag ctx idx
  obtain ⟨hhead, hlog, -, -⟩ := refuse_ring s q code elem tag ctx idx
  obtain ⟨-, hserved, hsq⟩ := passRec_acts (s.refuse q code elem tag ctx idx) q
  obtain ⟨hlan, htender, -, hmsix⟩ := passRec_frame (s.refuse q code elem tag ctx idx) q
  rw [hu] at hlan htender hmsix
  rw [hhead, hlog] at hsq
  exact ⟨hu ▸ hlan, hu ▸ htender, hserved, hu ▸ hmsix, by rw [hsq]⟩

/-- The refusal log after the refusal of a whole record and HEAD past it: full, it counts the loss (R40). -/
theorem refused_log_full {s : State} {q : Nat} (h : (s.sqAt q).rlFull) (code elem tag ctx idx : Nat) :
    (((s.refuse q code elem tag ctx idx).passRec q).sqAt q).rlLost = (s.sqAt q).rlLost + 1 ∧
    (((s.refuse q code elem tag ctx idx).passRec q).sqAt q).rlTail = (s.sqAt q).rlTail := by
  rw [(passRec_acts (s.refuse q code elem tag ctx idx) q).2.2, (refuse_acts s q code elem tag ctx idx).2.1 h]
  exact ⟨rfl, rfl⟩

/-- Where the refusal log has room, it holds the refusal, as long as mirror word 1 lies apart from it (R40). -/
theorem refused_log {s : State} {q code tag : Nat} (hc : code ≤ 2) (htag : tag < 2 ^ 32) (h : ¬(s.sqAt q).rlFull) {key key' : Nat}
    (hkey : hostKey ((s.sqAt q).rlBase.toNat + 16 * (s.sqAt q).rlTail.toNat) = key)
    (hkey' : (s.sqAt q).key ((s.sqAt q).mirror.toNat + 8) = key') :
    (((s.refuse q code 0xFFFF tag 0 (s.sqAt q).head.toNat).passRec q).sqAt q).rlTail =
      BitVec.ofNat 16 (((s.sqAt q).rlTail.toNat + 1) % 2 ^ (s.sqAt q).rlLog2n.toNat) ∧
    (key + 16 ≤ key' ∨ key' + 8 ≤ key →
      readLE ((s.refuse q code 0xFFFF tag 0 (s.sqAt q).head.toNat).passRec q).mem key 8 =
        (code * 2 ^ 56 + 0xFFFF * 2 ^ 32 + tag) % 2 ^ 64 ∧
      readLE ((s.refuse q code 0xFFFF tag 0 (s.sqAt q).head.toNat).passRec q).mem (key + 8) 8 = (s.sqAt q).head.toNat) := by
  obtain ⟨hsq, hmem⟩ := (refuse_acts s q code 0xFFFF tag 0 (s.sqAt q).head.toNat).2.2 h
  obtain ⟨-, -, hloc, hmirror⟩ := refuse_ring s q code 0xFFFF tag 0 (s.sqAt q).head.toNat
  refine ⟨by rw [(passRec_acts _ q).2.2, hsq], fun hapart => ?_⟩
  rw [passRec_mem, hloc, hmirror, hmem, hkey, hkey']
  exact refusal_survives s.mem hc htag (s.sqAt q).head.isLt hapart _

/-! ## Contexts admitted and freed (R11, R12, R34, R39) -/

theorem raise_rest (s : State) (ready : List (Nat × Ctx)) (pd : BitVec 12) (c : Fin 8) :
    ∃ l, Lantern.raise s ready pd c = { s with lan := l } := ⟨_, rfl⟩

theorem normalise_rest (s : State) : ∃ l, s.normalise = { s with lan := l } := ⟨_, rfl⟩

/-- A row that enters the pool changes the Lantern, and nothing else. -/
theorem poolRow_rest (s : State) (i entry : Nat) : ∃ l, s.poolRow i entry = { s with lan := l } := by
  unfold State.poolRow
  obtain ⟨l, hraise⟩ := raise_rest s s.readyRows (s.ctxAt i).pd (s.ctxAt i).prio
  obtain ⟨l', hnorm⟩ := normalise_rest
    (((Lantern.raise s s.readyRows (s.ctxAt i).pd (s.ctxAt i).prio).toState i .ready .none).modCtx i fun x =>
      { x with entry := entry, aged := false })
  exact ⟨l', hnorm.trans (by rw [hraise]; rfl)⟩

/-- A context that a launch takes is in a state that takes one (R11, R39). -/
theorem launchAs_of_checkLaunch {s : State} {pd : BitVec 12} {g : BitVec 32} {e : ListElem} (h : s.checkLaunch pd g e = none) :
    (s.ctxAt (ctxIndex e.ctx)).launchAs ≠ .refused := by
  intro hr
  unfold State.checkLaunch at h
  simp only [hr, if_true] at h
  split at h
  · cases h
  · split at h <;> cases h

theorem launchAs_anew {x : Ctx} (h : x.st = .free ∨ (x.st = .parked ∧ x.reason = .host)) : x.launchAs = .anew := by
  unfold Ctx.launchAs
  rcases h with h | ⟨h, hr⟩
  · rw [h]
  · rw [h, hr]

theorem launchAs_again {x : Ctx} (h : x.st = .faulted ∨ (x.st = .parked ∧ x.reason ≠ .host)) (hok : x.launchAs ≠ .refused) :
    x.launchAs = .again := by
  unfold Ctx.launchAs at hok ⊢
  split <;> simp_all

/-- What an admitted context's entry takes from the record before its state changes (R34). -/
def Ctx.launched (x : Ctx) (g : BitVec 32) (row : RowData) : Ctx :=
  if x.launchAs = .anew then { x with graphId := g, node := 0, row := row } else { x with row := row }

theorem launched_anew {x : Ctx} (h : x.launchAs = .anew) (g : BitVec 32) (row : RowData) :
    x.launched g row = { x with graphId := g, node := 0, row := row } := if_pos h

theorem launched_again {x : Ctx} (h : x.launchAs = .again) (g : BitVec 32) (row : RowData) : x.launched g row = { x with row := row } :=
  if_neg (by rw [h]; decide)

/-- A context that holds no saved area enters the pool (R11, R53). -/
theorem admitCtx_pools {s : State} {e : ListElem} (h : (s.ctxAt (ctxIndex e.ctx)).st ≠ .swapped) (g : BitVec 32) (tag cq : Nat) :
    s.admitCtx g tag cq e = (s.setCtx (ctxIndex e.ctx) ((s.ctxAt (ctxIndex e.ctx)).launched g
      { rlen := e.rlen, pos := e.pos, lineage := e.lineage, tag := BitVec.ofNat 32 tag, cq := cq })).poolRow (ctxIndex e.ctx) s.now := by
  unfold State.admitCtx
  exact if_neg h

/-- A SWAPPED context waits for its swap-in (R12). -/
theorem admitCtx_swaps {s : State} {e : ListElem} (h : (s.ctxAt (ctxIndex e.ctx)).st = .swapped) (g : BitVec 32) (tag cq : Nat) :
    s.admitCtx g tag cq e = ((s.setCtx (ctxIndex e.ctx) { (s.ctxAt (ctxIndex e.ctx)).launched g
      { rlen := e.rlen, pos := e.pos, lineage := e.lineage, tag := BitVec.ofNat 32 tag, cq := cq } with
        ppage := BitVec.allOnes 64 }).toState (ctxIndex e.ctx) .parked .page).toTender (ctxDie e.ctx.toNat) (.swapIn e.ctx.toNat) := by
  unfold State.admitCtx
  exact if_pos h

/-- An admitted context changes the Lantern and the wake queues, and nothing else. -/
theorem admitCtx_rest (s : State) (g : BitVec 32) (tag cq : Nat) (e : ListElem) :
    ∃ l tq n, s.admitCtx g tag cq e = { s with lan := l, tenderQ := tq, wakeNo := n } := by
  by_cases h : (s.ctxAt (ctxIndex e.ctx)).st = .swapped
  · rw [admitCtx_swaps h]
    exact ⟨_, _, _, rfl⟩
  · obtain ⟨l, hpool⟩ := poolRow_rest (s.setCtx (ctxIndex e.ctx) ((s.ctxAt (ctxIndex e.ctx)).launched g
      { rlen := e.rlen, pos := e.pos, lineage := e.lineage, tag := BitVec.ofNat 32 tag, cq := cq })) (ctxIndex e.ctx) s.now
    exact ⟨l, s.tenderQ, s.wakeNo, (admitCtx_pools h g tag cq).trans hpool⟩

theorem launchElem_admits {s : State} {q : Nat} {r : SubRec} {g : BitVec 32} {e : ListElem} (h : s.checkLaunch (s.sqAt q).pd g e = none)
    (idx k : Nat) : s.launchElem q r g idx k e = s.admitCtx g r.tag r.cq e := by
  rw [State.launchElem, h]

theorem setLeaf_rest (s : State) (root : Word) (page gpn vlen : Nat) :
    ∃ m p, s.setLeaf root page gpn vlen = { s with mem := m, poison := p } := by
  unfold State.setLeaf
  split
  · exact ⟨_, _, rfl⟩
  · exact ⟨s.mem, s.poison, rfl⟩

theorem dropRef_rest (s : State) (gpn : Nat) : ∃ d, s.dropRef gpn = { s with dir := d } := by
  unfold State.dropRef
  simp only []
  split
  · split <;> exact ⟨_, rfl⟩
  · exact ⟨_, rfl⟩

/-- Unmapping pages changes memory, its poison and the page directory, and nothing else. -/
theorem unmapFrom_rest (s : State) (root : Word) (first : Nat) :
    ∃ m p d, s.unmapFrom root first = { s with mem := m, poison := p, dir := d } := by
  unfold State.unmapFrom
  generalize s.mappedPages root = pages
  induction pages generalizing s with
  | nil => exact ⟨s.mem, s.poison, s.dir, rfl⟩
  | cons page pages ih =>
    rw [List.foldl_cons]
    split
    · obtain ⟨m, p, hleaf⟩ := setLeaf_rest s root page.1 0 0
      obtain ⟨d, href⟩ := dropRef_rest (s.setLeaf root page.1 0 0) page.2.1
      obtain ⟨m', p', d', h⟩ := ih ((s.setLeaf root page.1 0 0).dropRef page.2.1)
      exact ⟨m', p', d', h.trans (by rw [href, hleaf])⟩
    · exact ih s

/-- A freed context (R11): its entry is reset but for GEN. -/
theorem freeCtx_acts (s : State) (i : Nat) :
    (∃ m p d tn l, s.freeCtx i = { s with mem := m, poison := p, dir := d, tender := tn, lan := l }) ∧
    (s.freeCtx i).ctxAt i = { Ctx.reset with gen := (s.ctxAt i).gen + 1, since := s.now } := by
  obtain ⟨m, p, d, h⟩ := unmapFrom_rest s (s.ctxAt i).kvroot 0
  unfold State.freeCtx
  simp only [h]
  exact ⟨⟨_, _, _, _, _, rfl⟩, (ctxAt_setCtx ..).trans (if_pos rfl)⟩

/-- An element of a RELEASE frees its context, or is refused (R39). -/
theorem releaseElem_frees {s : State} {q : Nat} {r : SubRec} {e : ListElem} (hn : s.names e.ctx = true)
    (hpd : (s.ctxAt (ctxIndex e.ctx)).pd = (s.sqAt q).pd) (hr : (s.ctxAt (ctxIndex e.ctx)).releasable = true) (idx k : Nat) :
    s.releaseElem q r idx k e = (s.freeCtx (ctxIndex e.ctx)).toTender (ctxDie e.ctx.toNat) (.released e.ctx.toNat) := by
  simp [State.releaseElem, hn, hpd, hr]

theorem releaseElem_refuses {s : State} {q : Nat} {e : ListElem}
    (h : s.names e.ctx = false ∨ (s.ctxAt (ctxIndex e.ctx)).pd ≠ (s.sqAt q).pd ∨ (s.ctxAt (ctxIndex e.ctx)).releasable = false)
    (r : SubRec) (idx k : Nat) : ∃ code, s.releaseElem q r idx k e = s.refuse q code k r.tag e.ctx.toNat idx := by
  unfold State.releaseElem
  by_cases hn : s.names e.ctx = true
  · by_cases hpd : (s.ctxAt (ctxIndex e.ctx)).pd = (s.sqAt q).pd
    · have hr : (s.ctxAt (ctxIndex e.ctx)).releasable = false :=
        (h.resolve_left (by simp [hn])).resolve_left (by simp [hpd])
      exact ⟨7, by simp [hn, hpd, hr]⟩
    · exact ⟨6, by simp [hn, hpd]⟩
  · exact ⟨5, by simp [hn]⟩

end Sys2Proof.Machine

end

section

namespace Sys2Proof.Machine

/-! ## Records completed (R378 to R380) -/

theorem drainCq_of_empty {s : State} {q : Nat} (hd : (s.cqAt q).due = []) (hh : (s.cqAt q).held = []) (fuel : Nat) :
    s.drainCq q fuel = s := by
  cases fuel with
  | zero => rfl
  | succ fuel => simp only [State.drainCq, hd, hh]

/-- Word 0 of a completion record with the PHASE of its queue (R378). -/
def CompRec.word0 (r : CompRec) (phase : Bool) : Word := (r.words[0] : Word) ||| (if phase then 0x800000000000#64 else 0)

/-- The number that a completion record is written as. -/
def CompRec.image (r : CompRec) (phase : Bool) : Nat :=
  (r.word0 phase).toNat + r.words[1].toNat * 2 ^ 64 + r.words[2].toNat * 2 ^ 128 + r.words[3].toNat * 2 ^ 192

/-- A completion queue's descriptor after a record, before an interrupt covers it (R378, R380). -/
def CqDesc.advanced (d : CqDesc) (now : Nat) : CqDesc :=
  { d with
    tail := BitVec.ofNat 16 ((d.tail.toNat + 1) % 2 ^ d.log2n.toNat)
    phase := if (d.tail.toNat + 1) % 2 ^ d.log2n.toNat = 0 then !d.phase else d.phase
    fresh := d.fresh + 1, first := if d.fresh = 0 then now else d.first }

theorem cqInterrupt_rest (s : State) (q : Nat) :
    ∃ f, s.cqInterrupt q = { s with front := f, msix := s.msix ++ [(q / 1024, (s.cqAt q).vec.toNat)] } := ⟨_, rfl⟩

/-- A record written: its bytes, and an interrupt with the CN-th one (R378, R380). -/
theorem writeComp_acts (s : State) (q : Nat) (r : CompRec) : ∃ p f, s.writeComp q r = { s with
      mem := writeCells s.mem (leCells (hostKey ((s.cqAt q).base.toNat + 32 * (s.cqAt q).tail.toNat)) 32 (r.image (s.cqAt q).phase))
      poison := p, front := f
      msix := s.msix ++ if (s.cqAt q).cn.toNat ≤ (s.cqAt q).fresh + 1 then [(q / 1024, (s.cqAt q).vec.toNat)] else [] } := by
  unfold State.writeComp CompRec.image CompRec.word0
  simp only []
  generalize leCells _ 32 _ = cells
  split
  case isTrue h =>
    obtain ⟨f, hf⟩ := cqInterrupt_rest ((s.writeMem cells).setCq q ((s.cqAt q).advanced s.now)) q
    rw [cqAt_setCq, if_pos rfl] at hf
    exact ⟨(s.writeMem cells).poison, f, hf⟩
  case isFalse h => exact ⟨(s.writeMem cells).poison, _, by rw [List.append_nil]; rfl⟩

/-- The descriptor of a queue to which a record has been written. -/
theorem writeComp_cqAt (s : State) (q : Nat) (r : CompRec) :
    (s.writeComp q r).cqAt q = if (s.cqAt q).cn.toNat ≤ (s.cqAt q).fresh + 1 then { (s.cqAt q).advanced s.now with fresh := 0 }
      else (s.cqAt q).advanced s.now := by
  unfold State.writeComp
  simp only []
  generalize leCells _ 32 _ = cells
  split
  case isTrue h =>
    have hadv : ((s.writeMem cells).setCq q ((s.cqAt q).advanced s.now)).cqAt q = (s.cqAt q).advanced s.now :=
      (cqAt_setCq ..).trans (if_pos rfl)
    exact (cqInterrupt_acts ((s.writeMem cells).setCq q ((s.cqAt q).advanced s.now)) q).2.2.trans (by rw [hadv])
  case isFalse h => exact (cqAt_setCq ..).trans (if_pos rfl)

/-- What a record leaves of a queue's descriptor, whether or not an interrupt covers it. -/
theorem writeComp_descriptor (s : State) (q : Nat) (r : CompRec) :
    ((s.writeComp q r).cqAt q).tail = ((s.cqAt q).advanced s.now).tail ∧ ((s.writeComp q r).cqAt q).phase = ((s.cqAt q).advanced s.now).phase ∧
    ((s.writeComp q r).cqAt q).due = (s.cqAt q).due ∧ ((s.writeComp q r).cqAt q).held = (s.cqAt q).held := by
  rw [writeComp_cqAt]
  split <;> exact ⟨rfl, rfl, rfl, rfl⟩

/-- A completion queue's descriptor with other records due. -/
def CqDesc.withDue (d : CqDesc) (l : List CompRec) : CqDesc := { d with due := l }

/-- One record due to a queue that can take it is written (R379). -/
theorem drainCq_one {s : State} {q : Nat} {r : CompRec} (hd : (s.cqAt q).due = [r]) (hh : (s.cqAt q).held = [])
    (hw : (s.cqAt q).canWrite = true) (ha : s.awaited r = false) :
    s.drainCq q 2 = (s.setCq q ((s.cqAt q).withDue [])).writeComp q r := by
  have hstep : s.drainCq q 2 = ((s.setCq q ((s.cqAt q).withDue [])).writeComp q r).drainCq q 1 := by
    unfold CqDesc.canWrite at hw
    rw [State.drainCq]
    simp only [CqDesc.canWrite, CqDesc.withDue, hd, hh, ha, hw, List.isEmpty_nil, Bool.and_self, Bool.false_eq_true, if_false, if_true]
  obtain ⟨-, -, hdue, hheld⟩ := writeComp_descriptor (s.setCq q ((s.cqAt q).withDue [])) q r
  rw [cqAt_setCq, if_pos rfl] at hdue hheld
  rw [hstep]
  exact drainCq_of_empty hdue (hheld.trans hh) 1

/-- A record due to an enabled queue with room and nothing else to write is written at once (R379). -/
theorem complete_writes {s : State} {q : Nat} {r : CompRec} (hp : s.mgmt.phase ≠ .fatal) (hd : (s.cqAt q).due = []) (hh : (s.cqAt q).held = [])
    (hw : (s.cqAt q).canWrite = true) (ha : s.awaited r = false) :
    s.complete q r = ((s.setCq q ((s.cqAt q).withDue [r])).setCq q (s.cqAt q)).writeComp q r := by
  have hq : (s.setCq q ((s.cqAt q).withDue [r])).cqAt q = (s.cqAt q).withDue [r] := (cqAt_setCq ..).trans (if_pos rfl)
  have hback : ((s.cqAt q).withDue [r]).withDue [] = s.cqAt q := by rw [CqDesc.withDue, CqDesc.withDue, ← hd]
  have hone := drainCq_one (s := s.setCq q ((s.cqAt q).withDue [r])) (q := q) (r := r) (by rw [hq]; rfl) (by rw [hq]; exact hh)
    (by rw [hq]; exact hw) ha
  rw [hq, hback] at hone
  have hdrain : (s.setCq q ((s.cqAt q).withDue [r])).drain q = (s.setCq q ((s.cqAt q).withDue [r])).drainCq q 2 := by
    have hp' : (s.setCq q ((s.cqAt q).withDue [r])).mgmt.phase ≠ .fatal := hp
    rw [State.drain, if_neg hp', hq]
    simp only [CqDesc.withDue, hh, List.length_nil, List.length_singleton]
  have hcomplete : s.complete q r = (s.setCq q ((s.cqAt q).withDue ((s.cqAt q).due ++ [r]))).drain q := if_neg hp
  rw [hcomplete, hd, List.nil_append, hdrain, hone]

/-- What a record that is written at once does (R378 to R380). -/
theorem complete_acts {s : State} {q : Nat} {r : CompRec} (hp : s.mgmt.phase ≠ .fatal) (hd : (s.cqAt q).due = []) (hh : (s.cqAt q).held = [])
    (hw : (s.cqAt q).canWrite = true) (ha : s.awaited r = false) :
    (s.complete q r).mem =
      writeCells s.mem (leCells (hostKey ((s.cqAt q).base.toNat + 32 * (s.cqAt q).tail.toNat)) 32 (r.image (s.cqAt q).phase)) ∧
    (s.complete q r).lan = s.lan ∧
    (s.complete q r).msix = s.msix ++ (if (s.cqAt q).cn.toNat ≤ (s.cqAt q).fresh + 1 then [(q / 1024, (s.cqAt q).vec.toNat)] else []) ∧
    ((s.complete q r).cqAt q).tail = ((s.cqAt q).advanced s.now).tail ∧
    ((s.complete q r).cqAt q).phase = ((s.cqAt q).advanced s.now).phase := by
  obtain ⟨p, f, hs⟩ := writeComp_acts ((s.setCq q ((s.cqAt q).withDue [r])).setCq q (s.cqAt q)) q r
  obtain ⟨htail, hphase, -, -⟩ := writeComp_descriptor ((s.setCq q ((s.cqAt q).withDue [r])).setCq q (s.cqAt q)) q r
  have hq : ((s.setCq q ((s.cqAt q).withDue [r])).setCq q (s.cqAt q)).cqAt q = s.cqAt q := (cqAt_setCq ..).trans (if_pos rfl)
  rw [hq] at hs htail hphase
  rw [complete_writes hp hd hh hw ha]
  generalize leCells _ 32 _ = cells at hs ⊢
  exact ⟨(congrArg State.mem hs).trans rfl, (congrArg State.lan hs).trans rfl, (congrArg State.msix hs).trans rfl, htail, hphase⟩

/-- The four words of the number that a record is written as. -/
theorem image_words (a b c d : Nat) (ha : a < 2 ^ 64) (hb : b < 2 ^ 64) (hc : c < 2 ^ 64) (hd : d < 2 ^ 64) :
    let n := a + b * 2 ^ 64 + c * 2 ^ 128 + d * 2 ^ 192
    n / 256 ^ 0 % 256 ^ 8 = a ∧ n / 256 ^ 8 % 256 ^ 8 = b ∧ n / 256 ^ 16 % 256 ^ 8 = c ∧ n / 256 ^ 24 % 256 ^ 8 = d := by
  omega

/-- The words of a completion record in the host's memory (R378). -/
theorem completion_words (m : Memory) (key : Nat) (r : CompRec) (phase : Bool) :
    readLE (writeCells m (leCells key 32 (r.image phase))) key 8 = (r.word0 phase).toNat ∧
    ∀ k : Fin 4, k ≠ 0 → readLE (writeCells m (leCells key 32 (r.image phase))) (key + 8 * k.val) 8 = (r.words[k] : Word).toNat := by
  obtain ⟨h0, h1, h2, h3⟩ := image_words _ _ _ _ (r.word0 phase).isLt (r.words[1] : Word).isLt (r.words[2] : Word).isLt (r.words[3] : Word).isLt
  refine ⟨(readLE_writeCells_part m key (r.image phase) 0 8 24).trans h0, fun k hk => ?_⟩
  match k with
  | 0 => exact absurd rfl hk
  | 1 => exact (readLE_writeCells_part m key (r.image phase) 8 8 16).trans h1
  | 2 => exact (readLE_writeCells_part m key (r.image phase) 16 8 8).trans h2
  | 3 => exact (readLE_writeCells_part m key (r.image phase) 24 8 0).trans h3

end Sys2Proof.Machine

end

section

namespace Sys2Proof.Machine

/-! ## Launches and releases of one context -/

/-- A LAUNCH of one context under a graph of the table: the context is admitted, and HEAD passes the record (R38, R39). -/
theorem takeRec_admits {s : State} {q : Nat} {r : SubRec} {g : GraphEntry} {e : ListElem} (ht : r.type = 1) (hc : s.checkRec q r = none)
    (hn : r.nctx = 1) (hg : (s.lan.graphs.find? fun g => g.pd = (s.sqAt q).pd && g.addr = r.graph) = some g)
    (he : s.listElem q (s.sqAt q).pd r.list 0 = e) (hl : s.checkLaunch (s.sqAt q).pd g.id e = none) :
    s.takeRec q r = ((s.nameGraph (s.sqAt q).pd r.graph).admitCtx g.id r.tag r.cq e).passRec q := by
  have hnamed : (s.nameGraph (s.sqAt q).pd r.graph).checkLaunch ((s.nameGraph (s.sqAt q).pd r.graph).sqAt q).pd g.id e = none := hl
  rw [takeRec_launches (by omega) hc hn hg, he, launchElem_admits hnamed]

/-- What a LAUNCH of one context leaves of the front end, the instances and the interrupts (R32, R37). -/
theorem admit_passes (s : State) (q : Nat) (pd : BitVec 12) (a : Word) (g : BitVec 32) (tag cq : Nat) (e : ListElem) :
    let t := ((s.nameGraph pd a).admitCtx g tag cq e).passRec q
    t.front.served = q ∧ t.insts = s.insts ∧ t.msix = s.msix ∧
      (t.sqAt q).head = BitVec.ofNat 16 (((s.sqAt q).head.toNat + 1) % 2 ^ (s.sqAt q).log2n.toNat) ∧
      readLE t.mem ((s.sqAt q).key ((s.sqAt q).mirror.toNat + 8)) 8 = ((s.sqAt q).head.toNat + 1) % 2 ^ (s.sqAt q).log2n.toNat ∧
      t.lan = ((s.nameGraph pd a).admitCtx g tag cq e).lan ∧ t.tenderQ = ((s.nameGraph pd a).admitCtx g tag cq e).tenderQ := by
  obtain ⟨l, tq, n, hu⟩ := admitCtx_rest (s.nameGraph pd a) g tag cq e
  have hsq : ((s.nameGraph pd a).admitCtx g tag cq e).sqAt q = s.sqAt q := by rw [hu]; rfl
  obtain ⟨-, hserved, hhead⟩ := passRec_acts ((s.nameGraph pd a).admitCtx g tag cq e) q
  obtain ⟨hlan, htender, hinsts, hmsix⟩ := passRec_frame ((s.nameGraph pd a).admitCtx g tag cq e) q
  have hmirror := passRec_mirror ((s.nameGraph pd a).admitCtx g tag cq e) q
  rw [hsq] at hhead hmirror
  exact ⟨hserved, hinsts.trans (by rw [hu]; rfl), hmsix.trans (by rw [hu]; rfl), by rw [hhead], hmirror, hlan, htender⟩

/-- A context that was not SWAPPED is READY once it has been launched (R11). -/
theorem ctxAt_admitCtx_pools {s : State} {e : ListElem} (h : (s.ctxAt (ctxIndex e.ctx)).st ≠ .swapped) (g : BitVec 32) (tag cq : Nat) :
    (s.admitCtx g tag cq e).ctxAt (ctxIndex e.ctx) = { (s.ctxAt (ctxIndex e.ctx)).launched g
      { rlen := e.rlen, pos := e.pos, lineage := e.lineage, tag := BitVec.ofNat 32 tag, cq := cq } with
        st := .ready, reason := .none, since := s.now, entry := s.now, aged := false } := by
  rw [admitCtx_pools h, ctxAt_poolRow, if_pos rfl, ctxAt_setCtx, if_pos rfl]
  rfl

theorem ctxAt_toTender (s : State) (d : Fin 4) (m : TenderMsg) (i : Nat) : (s.toTender d m).ctxAt i = s.ctxAt i := rfl

/-- A SWAPPED context waits for its page tables, and the Tender of its die is asked for them (R12, R227). -/
theorem admitCtx_swaps_acts {s : State} {e : ListElem} (h : (s.ctxAt (ctxIndex e.ctx)).st = .swapped) (g : BitVec 32) (tag cq : Nat) :
    ((s.admitCtx g tag cq e).ctxAt (ctxIndex e.ctx)).st = .parked ∧ ((s.admitCtx g tag cq e).ctxAt (ctxIndex e.ctx)).reason = .page ∧
    ((s.admitCtx g tag cq e).ctxAt (ctxIndex e.ctx)).row =
      { rlen := e.rlen, pos := e.pos, lineage := e.lineage, tag := BitVec.ofNat 32 tag, cq := cq } ∧
    (s.admitCtx g tag cq e).tenderQ[ctxDie e.ctx.toNat] = (s.tenderQ[ctxDie e.ctx.toNat]).put s.wakeNo (.swapIn e.ctx.toNat) := by
  rw [admitCtx_swaps h]
  rw [ctxAt_toTender, ctxAt_toState, if_pos rfl, ctxAt_setCtx, if_pos rfl]
  refine ⟨rfl, rfl, ?_, Vector.getElem_set_self ..⟩
  unfold Ctx.launched
  split <;> rfl

/-- A released context is freed, and its Tender told (R11, R227). -/
theorem released_passes (s : State) (q i : Nat) (d : Fin 4) (m : TenderMsg) :
    let t := ((s.freeCtx i).toTender d m).passRec q
    t.front.served = q ∧ (t.sqAt q).head = BitVec.ofNat 16 (((s.sqAt q).head.toNat + 1) % 2 ^ (s.sqAt q).log2n.toNat) ∧
      t.ctxAt i = { Ctx.reset with gen := (s.ctxAt i).gen + 1, since := s.now } ∧ t.msix = s.msix ∧
      t.tenderQ[d] = (s.tenderQ[d]).put s.wakeNo m := by
  obtain ⟨⟨me, p, dir, tn, l, hfree⟩, hctx⟩ := freeCtx_acts s i
  obtain ⟨-, hserved, hhead⟩ := passRec_acts ((s.freeCtx i).toTender d m) q
  obtain ⟨hlan, htender, -, hmsix⟩ := passRec_frame ((s.freeCtx i).toTender d m) q
  have hsq : ((s.freeCtx i).toTender d m).sqAt q = s.sqAt q := by rw [hfree]; rfl
  have hq : ((s.freeCtx i).toTender d m).tenderQ[d] = (s.tenderQ[d]).put s.wakeNo m := by
    rw [hfree]
    exact Vector.getElem_set_self ..
  rw [hsq] at hhead
  exact ⟨hserved, by rw [hhead], (ctxAt_congr hlan i).trans ((ctxAt_toTender ..).trans hctx), hmsix.trans (by rw [hfree]; rfl),
    by rw [htender]; exact hq⟩

end Sys2Proof.Machine

end

section

namespace Sys2Proof.Machine

/-! ## Queues and records, assembled -/

/-- Settles O56: each host write is its `_acts` lemma with the laws of the descriptor's or the entry's words; a record is refused, admits
its context or frees it, and HEAD passes it. -/
theorem queuesAndRecordsAct : Obligations.QueuesAndRecordsAct := by
  unfold Obligations.QueuesAndRecordsAct
  refine ⟨?doorbell, ?reconcile, ?sqWord, ?cqWord, ?cqHead, ?light, ?refused, ?launch, ?release, ?complete⟩
  case doorbell =>
    intro s q v h
    refine ⟨s.setSq q.val ((s.sqAt q.val).ring v), congrArg Host.Outcome.next (hostInput_of_takes h ..), ?_, rfl, fun p hp => ?_⟩
    · rw [sqAt_setSq, if_pos rfl, ring_eq_rungDesc]
    · rw [sqAt_setSq, if_neg hp]
  case reconcile =>
    intro s h
    obtain ⟨f, hexec, hsq⟩ := reconcilePass_acts h
    exact ⟨_, hexec, rfl, rfl, hsq⟩
  case sqWord =>
    intro s q k v h d
    have hq : (s.writeSq q.val k.val v).sqAt q.val = d.write k.val v := (sqAt_writeSq ..).trans (if_pos rfl)
    refine ⟨_, sqDescriptorWrite_acts h q k v, fun p hp => (sqAt_writeSq ..).trans (if_neg hp), ?_, ?_, ?_, ?_, ?_, ?_, ?_⟩
    · intro hen
      have hen' : ¬d.en = true := by simp [hen]
      refine ⟨?_, ?_, ?_, ?_⟩ <;> rintro rfl
      · exact hq.trans ((sqWrite_base d v).trans (if_neg hen'))
      · exact hq.trans ((sqWrite_rlBase d v).trans (if_neg hen'))
      · exact hq.trans ((sqWrite_rlLog2n d v).trans (if_neg hen'))
      · exact hq.trans ((sqWrite_mirror d v).trans (if_neg hen'))
    · intro hen
      refine ⟨?_, ?_⟩
      · rintro (rfl | rfl | rfl | rfl)
        · exact hq.trans ((sqWrite_base d v).trans (if_pos hen))
        · exact hq.trans ((sqWrite_rlBase d v).trans (if_pos hen))
        · exact hq.trans ((sqWrite_rlLog2n d v).trans (if_pos hen))
        · exact hq.trans ((sqWrite_mirror d v).trans (if_pos hen))
      · rintro rfl
        exact hq.trans (sqWrite_control_enabled hen v)
    · rintro hen rfl he hlo hhi hrlo hrhi
      have hw := sqWrite_control_ok hen he ⟨hlo, hhi, hrlo, hrhi⟩
      refine ⟨hq.trans hw, fun hne => ?_⟩
      have hmirror := writeSq_mirror (k := 1) (v := v) hen (by rw [hw]) hne
      rw [hw] at hmirror
      refine Eq.trans (congrArg (readLE _ · 8) ?_) hmirror
      cases hloc : v.getLsbD 55 <;> simp only [SqDesc.key, SqDesc.stored, hloc, Bool.false_eq_true, if_true, if_false]
    · rintro hen rfl he hbad
      have hw := sqWrite_control_bad (v := v) hen he (by rw [SqDesc.sizesOk]; omega)
      rw [hq.trans hw]
      exact ⟨hen, rfl⟩
    · rintro rfl
      exact hq
    · rintro rfl
      exact hq.trans (sqWrite_flags d v)
    · rintro rfl
      exact hq.trans (sqWrite_rlHead d v)
  case cqWord =>
    intro s q k v h hdue hheld d n
    have hq : (s.setCq q.val (d.write k.val v)).cqAt q.val = d.write k.val v := (cqAt_setCq ..).trans (if_pos rfl)
    refine ⟨_, cqDescriptorWrite_acts h q k v hdue hheld, rfl, fun p hp => (cqAt_setCq ..).trans (if_neg hp), ?_, ?_, ?_, ?_, ?_⟩
    · rintro rfl
      exact hq.trans (cqWrite_base d v)
    · rintro rfl hen
      exact hq.trans (cqWrite_control_enabled hen v)
    · rintro rfl hen he bad
      refine ⟨fun hbad => ?_, fun hok => hq.trans (cqWrite_control_ok hen he hok)⟩
      rw [hq]
      exact (cqWrite_control_bad hen he hbad).symm ▸ ⟨hen, rfl⟩
    · rintro rfl
      exact hq.trans (cqWrite_flags d v)
    · rintro rfl
      exact hq.trans (cqWrite_pd d v)
  case cqHead =>
    intro s q v h hdue hheld
    refine ⟨_, cqHeadDoorbell_acts h q v hdue hheld, ?_⟩
    split
    · rw [cqAt_setCq, if_pos rfl]
    · rfl
  case light =>
    intro s i k v h x may ro
    have hro : ctxWritable k.val = true ↔ ¬ro := by
      rw [ctxWritable_iff k.isLt]
      simp only [ro, Fin.ext_iff]
      exact Iff.rfl
    have hmay : x.hostWrites = true ↔ may := hostWrites_iff x
    refine ⟨_, lightListWrite_acts h i k v, fun j hj => ?_, fun hr => ?_, fun hr hm => ?_, fun hr hm => ?_⟩
    · by_cases hk : ctxWritable k.val = true
      · by_cases hx : x.hostWrites = true
        · exact ((lightWrite_acts hk hx v).1 j).trans (if_neg hj)
        · rw [lightWrite_discards hk (Bool.eq_false_iff.mpr hx)]
          rfl
      · rw [lightWrite_of_readOnly (Bool.eq_false_iff.mpr hk)]
    · exact lightWrite_of_readOnly (Bool.eq_false_iff.mpr fun hk => hro.mp hk hr) v
    · exact lightWrite_discards (hro.mpr hr) (Bool.eq_false_iff.mpr fun hx => hm (hmay.mp hx)) v
    · obtain ⟨hctx, hhint, hquiet⟩ := lightWrite_acts (hro.mpr hr) (hmay.mpr hm) v
      rw [(hctx i.val).trans (if_pos rfl)]
      refine ⟨fun j _ hj => ctxWord_write_other x k.val v i.val j hj,
        fun hk => ctxWord_write_same x v i.val (by simp only [Fin.ext_iff] at hk; exact hk), ?_, ?_, ?_, ?_,
        fun hk => hhint (congrArg Fin.val hk), fun hk => hquiet fun e => hk (Fin.ext e)⟩ <;> rintro rfl
      · exact ctxWrite_domain x v
      · exact ctxWrite_accepted x v
      · exact ctxWrite_nflags x v
      · exact ctxWrite_sets x v
  case refused =>
    intro s q code hp hq ht hc d n at_
    obtain ⟨hlan, -, hserved, hmsix, hhead⟩ := refused_passes s q code 0xFFFF (s.headRec q).tag 0 d.head.toNat
    refine ⟨_, (launch_takes hp hq ht).trans (congrArg Host.Outcome.next (takeRec_refuses hc)), hlan, hserved, hmsix, hhead,
      fun hfull => refused_log_full hfull .., fun hroom => ?_⟩
    exact refused_log (checkRec_code hc) (headRec_tag s q) hroom rfl rfl
  case launch =>
    intro s q g hp hq r d e n x ht hc hn hg hl row
    have hne : (s.headRec q).type ≠ 2 := fun e => absurd (ht.symm.trans e) (by decide)
    have hexec := (launch_takes hp hq hne).trans (congrArg Host.Outcome.next (takeRec_admits ht hc hn hg rfl hl))
    obtain ⟨hserved, hinsts, hmsix, hhead, hmirror, hlan, htender⟩ := admit_passes s q d.pd r.graph g.id r.tag r.cq e
    have hok : x.launchAs ≠ .refused := launchAs_of_checkLaunch hl
    refine ⟨_, hexec, hserved, hinsts, hmsix, hhead, hmirror, fun hst => ?_, fun hst => ?_, fun hst => ?_⟩
    · have hns : x.st ≠ .swapped := by rcases hst with e | ⟨e, -⟩ <;> rw [e] <;> decide
      refine (ctxAt_congr hlan n).trans ((ctxAt_admitCtx_pools (s := s.nameGraph d.pd r.graph) hns g.id r.tag r.cq).trans ?_)
      have hx := launched_anew (launchAs_anew hst) g.id row
      exact congrArg (fun y : Ctx => { y with st := .ready, reason := .none, since := s.now, entry := s.now, aged := false }) hx
    · have hns : x.st ≠ .swapped := by rcases hst with e | ⟨e, -⟩ <;> rw [e] <;> decide
      refine (ctxAt_congr hlan n).trans ((ctxAt_admitCtx_pools (s := s.nameGraph d.pd r.graph) hns g.id r.tag r.cq).trans ?_)
      have hx := launched_again (launchAs_again hst hok) g.id row
      exact congrArg (fun y : Ctx => { y with st := .ready, reason := .none, since := s.now, entry := s.now, aged := false }) hx
    · obtain ⟨hparked, hpage, hrow, hq'⟩ := admitCtx_swaps_acts (s := s.nameGraph d.pd r.graph) hst g.id r.tag r.cq
      rw [ctxAt_congr hlan n, htender]
      exact ⟨hparked, hpage, hrow, hq'⟩
  case release =>
    intro s q hp hq r d e n ht hc hn
    have hexec := (release_takes hp hq ht).trans (congrArg Host.Outcome.next (takeRec_releases ht hc hn))
    by_cases hgood : s.names e.ctx = true ∧ (s.ctxAt n).pd = d.pd ∧ (s.ctxAt n).releasable = true
    · obtain ⟨hname, hpd, hrel⟩ := hgood
      rw [releaseElem_frees hname hpd hrel] at hexec
      obtain ⟨hserved, hhead, hctx, hmsix, htender⟩ := released_passes s q n (ctxDie e.ctx.toNat) (.released e.ctx.toNat)
      refine ⟨_, hexec, hserved, hhead, fun _ _ _ => ⟨hctx, hmsix, htender⟩, ?_⟩
      rintro (hno | hno | hno)
      · exact absurd hname (by simp [hno])
      · exact absurd hpd hno
      · exact absurd hrel (by simp [hno])
    · have hbad : s.names e.ctx = false ∨ (s.ctxAt n).pd ≠ d.pd ∨ (s.ctxAt n).releasable = false := by
        simpa only [Classical.not_and_iff_not_or_not, Bool.not_eq_true] using hgood
      obtain ⟨code, hcode⟩ := releaseElem_refuses hbad r d.head.toNat 0
      rw [hcode] at hexec
      obtain ⟨hlan, htender, hserved, hmsix, hhead⟩ := refused_passes s q code 0 r.tag e.ctx.toNat d.head.toNat
      exact ⟨_, hexec, hserved, hhead, fun hname hpd hrel => absurd ⟨hname, hpd, hrel⟩ hgood, fun _ => ⟨hlan, htender, hmsix⟩⟩
  case complete =>
    intro s q r d hp hdue hheld hw ha at_ n t
    obtain ⟨hmem, hlan, hmsix, htail, hphase⟩ := complete_acts hp hdue hheld hw ha
    obtain ⟨h0, hk⟩ := completion_words s.mem at_ r d.phase
    rw [← hmem] at h0 hk
    exact ⟨h0, hk, htail, hphase, hlan, hmsix⟩

end Sys2Proof.Machine

end
